-- ==== Sys2Proof/Word.lean ====
section
/-!
DEFINITION. The word types of the PGK4096 model (R5, R6): bytes, 32-bit and 80-bit words, instants.
-/
namespace Sys2Proof

/-- One byte of a message, a record, a register or a memory. -/
abbrev Byte := BitVec 8

/-- One 32-bit register, instruction word or count. -/
abbrev Word := BitVec 32

/-- One 80-bit accumulator of a slice (R233). -/
abbrev Acc80 := BitVec 80

/-- An instant or a span of the block's own clock, in units of 1/6,881,280 ns.
In this unit every instant of the launch schedule is a whole number: 6,881,280 is
196,608 × 35, so a DAC sample (625/3,072 ns) and P/N and P/2N for N = 1 to 8 are whole (R513). -/
abbrev Tick := Nat

/-- A complex sample: real and imaginary part. -/
abbrev Cplx := Int × Int

end Sys2Proof
end

