-- ==== Sys2Proof/Syntax.lean ====
section
/-!
DEFINITION. The commands of the block: one constructor of Instr for each row of spec/opcode_table.json,
and the plain operand types they carry. Every command carries the instant t at which it happens.
-/
namespace Sys2Proof

/-- Network address (16 bytes, IPv4 in mapped form, first octet most significant) and UDP port of a
mailbox peer (R62, R63). -/
structure Peer where
  addr : Nat
  port : Nat
  deriving DecidableEq, Repr

/-- A request that reaches execution on a mailbox: header words 0 to 2 and payload (R41, R50).
Its opcode is the row of the table that carries it. mb 0 to 18 names the mailbox; mb 19 is the
configuration section (R477). -/
structure Req where
  mb      : Nat
  tag     : Nat
  seq     : Nat
  payload : List Byte
  peer    : Peer
  deriving DecidableEq, Repr

/-- An event record of R274, less its CRC, which is computed when it is written out. -/
structure EventRec where
  time    : Nat
  seq     : Nat
  zone    : Nat
  kind    : Nat
  flags   : Nat
  valA    : Nat
  valB    : Nat
  firstCh : Nat
  deriving DecidableEq, Repr

/-- The header of a twin-link frame (R387): sender's identity, RESYNC, LSEQ, ACK, SEND_TIME. -/
structure LinkHdr where
  ident    : Nat
  resync   : Bool
  lseq     : Nat
  ack      : Nat
  sendTime : Nat
  deriving DecidableEq, Repr

/-- What a memory read found (R350, R351). -/
inductive MemResult where
  | clean
  | single
  | uncorrectable
  deriving DecidableEq, Repr

/-- A word of a memory read in error (R348): which of the aligned 8-byte words that the read touches, the data and check bits that come
back inverted, and whether it comes from another address. -/
structure WordErr where
  word   : Nat
  data   : Nat
  check  : Nat
  astray : Bool := false
  deriving DecidableEq, Repr

/-- The physical conditions a boot meets: the two flash slots and what start-up hardware does (R475 to R479). -/
structure BootEnv where
  flash0      : List Byte
  flash1      : List Byte
  xaRuns      : Bool
  loopsLock   : Bool
  mr8Ok       : Bool
  /-- data rates in MT/s at which training passes -/
  trainRates  : List Nat
  bandImageOk  : Bool
  shiftImageOk : Bool
  deriving DecidableEq, Repr

/-- The codes of the four coherent lanes at one converter sample (R123): CXI, CXQ, CYI and CYQ. -/
structure LaneCodes where
  xi : Int
  xq : Int
  yi : Int
  yq : Int
  deriving DecidableEq, Repr

/-- The residuals of one lane of the receiver, or of the synthesiser, after correction (R142): passband gain error and ripple in
mdB, phase error in millidegrees, lane skew in ps, image rejection in mdBc, and the slot where each is worst. -/
structure Resid where
  gain   : Nat
  ripple : Nat
  phase  : Nat
  skew   : Nat
  image  : Nat
  slot   : Nat
  deriving DecidableEq, Repr

/-- The residuals of a calibration run: lanes CXI, CXQ, CYI and CYQ, and the synthesiser (R142). -/
structure CalResid where
  rx : List Resid
  tx : Resid
  deriving DecidableEq, Repr

/-- What one step of a self-test measures for its check (R143): loopback level less the expected one, or X less Y, in mdB; the
compressed peak's place less the expected one in 1/1,000 bin; main-lobe width in ps; peak sidelobe in mdB; phase of the peak in µrad;
the level seen in slots k − 1 and k + 1 below the stimulus in mdB; lanes whose overrange detection was set; counts of the clip
counter; the Raman lanes' deviation in ppm; the TIU stamp less the expected one in ps. -/
structure Blotter where
  level   : Int
  peak    : Int
  width   : Nat
  psl     : Int
  phase   : Int
  xy      : Int
  leak    : List Nat
  ovr     : Nat
  clips   : Nat
  raman   : List Int
  stamp   : Int
  deriving DecidableEq, Repr

/-- One reduction of one channel over one base interval (R229), as a slice program gives it:
kind 0 to 11, the coded value, and the flags PREDICTED, FADE and SATURATED of R230. -/
structure Reduction where
  channel   : Nat
  kind      : Nat
  value     : Nat
  predicted : Bool
  fade      : Bool
  saturated : Bool
  deriving DecidableEq, Repr

/-- One sample of the on-die monitors (R459). -/
structure MonSample where
  temps : List Int
  volts : List Int
  /-- the process monitors too, which are sampled less often; else empty -/
  procs : List Int
  deriving DecidableEq, Repr

/-- A command of the block. -/
inductive Instr where
  -- requests on a mailbox (chapter 02 and each command's own chapter)
  | ident (t : Tick) (q : Req)
  | getParam (t : Tick) (q : Req)
  | setParam (t : Tick) (q : Req)
  | commit (t : Tick) (q : Req)
  | start (t : Tick) (q : Req)
  | stop (t : Tick) (q : Req)
  | calRequest (t : Tick) (q : Req)
  | calStatus (t : Tick) (q : Req)
  | selftest (t : Tick) (q : Req)
  | captureArm (t : Tick) (q : Req)
  | captureStatus (t : Tick) (q : Req)
  | captureRelease (t : Tick) (q : Req)
  | retrieve (t : Tick) (q : Req)
  | retrieveCancel (t : Tick) (q : Req)
  | sessionOpen (t : Tick) (q : Req)
  | sessionClose (t : Tick) (q : Req)
  | sessionModify (t : Tick) (q : Req)
  | zoneLoad (t : Tick) (q : Req)
  | zoneRead (t : Tick) (q : Req)
  | sliceLoad (t : Tick) (q : Req)
  | sliceStart (t : Tick) (q : Req)
  | instRead (t : Tick) (q : Req)
  | instInject (t : Tick) (q : Req)
  | tiuMeasure (t : Tick) (q : Req)
  | timeSet (t : Tick) (q : Req)
  | twinStatus (t : Tick) (q : Req)
  | twinControl (t : Tick) (q : Req)
  | dispLayer (t : Tick) (q : Req)
  | dispCheck (t : Tick) (q : Req)
  | monRead (t : Tick) (q : Req)
  | perfConfig (t : Tick) (q : Req)
  | perfRead (t : Tick) (q : Req)
  | moduleRead (t : Tick) (q : Req)
  | ilkClear (t : Tick) (q : Req)
  | powerMode (t : Tick) (q : Req)
  | reset (t : Tick) (q : Req)
  -- mailbox transport
  /-- the host writes v to IN_PROD of mailbox m -/
  | inProdWrite (t : Tick) (m : Nat) (v : Word)
  | outConsWrite (t : Tick) (m : Nat) (v : Word)
  | responseRelease (t : Tick) (m : Nat)
  /-- the host writes v to the FLUSH register of mailbox m -/
  | flush (t : Tick) (m : Nat) (v : Word)
  /-- the host writes the 32-bit word v at BAR0 offset off -/
  | registerWrite (t : Tick) (off : Nat) (v : Word)
  /-- the host reads the 32-bit word at BAR0 offset off -/
  | registerReadClear (t : Tick) (off : Nat)
  /-- a UDP datagram with this payload reaches the management port at address and port dst, from peer -/
  | mgmtDatagram (t : Tick) (dst peer : Peer) (bytes : List Byte)
  | mgmtBindRelease (t : Tick) (mb : Nat)
  /-- an SPI 0x02 transaction carried these bytes before SPIT_CS_N rose -/
  | spiWriteMessage (t : Tick) (bytes : List Byte)
  /-- an SPI 0x03 transaction clocked n bytes -/
  | spiReadResponse (t : Tick) (n : Nat)
  | spiReadStatus (t : Tick)
  -- schedule, launch and interlock
  | commitLoadComplete (t : Tick)
  | shotGroupBoundary (t : Tick)
  /-- slot's tone launches -/
  | toneLaunch (t : Tick) (slot : Nat)
  /-- the launch-monitor comparator crosses, rising, at t -/
  | launchMonCrossing (t : Tick)
  | launchWindowEnd (t : Tick) (slot : Nat)
  | ramanLaunch (t : Tick) (rma rms : List Int)
  /-- the two lanes' accumulated cells and the cells marked overranged per lane -/
  | ramanAccumulationComplete (t : Tick)
  | ramanRatioDone (t : Tick)
  | runFirstGroup (t : Tick)
  | runProcessingDone (t : Tick)
  /-- ILK_N falls at t and stays low for lowPs picoseconds (none: until further notice) -/
  | ilkNFall (t : Tick) (lowPs : Option Nat)
  -- emitter drive
  | emitUpdate (t : Tick)
  | rampEnd (t : Tick) (ch : Nat)
  /-- the four MPD currents in nA averaged over the millisecond -/
  | powerLoop (t : Tick) (mpd : List Nat)
  | loopClose (t : Tick) (ch : Nat)
  | powerClamp (t : Tick) (ch : Nat)
  | powerLost (t : Tick) (ch : Nat)
  | pumpThRequest (t : Tick)
  | thermistorFault (t : Tick)
  | pumpReturn (t : Tick)
  | wlLoop (t : Tick) (wla wlb : Nat)
  | wlLock (t : Tick)
  | moduleRemoved (t : Tick) (pos : Nat)
  | moduleInserted (t : Tick) (pos : Nat)
  /-- the memory's contents as read at one-byte and at two-byte word addresses; none is a NACK -/
  | moduleRecordRead (t : Tick) (pos : Nat) (one two : Option (List Byte))
  | i2cSclTimeout (t : Tick) (bus : Nat)
  | apdBiasUpdate (t : Tick)
  | apdBiasCut (t : Tick)
  -- calibration and self-test
  /-- the tracker's estimates: of each lane at each receive pilot, gain in mdB and phase in microradians as moved since the last
      passing run; of SYI against SYQ the same from the transmit pilots; and the receive pilots found (bit b for boundary b) -/
  | trackerUpdate (t : Tick) (rx : List (List (Int × Int))) (tx : Int × Int) (found : Nat)
  | pilotLost (t : Tick) (boundary : Nat)
  /-- the converter-area die sensor reads temp, 0.1 mK -/
  | calTempCheck (t : Tick) (temp : Int)
  | calRetry (t : Tick)
  /-- the stimulus in each lane less its expected level, in mdB -/
  | calStep (t : Tick) (level : List Int)
  | calRunEnd (t : Tick) (resid : CalResid)
  | refdivTimeout (t : Tick)
  | blotterStep (t : Tick) (m : Blotter)
  | selftestEnd (t : Tick)
  -- signal chain
  /-- converter samples from number start on reach the channeliser, and the slot's next block is processed if it is due -/
  | pceBlockProcessed (t : Tick) (slot start : Nat) (codes : List LaneCodes)
  | stitchEvaluation (t : Tick)
  | amplitudeProfileComplete (t : Tick)
  | rowWrite (t : Tick)
  | tileClose (t : Tick) (group : Nat)
  | tileRead (t : Tick) (engine : Nat)
  | tileDma (t : Tick) (sl : Nat)
  | bankFadeEnd (t : Tick)
  /-- the base interval of set completes with these reductions -/
  | baseRecordsDelivered (t : Tick) (set : Nat)
  | outputDmaComplete (t : Tick) (sl : Nat)
  | classRecordMade (t : Tick)
  -- slice instructions: slice sl issues the instruction at its program counter
  | nop (t : Tick) (sl : Nat)
  | add (t : Tick) (sl : Nat)
  | sub (t : Tick) (sl : Nat)
  | and (t : Tick) (sl : Nat)
  | or (t : Tick) (sl : Nat)
  | xor (t : Tick) (sl : Nat)
  | shl (t : Tick) (sl : Nat)
  | shr (t : Tick) (sl : Nat)
  | sra (t : Tick) (sl : Nat)
  | mul (t : Tick) (sl : Nat)
  | addi (t : Tick) (sl : Nat)
  | lui (t : Tick) (sl : Nat)
  | slt (t : Tick) (sl : Nat)
  | ld (t : Tick) (sl : Nat)
  | ldh (t : Tick) (sl : Nat)
  | st (t : Tick) (sl : Nat)
  | sth (t : Tick) (sl : Nat)
  | macn (t : Tick) (sl : Nat)
  | macw (t : Tick) (sl : Nat)
  | accst (t : Tick) (sl : Nat)
  | accx (t : Tick) (sl : Nat)
  | acci (t : Tick) (sl : Nat)
  | beq (t : Tick) (sl : Nat)
  | bne (t : Tick) (sl : Nat)
  | blt (t : Tick) (sl : Nat)
  | bge (t : Tick) (sl : Nat)
  | jmp (t : Tick) (sl : Nat)
  | call (t : Tick) (sl : Nat)
  | ret (t : Tick) (sl : Nat)
  | rep (t : Tick) (sl : Nat)
  | mfs (t : Tick) (sl : Nat)
  | mts (t : Tick) (sl : Nat)
  | waitt (t : Tick) (sl : Nat)
  | waitc (t : Tick) (sl : Nat)
  | colFree (t : Tick) (sl : Nat)
  | tileDone (t : Tick) (sl : Nat)
  | outPush (t : Tick) (sl : Nat)
  | evt (t : Tick) (sl : Nat)
  | cycleLo (t : Tick) (sl : Nat)
  | perfLo (t : Tick) (sl : Nat)
  -- temperature, zones, capture
  | accordUpdate (t : Tick)
  | accordFrameComplete (t : Tick)
  | holdoffExpired (t : Tick) (zone crit : Nat)
  | coilRead (t : Tick)
  | coilHoldExpired (t : Tick)
  /-- a qualified edge on TRIGn, at t, with its fraction in 1/65,536 ns -/
  | trigEdge (t : Tick) (n : Nat) (falling : Bool) (edge : Tick) (frac : Nat)
  | starEdge (t : Tick) (edge : Tick) (frac : Nat)
  | starPulseEnd (t : Tick)
  | captureWindowEnd (t : Tick) (slot : Nat)
  | captureSeal (t : Tick) (slot : Nat)
  -- flacon engines
  | flushTimeExpiry (t : Tick)
  | flaconJobStart (t : Tick) (engine : Nat)
  | flaconOutputDrain (t : Tick) (engine : Nat)
  /-- the engine's DEFLATE stream for its job -/
  | flaconCommit (t : Tick) (engine : Nat) (stream : List Byte)
  | decompressionDone (t : Tick) (engine : Nat)
  -- atomiser, rings, network
  | eventFrameSend (t : Tick) (session : Nat)
  /-- kind 2 HEART, 3 BASE, 4 GAP, 5 OBJECT (a piece of the session's oldest complete object) -/
  | streamFrameSend (t : Tick) (session : Nat) (kind : Nat)
  /-- path 0 NET0, 1 NET1, 2 management port, 16 + n ring n (32 event ring, 33 retrieval ring) -/
  | frameTransmit (t : Tick) (path : Nat)
  | keepalive (t : Tick) (session : Nat)
  | sessionCloseComplete (t : Tick) (session : Nat)
  /-- one object of the retrieval job at this position of the round robin; overwritten: its position was, during the read -/
  | retrieveObject (t : Tick) (job : Nat) (overwritten : Bool)
  | retrieveEnd (t : Tick) (job : Nat)
  | ringEnable (t : Tick) (ring : Nat) (v : Word)
  | netLinkChange (t : Tick) (port : Nat) (up : Bool)
  /-- request: 0 ARP, 1 NDP, 2 ICMP echo, 3 membership query; addr the address or group asked for; rct: MAC of the node, sequence
      number and LAN of a redundancy control trailer -/
  | networkRequest (t : Tick) (port kind : Nat) (addr : Nat) (src : Nat) (rct : Option (Nat × Nat × Nat))
  | prpSupervision (t : Tick)
  /-- port and identity of the sender, raw offset from it in ps, measured at this Sync, and the Sync interval in ns -/
  | ptpSync (t : Tick) (port master : Nat) (offPs : Int) (intervalNs : Nat)
  | ptpHoldover (t : Tick)
  -- memory controller
  | memReadComplete (t : Tick) (master addr len : Nat) (errs : List WordErr)
  | memReread (t : Tick) (errs : List WordErr) (upperExpired : Bool)
  | scrubRead (t : Tick) (errs : List WordErr)
  /-- a refresh falls due on a bank; waiting: a C0 or panic request waits for that bank -/
  | refresh (t : Tick) (sc rank bank : Nat) (waiting : Bool)
  /-- refresh rate codes of every rank: 0 low temperature, 1 normal, 2 2x, 3 4x, 4 above the limit -/
  | mr4Poll (t : Tick) (codes : List Nat)
  /-- measured drift in 1/64 UI since the last training, per sub-channel -/
  | dqsTrack (t : Tick) (drift : List Int)
  | ceHealthHour (t : Tick)
  | agePromotion (t : Tick)
  /-- port 0 tile reader, 1 display; level is the fetch buffer's filling in percent (display) -/
  | panic (t : Tick) (port level : Nat)
  | fill (t : Tick)
  -- time base
  | ageingStep (t : Tick)
  | tiuInputEdge (t : Tick) (source : Nat) (rising : Bool)
  | tiuArm (t : Tick)
  | tiuMeasurementDone (t : Tick)
  | tiuTimeout (t : Tick)
  | tiuCodeDensityTest (t : Tick) (temp : Int)
  | pairsyncDrive (t : Tick)
  | pairsyncPulse (t : Tick)
  | pairsyncResultDeadline (t : Tick)
  -- twin
  | heartbeat (t : Tick) (h : LinkHdr) (leaving : Bool) (caps holdMs hbLossUs : Nat) (dark : List Nat)
  | confirm (t : Tick) (h : LinkHdr) (recs : List EventRec)
  | seqTable (t : Tick) (h : LinkHdr) (firstZone : Nat) (next : List Nat)
  | digest (t : Tick) (h : LinkHdr) (firstZone : Nat) (entries : List Nat)
  | handback (t : Tick) (h : LinkHdr) (zone next : Nat)
  | handbackAck (t : Tick) (h : LinkHdr) (zone : Nat)
  | pairsyncFrame (t : Tick) (h : LinkHdr) (sec stamp frac : Nat)
  | rejoinDone (t : Tick) (h : LinkHdr)
  | heartbeatSend (t : Tick)
  | heartbeatLoss (t : Tick)
  | twinRetx (t : Tick)
  | rejoinTimeout (t : Tick)
  | heldRecordExpiry (t : Tick)
  | confirmKeepExpiry (t : Tick)
  | promotion (t : Tick)
  | darkReturn (t : Tick) (zone : Nat)
  | handbackInitiate (t : Tick) (zone : Nat)
  -- instrumentation
  /-- a filtered output of the conversion in progress; chopFault is the chopper monitor's report -/
  | conversionResult (t : Tick) (code : Int) (chopFault : Bool)
  | conversionComplete (t : Tick)
  /-- 0 BREAK, 1 OVERVOLT, 2 both at once -/
  | inputFault (t : Tick) (kind : Nat)
  | fallbackRetry (t : Tick) (input : Nat)
  | instWindow (t : Tick) (n : Nat) (above : Bool) (leftAt : Tick)
  | windowReturn (t : Tick) (n : Nat)
  | fqoUpdate (t : Tick) (n : Nat)
  | fqoTimeout (t : Tick) (n : Nat)
  -- display
  /-- layers of each output whose data is missing in this frame, n = output × 3 + layer, each with the line from which it is missing -/
  | dispFrameStart (t : Tick) (underruns : List (Nat × Nat))
  | dispFrameEnd (t : Tick)
  /-- a row of this output -/
  | waterfallRow (t : Tick) (output : Nat)
  -- clocks, power, monitors
  /-- 0 SPLL, 1 CPLL, 2 MPLL, 3 VPLL, 4 TPLL -/
  | loopLockLoss (t : Tick) (loop : Nat)
  | loopLock (t : Tick) (loop : Nat)
  | xaLost (t : Tick)
  | xaReturn (t : Tick)
  | xbLost (t : Tick)
  | clockSwitchForced (t : Tick) (mux : Nat)
  | clockGate (t : Tick) (domain : Nat)
  | clockWake (t : Tick) (domain : Nat)
  /-- the accesses still outstanding: (master, usable address) -/
  | drainTimeout (t : Tick) (accesses : List (Nat × Nat))
  /-- PWR_FAIL_N has been low since fallAt; it returns high at rise (none: not yet known) -/
  | pwrFailQualified (t : Tick) (fallAt : Tick) (rise : Option Tick)
  | pwrAutoResume (t : Tick)
  | powerTransitionDone (t : Tick) (ok : Bool)
  | monitorSample (t : Tick) (m : MonSample)
  | snap (t : Tick) (v : Word)
  | faultConsWrite (t : Tick) (v : Word)
  -- start-up and resets
  | powerUp (t : Tick) (env : BootEnv)
  /-- RESET_N was low for ns nanoseconds -/
  | resetN (t : Tick) (ns : Nat)
  | watchdogExpiry (t : Tick)
  | lockstepMismatch (t : Tick)
  | perstN (t : Tick)
  | configMessage (t : Tick)
  | bootRetry (t : Tick)
  | xaCheckRetry (t : Tick) (runs : Bool)
  | warmBootTimeout (t : Tick)
  /-- ir: 0 boundary scan (SAMPLE, EXTEST), 1 IDCODE, 2 steward debug access -/
  | jtagAccess (t : Tick) (ir : Nat)
  | resetExecute (t : Tick)
  | pcieEndpointStop (t : Tick)
  | supplyLoss (t : Tick)
  | xbStart (t : Tick)
  /-- quality: the announced data set by which masters compare, lower being better -/
  | ptpAnnounce (t : Tick) (port domain : Nat) (ipv6 : Bool) (master quality : Nat) (utcOffset : Int)
  | ringInterruptHoldoffEnd (t : Tick) (ring : Nat)
  | twinFrameCrcError (t : Tick)
  | warmCountExpiry (t : Tick)
  deriving DecidableEq, Repr

end Sys2Proof
end

