-- ==== Sys2Proof/Decode.lean ====
section
/-!
DEFINITION. The table of the block's commands (spec/opcode_table.json) gives no row any bits: a command is a
request, a register access, a pin event or an instant of one of the block's own engines, never a word. So no word
spells a command. The bytes of messages (R40) and the words of slice programs (R239) are decoded by the meanings
that take them in, from data the machine holds.
-/
namespace Sys2Proof

/-- The command that a word spells by the table's bits: none, as no row of the table has bits. -/
def decodeTableWord (_nbits _w : Nat) : Option Instr := none

end Sys2Proof
end

