-- ==== Sys2Proof/Config.lean ====
section
/-!
DEFINITION. What one part or one board fixes and the manual does not give, and the values the manual leaves open:
constants with no body, so that no proof can see what they are. Each is named in the assumption log.
-/
namespace Sys2Proof

/-- FREE VALUE n of a run: the n-th value the manual leaves open (assumption 4). -/
opaque Config.free : Nat → Nat

/-- VENDOR_ID of R33, Aethop's PCI-SIG value. -/
opaque Config.vendorId : Nat
/-- ORDER_CODE of R33, a fuse: true for PGK4096-IB. -/
opaque Config.orderIB : Bool
/-- Die serial of IDENT (R50). -/
opaque Config.dieSerial : Nat
/-- SYS.MGMT_MAC and ATOM.NET_MAC0 and 1 (port 2, 0, 1), from fuses: six bytes as a number, first octet lowest. -/
opaque Config.mac : Nat → Nat
/-- R475: the key hash fused in the device, a number of 256 bits. -/
opaque Config.keyHash : Nat
/-- R475 memory section: data rate in MT/s, fitted size in MiB, ranks. -/
opaque Config.memSection : List Byte → Nat × Nat × Nat
/-- R476 step 9: FW_VERSION of a firmware section. -/
opaque Config.fwVersion : List Byte → Nat
/-- R344 training results of word n (TRAIN 0 to 15, then VREF 0 to 3) at a data rate. -/
opaque Config.training : Nat → Nat → Nat
/-- R222: coefficient i (0 b0, 1 b2, 2 a1, 3 a2) of section n, 0 to 3, of the decimators, in 2^-20; the manual gives their response
and not their coefficients. -/
opaque Config.decim : Nat → Nat → Int
/-- R224: fraction bits, modulo 5, of the 24-bit words on which the supplied band-energy program filters. -/
opaque Config.bandFrac : Nat
/-- R229: fraction bits, modulo 17, with which it keeps a mean square. -/
opaque Config.powerFrac : Nat
/-- R348: which of the columns left is taken n-th for the check code (i 0: the columns of weight 5 that it uses; 1: the order of all). -/
opaque Config.hsiao : Nat → Nat → Nat
/-- R508: Aethop's manufacturer code, 11 bits of the JTAG IDCODE. -/
opaque Config.jtagMaker : Nat
/-- R440: LFO's own frequency lies at 28,800 Hz + this, taken modulo 6,401. -/
opaque Config.lfo : Nat
/-- R159: tap of the half-band decimator at distance 2i + 1 from its middle, i 0 to 6, in 2^-20; the manual gives its shape and not
its taps. -/
opaque Config.halfBand : Nat → Int
/-- R128: tap i, 0 to 191, of the slot filter from either end; the manual gives its response and not its taps. -/
opaque Config.slotTap : Nat → Int
/-- R129, R130: phase of pilot i, 0 to 6 receive and 7 to 13 transmit, at sample 0, in 2^-64 turn. -/
opaque Config.pilotPhase : Nat → Nat
/-- R135: the coefficients of calibration run n for polarisation p and slot k: gain in mdB, phase in microradians, I/Q gain and I/Q
phase (i 0 to 3). -/
opaque Config.rxCal : Nat → Nat → Nat → Nat → Int
/-- R135: the synthesiser's coefficients of calibration run n: I/Q gain in mdB, I/Q phase in microradians, offsets of SYI and SYQ in
2^-40 code (i 0 to 3). -/
opaque Config.txCal : Nat → Nat → Int

end Sys2Proof
end

