-- ==== Sys2Proof/Machine/State.lean ====
section
/-!
DEFINITION. The state of the PGK4096 as plain data, one structure for each block of the manual. Each field's
docstring names its rule and its width; the value after ":=" is its value at State.reset. Sparse tables
(memories, zones, parameters) are lists of (key, entry) in rising key order that list no entry equal to the
default; what an unlisted key reads as is said at the field.
-/
namespace Sys2Proof.Machine

/-- A saturating counter with its sticky overflow flag (R12). -/
structure Counter where
  val : Nat := 0
  ovf : Bool := false
  deriving DecidableEq, Repr

/-- What a response echoes: mailbox, opcode, tag, sequence and, on UDP, the peer (R41, R62). -/
structure ReqId where
  mb   : Nat
  op   : Nat
  tag  : Nat
  seq  : Nat
  peer : Peer
  deriving DecidableEq, Repr

/-- A response waiting for room in its outbound path (R38, R65). -/
structure Resp where
  tag   : Nat
  seq   : Nat
  final : Bool
  bytes : List Byte
  peer  : Peer
  deriving DecidableEq, Repr

/-- A remembered accepted request of a UDP mailbox (R45): sequence, and the stored final response once made. -/
structure Remembered where
  seq  : Nat
  op   : Nat
  tag  : Nat
  done : Option (List Byte)
  deriving DecidableEq, Repr

/-- One mailbox: control block of R34 (0 to 15), flags and counters of R66 (16 to 18), and the steward's
own record of it. -/
structure Mailbox where
  /-- R34, 32 bits -/
  inProd : Word := 0
  /-- R34, 32 bits -/
  inCons : Word := 0
  /-- R34, 32 bits -/
  outProd : Word := 0
  /-- R34, 32 bits -/
  outCons : Word := 0
  /-- R34 OUT_INT_EN, 1 bit -/
  outIntEn : Bool := false
  /-- R34/R36, 1 bit -/
  overrun : Bool := false
  /-- R34/R43/R66, 1 bit -/
  protoErr : Bool := false
  /-- R34/R43/R66, 1 bit -/
  crcErr : Bool := false
  /-- R34/R514, 1 bit -/
  outErr : Bool := false
  /-- R34/R66, 32 bits, saturating -/
  crcErrCount : Counter := {}
  /-- R34/R66, 32 bits, saturating -/
  refusedCount : Counter := {}
  /-- R37: bytes the steward has taken that do not yet make a whole message -/
  staging : List Byte := []
  /-- R44: tags of the commands in flight -/
  inflight : List Nat := []
  /-- R38/R65: responses made and not yet whole in their outbound path, oldest first -/
  held : List Resp := []
  /-- R38: a 257-unit response whose first 256 units have entered -/
  split : Option Resp := none
  /-- R39: commands started before a flush, whose responses are discarded -/
  flushed : List Nat := []
  /-- R63: the bound source of a UDP mailbox -/
  bound : Option Peer := none
  /-- R63: instant of the last valid request from the bound source -/
  boundAt : Tick := 0
  /-- R45: the last 8 accepted requests, newest first -/
  remembered : List Remembered := []
  /-- R49, R65: messages of mailboxes 16 to 18 that wait for an immediate command of their mailbox to finish -/
  later : List (Peer × List Byte) := []
  deriving DecidableEq, Repr

/-- The protection map of R68, locked by boot ROM code. -/
structure ProtMap where
  /-- R68 LOCKED, 1 bit -/
  locked : Bool := false
  /-- R68 IMAGE_VERSION, 16 bits -/
  version : Nat := 0
  /-- R68 MBCLASS0 to MBCLASS2: the class nibble of mailboxes 0 to 18 -/
  classes : List Nat := []
  /-- R68, 1 bit -/
  perfUser : Bool := false
  /-- R68, 1 bit -/
  perfSlice : Bool := false
  /-- R68, 1 bit -/
  sliceLoadHost : Bool := false
  /-- R68, 1 bit -/
  debug : Bool := false
  /-- R68 REGIONn: first and last MiB, 16 bits each; unlisted regions read BASE 0 and LAST 0 -/
  regions : List (Nat × Nat) := []
  /-- R68 MASTERm: grant bits, 16 bits each -/
  masters : List Nat := []
  deriving DecidableEq, Repr

/-- A COMMIT that is pending (R58 to R60). -/
structure PendingCommit where
  who      : ReqId
  snap     : List (Nat × Nat)
  loaded   : Bool
  /-- instant at which loading ended -/
  loadedAt : Tick
  deriving DecidableEq, Repr

/-- Launch state of one tone slot (R84 to R86). -/
structure ToneSlot where
  /-- commanded launch of the slot's last shot -/
  launch : Tick := 0
  /-- shot number of that shot -/
  shot : Nat := 0
  /-- the launch window is open -/
  window : Bool := false
  /-- first crossing found in the window, as an offset in 1/65,536 ns -/
  crossing : Option Int := none
  /-- a second crossing fell in the window -/
  extra : Bool := false
  /-- R84: the last accepted offsets, newest first -/
  offsets : List Int := []
  /-- origin offset the PCE uses for the shot, 1/65,536 ns -/
  origin : Int := 0
  /-- the origin was substituted (R85) -/
  subst : Bool := false
  /-- R86: consecutive substituted shots -/
  substRun : Nat := 0
  /-- R86: the LAUNCH event has been raised since the last accepted offset -/
  substRaised : Bool := false
  /-- the tone has launched in the current group -/
  launched : Bool := false
  /-- R20: the parameter set of the shot's group -/
  ps : List (Nat × Nat) := []
  deriving DecidableEq, Repr

/-- The run and the launch schedule (chapter 03). -/
structure Run where
  /-- R61 SYS.RUN_STATE: 0 stopped, 1 running, 2 stopping, 3 starting -/
  state : Nat := 0
  /-- the START that waits for its first group -/
  startReq : Option ReqId := none
  /-- STOPs that wait for the end of processing -/
  stopReqs : List ReqId := []
  /-- R91: no further launch: mode 0 after this group, mode 1 at once -/
  stopMode : Option Nat := none
  /-- commanded launch of position 0 of the run's first group -/
  t0 : Tick := 0
  /-- shot-group boundary of the current group -/
  boundary : Tick := 0
  /-- shot number of the current group, 32 bits (R19) -/
  shot : Nat := 0
  /-- first shot number of this run -/
  firstShot : Nat := 0
  /-- shot number the next run's first group takes (R90, R93) -/
  nextShot : Nat := 0
  /-- a run has been made since reset -/
  everRun : Bool := false
  /-- R93: last complete shot number of the previous run -/
  lastShot : Nat := 0xFFFFFFFF
  /-- R93: device time of the end of processing of the previous run -/
  lastEnd : Nat := 0
  /-- commanded launch of the last tone of the last complete group -/
  lastLaunch : Tick := 0
  /-- slots 0 to 7 -/
  slots : List ToneSlot := []
  /-- R83: high intervals of MODGATE driven lately, newest first -/
  modgate : List (Tick × Tick) := []
  /-- R83: high intervals of SOAGATE driven lately, newest first -/
  soagate : List (Tick × Tick) := []
  /-- R87, R88, R188: high intervals of RMNGATE, newest first -/
  rmngate : List (Tick × Tick) := []
  /-- instant at which every ramp START waits for had ended (R89) -/
  rampsDone : Option Tick := none
  /-- groups since the run began -/
  groups : Nat := 0
  /-- SYNTH.LAUNCH_LAST_OFFSET (R86), 1/65,536 ns -/
  lastOffset : Int := 0
  /-- R75, R76, R79: the last pulse launched: number of its first DAC sample, and the codes of SYI and SYQ from there on -/
  wave : Option (Nat × List (Int × Int)) := none
  deriving DecidableEq, Repr

/-- The interlock (R95 to R98). -/
structure Interlock where
  /-- R33 ILK_LATCHED; every reset sets the latch (R96) -/
  latched : Bool := true
  /-- ILK_N is high from this instant on (none: low until further notice) -/
  highAt : Option Tick := some 0
  /-- device time of the last trip -/
  trip : Nat := 0
  deriving DecidableEq, Repr

/-- A linear ramp of an emitter channel (R104). -/
structure Ramp where
  fromCode : Nat
  target   : Nat
  start    : Tick
  dur      : Tick
  deriving DecidableEq, Repr

/-- One emitter channel (R100 to R108). -/
structure EmitCh where
  /-- R100 output code, 16 bits: EMIT.OUT_ACTUALn -/
  code : Nat := 0
  /-- ramp in progress -/
  ramp : Option Ramp := none
  /-- a ramp to this target waits its turn under R106 -/
  waiting : Option Nat := none
  /-- the channels whose ramps it waits for -/
  waitOn : List Nat := []
  /-- R106: the code that it holds while it waits, before derating -/
  hold : Nat := 0
  /-- R107: the power loop is closed -/
  loopClosed : Bool := false
  /-- R107: instant at which the loop closes -/
  closeAt : Option Tick := none
  /-- R107: loop integrator, output code in 1/65,536 code -/
  integ : Nat := 0
  /-- R89: a ramp has ended since the channel was last held at 0 without one -/
  risen : Bool := false
  /-- instant the channel's last ramp ended -/
  rampEndAt : Tick := 0
  /-- R108: at the cap or maximum since -/
  clampSince : Option Tick := none
  /-- R108: POWER_CLAMP raised; clear condition since -/
  clampRaised : Bool := false
  clampClear : Option Tick := none
  /-- R108: below tolerance since -/
  lowSince : Option Tick := none
  lostRaised : Bool := false
  lostClear : Option Tick := none
  deriving DecidableEq, Repr

/-- One module position (R115 to R120). -/
structure Module where
  /-- R118: 0 ABSENT, 1 READING, 2 VALID, 3 INVALID -/
  state : Nat := 0
  /-- R118 reason, 8 bits -/
  reason : Nat := 0
  /-- the presence input is low -/
  present : Bool := false
  /-- R117 cached bytes -/
  cache : List Byte := []
  deriving DecidableEq, Repr

/-- Emitter drive, wavelength loop, modules (chapter 04). -/
structure Emit where
  /-- E0 to E5 -/
  chans : List EmitCh := []
  /-- R112 EMIT.WL_LOCKED -/
  wlLocked : Bool := false
  /-- R112: within tolerance since -/
  wlSince : Option Tick := none
  /-- wavelength loop integrator -/
  wlInteg : Int := 0
  /-- duty of TEC pair 0, signed 1/65,536 -/
  tec0 : Int := 0
  /-- last ratio r of the locker, 1/65,536 -/
  wlRatio : Nat := 0
  /-- R109: last pump thermistor temperature, 0.1 mK -/
  pumpTemp : Option Int := none
  /-- R111: instant of the last good pump conversion -/
  pumpGood : Tick := 0
  /-- R111: good conversions without a break since -/
  pumpGoodSince : Option Tick := none
  /-- R111: the thermistor has failed -/
  pumpFailed : Bool := false
  /-- R110: derating is active -/
  derating : Bool := false
  /-- module positions 0 to 5 -/
  modules : List Module := []
  /-- last MPD currents, nA -/
  mpd : List Nat := [0, 0, 0, 0]
  /-- R127: bias commanded, mV: RECV.APD_BIAS_ACTUAL0 and 1 -/
  apdBias : List Nat := [0, 0]
  /-- R127: the bias is cut -/
  apdCut : Bool := false
  /-- R126: last APD thermistor temperature, 0.1 mK -/
  apdTemp : Option Int := none
  /-- instant of the last good APD thermistor conversion -/
  apdGood : Tick := 0
  /-- the last APD thermistor conversion reported BREAK -/
  apdBreak : Bool := false
  /-- R126: instant at which the bias was last set -/
  apdSetAt : Option Tick := none
  deriving DecidableEq, Repr

/-- Receive corrections of the tracker for one polarisation and slot (R131): gain in mdB, phase in microradians, I/Q gain in mdB and
I/Q phase in microradians. -/
structure RxCorr where
  gain    : Int := 0
  phase   : Int := 0
  iqGain  : Int := 0
  iqPhase : Int := 0
  deriving DecidableEq, Repr

/-- What corrects a shot group (R131, R135): the tracker's receive corrections, X slots 0 to 7 and then Y; its transmit I/Q gain (mdB)
and phase (microradians); and the calibration runs whose coefficients are in use, per scope (0: none). -/
structure Corr where
  rx    : List RxCorr := []
  tx    : Int × Int := (0, 0)
  coef1 : Nat := 0
  coef2 : Nat := 0
  deriving DecidableEq, Repr

/-- A calibration run (R133 to R142). -/
structure CalRun where
  reason   : Nat
  /-- scopes of the run's step list in order: 1 converters, 2 synthesiser -/
  scopes   : List Nat
  done     : Nat
  /-- consecutive waits of the next step (R134) -/
  waits    : Nat
  attached : List ReqId
  /-- starts of the spans placed in shot groups and not yet run, oldest first -/
  placed   : List Tick
  /-- REFDIV: the result's code once it has arrived, and whether it reported a break -/
  refCode  : Option Int
  refBad   : Bool
  /-- instant of the run's last step -/
  lastStep : Option Tick
  /-- instant of the previous paced step -/
  paced    : Tick
  /-- first failure a step reported, as the u16 of R142 (0: none) -/
  fail     : Nat
  /-- R139: the number of the run, which its REFDIV conversion carries -/
  num      : Nat
  deriving DecidableEq, Repr

/-- A self-test in progress (R143, R144). -/
structure SelfTest where
  who    : ReqId
  kind   : Nat
  /-- items still to run: (item number, steps left) -/
  items  : List (Nat × Nat)
  ran    : Nat
  failed : Option Nat
  /-- consecutive waits of the next step -/
  waits  : Nat
  /-- starts of the spans placed and not yet run -/
  placed : List Tick
  /-- instant of the previous paced step -/
  paced  : Tick
  /-- R143: phases of the peak that the present item's steps measured, µrad -/
  phases : List Int
  deriving DecidableEq, Repr

/-- Reception, tracking and calibration (chapter 05). -/
structure Recv where
  /-- R123: number of the next converter sample, and the lane codes kept for the slot filters, oldest first -/
  convAt : Nat := 0
  conv : List LaneCodes := []
  /-- R128: number of the next sample of every slot stream, and per slot the samples kept, X and Y, oldest first -/
  slotAt : Nat := 0
  streams : List (List (Cplx × Cplx)) := []
  /-- R145 RECV.DIE_TEMP, 0.1 mK -/
  dieTemp : Int := 0
  /-- R125: lanes that overranged in the current group -/
  laneOvr : List Bool := [false, false, false, false]
  /-- R125: consecutive groups in which the lane overranged -/
  ovrRun : List Nat := [0, 0, 0, 0]
  /-- R125: HEALTH raised since the lane last had a clean group -/
  ovrRaised : List Bool := [false, false, false, false]
  /-- R132: the tracker holds -/
  trackHeld : Bool := false
  /-- R131, R135: corrections in use, and corrections that wait for the next boundary -/
  corr : Corr := {}
  corrNext : Option (List RxCorr × (Int × Int)) := none
  /-- R132: pilot of boundary b missing since -/
  pilotMiss : List (Option Tick) := []
  /-- R132: PILOT_LOST raised for boundary b since it was last found -/
  pilotRaised : List Bool := []
  /-- the run in progress -/
  cal : Option CalRun := none
  /-- R142: last result, start reason, fail reason, completion time, steps done and in the run -/
  lastResult : Nat := 0
  lastReason : Nat := 0
  lastFail : Nat := 0
  lastTime : Nat := 0
  lastDone : Nat := 0
  lastSteps : Nat := 0
  /-- R89: a calibration has passed since the last reset -/
  passed : Bool := false
  /-- R135: a passed run whose coefficients wait for the next boundary -/
  coefNext : Option CalRun := none
  /-- calibration runs begun -/
  runs : Nat := 0
  /-- R137: STARTUP or RESUME kept pending -/
  pending : Option Nat := none
  /-- R144: automatic causes that wait for the bench test to end -/
  waiting : List Nat := []
  /-- R136: STARTUP is still to come (no entry to FULL or MAINTAIN since reset) -/
  startupDue : Bool := true
  /-- R136: instant of the retry -/
  retryAt : Option Tick := none
  /-- R136/R146 CAL.LAST_TEMP, 0.1 mK -/
  lastTemp : Int := 0
  selftest : Option SelfTest := none
  deriving DecidableEq, Repr

/-- What the unwrapper and stitcher keep for one tone in one bin (R160, R165, R176). -/
structure BinTone where
  /-- unwrapped phase, 32 bits, 2π/2^20 -/
  phi : Option Nat := none
  pbarX : Option Nat := none
  pbarY : Option Nat := none
  /-- offset θ, 2π/2^36 -/
  theta : Int := 0
  /-- accepted updates since reset -/
  accepted : Nat := 0
  deriving DecidableEq, Repr

/-- A bin's counts of one evaluation interval (R181, R185): the interval's number, counted and faded shots and the sum of q per slot,
samples and predicted samples. -/
structure BinIvl where
  num : Nat := 0
  counted : List Nat := []
  faded : List Nat := []
  qSum : List Nat := []
  samples : Nat := 0
  predicted : Nat := 0
  deriving DecidableEq, Repr

/-- What the stitcher keeps for one bin (R175 to R179). -/
structure BinState where
  tones : List BinTone := []
  /-- the reset of R167 that this entry belongs to -/
  epoch : Nat := 0
  /-- newest stitched sample, 2π/2^20 -/
  sLast : Option Int := none
  /-- slope m, 2π/2^28 -/
  slope : Int := 0
  /-- consecutive predicted samples -/
  predRun : Nat := 0
  /-- consensus: (slot, q, Φ − θ', amplitude) of this group's tones so far -/
  group : List (Nat × Nat × Int × Nat) := []
  /-- R181: counts of the newest interval, and of the one before it -/
  cur : BinIvl := {}
  old : BinIvl := {}
  deriving DecidableEq, Repr

/-- A row of a column group waiting in the elastic buffer (R26, R212). -/
structure Row where
  group   : Nat
  slot    : Nat
  shot    : Nat
  /-- exact instant of the row (R175) -/
  instant : Tick
  samples : List Nat
  cons    : Bool
  /-- shots in it with a substituted origin (R85), and with an overrange sample (R125) -/
  subst   : Nat
  ovr     : Nat
  slips   : Nat
  /-- predicted samples in it, edge bins left out -/
  predicted : Nat
  /-- the tile epoch (R212) and the parameter set of its shot -/
  epoch   : Nat
  ps      : List (Nat × Nat)
  deriving DecidableEq, Repr

/-- A shot on its way through the pulse-compression engine, with the set of its own group (R152). -/
structure ShotJob where
  shot      : Nat
  pos       : Nat
  launch    : Tick
  boundary  : Tick
  /-- launch offset in 1/65,536 ns (R84, R85), and whether it was substituted -/
  origin    : Int
  subst     : Bool
  displaced : Bool
  ovr       : Bool
  epoch     : Nat
  tileEpoch : Nat
  ps        : List (Nat × Nat)
  /-- bins done -/
  bins      : Nat
  /-- R131, R135: what corrects its group -/
  corr      : Corr
  /-- R181: number of its evaluation interval, and whether its group is the interval's last -/
  ivl       : Nat
  ivlLast   : Bool
  deriving DecidableEq, Repr

/-- What the tones of a shot group have brought to a column group's consensus row in the making: increments counted under R166,
shots with a substituted origin (R85) and with an overrange sample (R125). -/
structure ConsRow where
  epoch : Nat
  shot  : Nat
  slips : Nat
  subst : Nat
  ovr   : Nat
  deriving DecidableEq, Repr

/-- Pulse compression and stitching state (chapters 06 and 07). -/
structure Pce where
  /-- per bin; unlisted: nothing yet since the last reset of R167 -/
  bins : List (Nat × BinState) := []
  /-- per slot: shots whose returns are still to be processed, oldest first -/
  jobs : List (List ShotJob) := []
  /-- per slot: compressed samples (X, Y) of the shot in progress -/
  lines : List (List (Cplx × Cplx)) := []
  /-- per slot: samples of the row in progress -/
  part : List (List Nat) := []
  /-- per slot: increments of this shot counted under R166 for the row in progress -/
  partSlips : List Nat := []
  /-- per column group: the newest consensus row in the making -/
  consRows : List (Nat × ConsRow) := []
  /-- R172: column groups in consensus -/
  cons : List Nat := []
  /-- R183, R211: column groups whose mode changes: (group, to consensus, number of the first tile in the new mode) -/
  modeNext : List (Nat × Bool × Nat) := []
  /-- rows made of each column group's present tile, and the number of that tile since the last early close of all tiles -/
  rowCnt : List (Nat × Nat) := []
  tileNo : List (Nat × Nat) := []
  /-- R214: the shot group of which a column group stores no further sample -/
  skipShot : List (Nat × Nat) := []
  /-- number of boundaries at which tiles close early so far (R212) -/
  tileEpoch : Nat := 0
  /-- R181: number of the first interval since the last reset of R177, the group of the run at which it began, and number of the first
  interval of the run -/
  ivlBase : Nat := 1
  ivlGroup : Nat := 0
  ivlRun : Nat := 1
  /-- R181, R182: the newest interval whose last group's last tone is being stitched: its number, the bins done, and the device time of
  its end -/
  ivlProg : Option (Nat × Nat × Nat) := none
  /-- R269: sum and number of amplitudes per shot and column group (shot × 4,096 + group) for the profiles in progress -/
  profSum : List (Nat × Nat) := []
  profCnt : List (Nat × Nat) := []
  /-- number of resets of R167 so far -/
  resets : Nat := 0
  deriving DecidableEq, Repr

/-- What one row adds to its tile's header counts (R85, R125, R166, R215). -/
structure RowMark where
  subst     : Nat
  ovr       : Nat
  slip      : Nat
  predicted : Nat
  deriving DecidableEq, Repr

/-- The header values of an open or closed top-note tile (R215). -/
structure Tile where
  group     : Nat
  /-- fresh-ring slot -/
  pos       : Nat
  startTick : Tick
  startTime : Nat
  firstShot : Nat
  columns   : Nat
  samples   : Nat
  cons      : Bool
  epoch     : Nat
  toneMask  : Nat
  skipped   : Nat
  period256 : Nat
  subst     : Nat
  ovr       : Nat
  slip      : Nat
  predicted : Nat
  seq       : Nat
  flags     : Nat
  slotOf    : List Nat
  /-- what each row added to the counts above -/
  marks     : List RowMark := []
  /-- R217: dropped; its rows are discarded as they arrive -/
  dropped   : Bool
  /-- R214: exact row interval -/
  step      : Tick
  /-- instant of the last row -/
  lastTick  : Tick
  /-- R218: device time just after the last row -/
  stopTime  : Nat
  /-- instant of the close -/
  closedAt  : Tick
  /-- the corner-turn read has been made -/
  read      : Bool
  /-- the flacon is committed or a gap record replaces it -/
  settled   : Bool
  /-- R313: FLAC.PRECOND at the close -/
  precond   : Bool := false
  /-- R313: FLAC.BLOCK_KIB and FLAC.WINDOW_LOG2 at the close -/
  blockKib  : Nat := 16
  windowLog : Nat := 15
  deriving DecidableEq, Repr

/-- A gap record of R218. -/
structure Gap where
  start    : Nat
  stop     : Nat
  firstCol : Nat
  cols     : Nat
  tier     : Nat
  cause    : Nat
  tiles    : Nat
  deriving DecidableEq, Repr

/-- A base-note record of R230. -/
structure BaseRec where
  time  : Nat
  chKind : Nat
  value : Nat
  /-- R282: ring segment that holds it -/
  seg   : Nat
  deriving DecidableEq, Repr

/-- The last written value of one reduction (R231). -/
structure LastBase where
  value : Nat
  flags : Nat
  since : Tick
  deriving DecidableEq, Repr

/-- What one top-note tile adds to the counts of a heart tile's header (R215): its group and TILE_SEQ, its LAUNCH_SUBST, OVERRANGE and
SLIP. -/
structure HeartSrc where
  group : Nat
  seq   : Nat
  subst : Nat
  ovr   : Nat
  slip  : Nat
  deriving DecidableEq, Repr

/-- A heart tile in the making or written (R226). -/
structure HeartTile where
  /-- channels 64 × index on -/
  index   : Nat
  /-- instant and device time of row 0, and device time just after the last row -/
  startTick : Tick
  start   : Nat
  stopTime : Nat
  /-- R215: FIRST_SHOT -/
  firstShot : Nat
  period256 : Nat
  samples : Nat
  /-- (channel, its samples) -/
  cols    : List (Nat × List Nat)
  /-- R225: channels that give it no heart samples, or none for part of it: zeros stand there -/
  voids   : List Nat := []
  /-- R28, R215: the top-note tiles it is made of, its predicted channel samples, and whether a consensus channel is among its
  channels -/
  srcs    : List HeartSrc := []
  predicted : Nat := 0
  cons    : Bool := false
  seq     : Nat
  pos     : Nat
  indexed : Bool
  flags   : Nat
  deriving DecidableEq, Repr

/-- Flacon header and place in the archive (R281, R308). -/
structure Flacon where
  segment : Nat
  offset  : Nat
  len     : Nat
  group   : Nat
  start   : Nat
  stop    : Nat
  /-- R284: device time of its last row -/
  newest  : Nat := 0
  commitTime : Nat
  /-- TILE_SEQ of its tile -/
  seq : Nat
  deriving DecidableEq, Repr

/-- An archive segment of 1 MiB (R281). -/
structure Segment where
  index : Nat
  used  : Nat
  openBy : Option Nat
  deriving DecidableEq, Repr

/-- Channels, fresh ring, indexes, heart and base note, archive (chapters 09 and 12). -/
structure Sillage where
  /-- R26: rows waiting in the acquisition elastic buffer, oldest first -/
  elastic : List Row := []
  /-- open tiles -/
  openTiles : List Tile := []
  /-- closed tiles whose slot has not been reused, oldest first -/
  closed : List Tile := []
  /-- R212: next slot in ring order -/
  nextSlot : Nat := 0
  /-- R215 TILE_SEQ per column group -/
  tileSeq : List (Nat × Nat) := []
  /-- R214: samples not stored per group, for the next tile's SKIPPED -/
  skipNext : List (Nat × Nat) := []
  /-- flags of R215 for the next tile of every group: [0] first of run, [1] after COMMIT -/
  firstRun : List Nat := []
  afterCommit : List Nat := []
  /-- groups whose next tile begins in a changed mode -/
  modeChanged : List Nat := []
  /-- external memory, usable addresses (R347): bytes; unlisted bytes read 0 (R363) -/
  dram : List Host.Cell := []
  /-- R218 gap records of the index -/
  gaps : List Gap := []
  /-- base-note records, oldest first (R231) -/
  base : List BaseRec := []
  /-- R282: segment being written and records in it -/
  baseSeg : Nat := 0
  baseUsed : Nat := 0
  /-- last written value per (channel × 16 + kind) -/
  lastBase : List (Nat × LastBase) := []
  /-- channels whose next record of every kind carries FIRST (R221): (channel × 16 + kind) already written since -/
  hearts : List HeartTile := []
  heartNext : Nat := 0
  heartSeq : List (Nat × Nat) := []
  /-- committed flacons, oldest first -/
  flacons : List Flacon := []
  segments : List Segment := []
  segNext : Nat := 0
  /-- R217: instant of the last drop -/
  lastDrop : Option Tick := none
  /-- R227 coefficient banks: active bank, fade in progress, PENDING, pending bank -/
  bankActive : Nat := 0
  bankFading : Bool := false
  bankPending : Bool := false
  bankNext : Nat := 0
  /-- R227: instant at which the swap in progress began, and its CHAN.XFADE -/
  bankAt : Tick := 0
  bankXfade : Nat := 0
  /-- R228: span of the newest fade in the samples' time: begin of the first set's swap, end of the last's -/
  fadeFrom : Option Tick := none
  fadeTo : Option Tick := none
  /-- instant of the last sample that any set has made in a swap -/
  fadeLast : Tick := 0
  /-- chain resets pending per set (R221) -/
  chainReset : List Nat := []
  /-- R251: resets pending on restarted spectral-shift slices: (slice, set) -/
  shiftResets : List (Nat × Nat) := []
  /-- R220: per slice, consecutive late or skipped tiles -/
  lateRun : List (Nat × Nat) := []
  /-- per set: newest reductions delivered: (set, TIME, device tick, reductions) -/
  newest : List (Nat × Nat × Tick × List Reduction) := []
  /-- R31: per lost tier, the oldest sample it held at the entry to VIGIL, until the gap record of the return -/
  vigilFrom : List (Nat × Nat) := []
  /-- bytes written per tier with their instants over the last second (R289): (tier, tick, bytes) -/
  written : List (Nat × Tick × Nat) := []
  deriving DecidableEq, Repr

/-- A Raman temperature T_r (R193, R196). -/
structure RamanTemp where
  /-- 0.1 mK -/
  value : Int
  /-- device time (ns) of its accumulation's end -/
  stop : Nat
  /-- made with a held coil temperature -/
  held : Bool
  /-- the coil temperature T_c it was made with, 0.1 mK -/
  coil : Int
  deriving DecidableEq, Repr

/-- One thermal section (R193, R204, R268). -/
structure Section where
  /-- accord state, 2^-16 of 0.1 mK -/
  state : Option Int := none
  /-- Raman temperatures, newest first: those that a coming update may take (R201) -/
  raman : List RamanTemp := []
  /-- R192: ends of accumulations that gave none for overrange and are still to be flagged -/
  ovr : List Nat := []
  /-- accord FLAGS of the newest update -/
  flags : Nat := 0
  /-- RHO of the newest update, 1/255 -/
  rho : Nat := 0
  residual : Int := 0
  /-- R268 smoothed temperature, 2^-16 of 0.1 mK, and rate, mK/min -/
  smooth : Option Int := none
  rate : Int := 0
  deriving DecidableEq, Repr

/-- One shift result of a window (R200): end of its tile, u, ρ × 65,536, LOCKED, RENEWED. -/
structure ShiftRes where
  stop    : Nat
  u       : Int
  rho     : Nat
  locked  : Bool
  renewed : Bool
  deriving DecidableEq, Repr

/-- What the supplied spectral-shift program keeps for one window (R198, R199). -/
structure ShiftWin where
  ref : List (List Int) := []
  o   : Int := 0
  u   : Int := 0
  started : Bool := false
  deriving DecidableEq, Repr

/-- An accumulation of the Raman lanes (R190 to R192). -/
structure RamanAcc where
  as   : List Int
  s    : List Int
  asOvr : List Nat
  sOvr  : List Nat
  /-- device time of the end of the last record -/
  stop : Nat
  /-- coil temperature in use (0.1 mK), and whether it was held -/
  coil : Option Int
  held : Bool
  /-- R193: PCE.GROUP_INDEX at the end of the accumulation -/
  gi   : Nat
  deriving DecidableEq, Repr

/-- A record of the Raman lanes (R189): its codes of RMA and RMS, 4 ns apart, from the instant start on. -/
structure RamanRec where
  start : Tick
  rma   : List Int
  rms   : List Int
  /-- cells of a record and samples of a cell at its launch -/
  cells : Nat
  width : Nat
  /-- samples already taken -/
  taken : Nat
  /-- it belongs to the accumulation in progress -/
  sums  : Bool
  deriving DecidableEq, Repr

/-- Raman lanes, coil, spectral shift and accord (chapter 08). -/
structure Therm where
  /-- records summed in the accumulation in progress; none: no accumulation -/
  records : Option Nat := none
  /-- R189: the record whose samples are coming -/
  record : Option RamanRec := none
  /-- R190: the buffer of each lane that accumulates, 48-bit cells, RMA and RMS -/
  accAs : List Int := []
  accS : List Int := []
  /-- R192: cells of each that are marked as overranged -/
  accAsOvr : List Nat := []
  accSOvr : List Nat := []
  /-- R188: instant at which the record in progress ends -/
  recordEnd : Tick := 0
  /-- last launch of the Raman source -/
  lastLaunch : Option Tick := none
  /-- buffer that the ratio stage reads -/
  ready : Option RamanAcc := none
  /-- R191: measuring at the last look -/
  measuring : Bool := false
  sections : List (Nat × Section) := []
  /-- R195: latest good reading per sensor: (temperature 0.1 mK, instant) -/
  sensors : List (Option (Int × Tick)) := []
  /-- R413: sensor whose pair is being read, whether its first half is in, and the first half's code -/
  coilIdx : Nat := 0
  coilFirst : Option Int := none
  coilBusy : Bool := false
  /-- R195: start of the last sequence over the sensors -/
  coilReadAt : Option Tick := none
  /-- R196: coil temperature at the last good reading, or at the removal of the box, and that reading's instant -/
  coilGood : Option (Int × Tick) := none
  /-- instant at which the coil box was lost -/
  coilLost : Option Tick := none
  /-- R194, R196: instant from which L_c cannot be formed though the coil has a temperature -/
  lcLost : Option Tick := none
  coilExpired : Bool := false
  spreadRaised : Bool := false
  windows : List (Nat × ShiftWin) := []
  shifts : List (Nat × List ShiftRes) := []
  /-- R205 UPDATE_NUMBER, 32 bits, and UPDATE_TIME of the newest update -/
  updateNo : Nat := 0
  updateTime : Nat := 0
  /-- last whole second of device time passed at the newest update or step (R369) -/
  accordFrom : Nat := 0
  ramanTime : Nat := 0
  frameCoil : Option Int := none
  frameFlags : Nat := 0
  /-- an update has been made whose frame is not yet complete -/
  framePending : Bool := false
  /-- instant of the newest complete frame -/
  frameAt : Option Tick := none
  deriving DecidableEq, Repr

/-- A zone descriptor (R256). -/
structure ZoneDesc where
  first : Nat
  last  : Nat
  stitch : Nat
  owner : Nat
  enable : Nat
  severity : Nat
  bandMask : Nat
  acAssert : Nat
  acClear : Nat
  acLevel : Nat
  acHyst : Nat
  acMin : Nat
  holdoff : Nat
  tAbs : Int
  tRise : Int
  tHyst : Nat
  tDiff : Int
  tAssert : Nat
  tClear : Nat
  tMin : Nat
  loss : Nat
  deriving DecidableEq, Repr

/-- The states of a criterion (R261). -/
inductive CritState where
  | idle
  | pending
  | active
  | holdoff
  deriving DecidableEq, Repr

/-- One criterion of a zone (R261). -/
structure Crit where
  st    : CritState := .idle
  cnt   : Nat := 0
  /-- instant of the CLEARED record -/
  since : Tick := 0
  /-- the last evaluation's TIME, VALUE_A less cause, VALUE_B less cause, FIRST_CHANNEL -/
  time : Nat := 0
  valA : Nat := 0
  valB : Nat := 0
  firstCh : Nat := 0
  deriving DecidableEq, Repr

/-- One zone: descriptor, watcher, stitch evaluation, sequence and twin role. -/
structure Zone where
  desc : Option ZoneDesc := none
  crits : List Crit := []
  /-- R276 next sequence, 32 bits -/
  nextSeq : Nat := 0
  /-- R260 -/
  lastTime : Nat := 0
  records : Counter := {}
  absent : Counter := {}
  acCount : Nat := 0
  tMax : Option Int := none
  riseMax : Option Int := none
  diffMax : Option Int := none
  tMean : Option Int := none
  lossMax : Nat := 0
  /-- R183 effective mode: consensus -/
  effCons : Bool := false
  effPending : Bool := false
  lastChange : Nat := 0
  /-- R182: FADING_DEGRADED is raised; good intervals in a row -/
  fading : Bool := false
  recover : Nat := 0
  fallbacks : Counter := {}
  fadeEvents : Counter := {}
  degMask : Nat := 0
  degCount : Nat := 0
  meanScore : List Nat := []
  predicted : Nat := 0
  samples : Nat := 0
  fadedShare : List Nat := []
  /-- R184: the interval in which the last ZONE_LOAD of the zone fell (0: none) -/
  loadedIn : Nat := 0
  /-- R181: number after that of the last interval evaluated -/
  ivlNext : Nat := 0
  /-- R183, R185: the effective mode has changed and has yet to take effect in a column group -/
  changing : Bool := false
  /-- R387: paired, and whether the last record of a change of pairing was ZONE_PAIRED -/
  paired : Bool := false
  told : Bool := false
  /-- R396: this device acts for the peer -/
  taken : Bool := false
  /-- R396: the peer acts for this device's zone -/
  given : Bool := false
  /-- R396: instant at which loss of the owner was detected -/
  lossAt : Option Tick := none
  /-- R392: dark; the last instant at which a condition held -/
  dark : Bool := false
  darkAt : Tick := 0
  /-- R398: a HANDBACK of the zone is on its way -/
  handing : Bool := false
  /-- R400: the peer's next sequence, from its SEQ_TABLE -/
  peerSeq : Option Nat := none
  deriving DecidableEq, Repr

/-- Break and loss evaluation over the amplitude profile (R269 to R271). -/
structure Profile where
  /-- the newest complete profile p(j) -/
  p : List Nat := []
  /-- boundary of its group, device time -/
  time : Nat := 0
  /-- R270: active break bin; candidate bin and count; no-break count -/
  breakBin : Option Nat := none
  cand : Option Nat := none
  candCnt : Nat := 0
  clearCnt : Nat := 0
  pjl : Nat := 0
  /-- R271: groups in the evaluation, sums of p(j), references in 2^-20 of 1/256 dB -/
  lossCnt : Nat := 0
  lossSum : List Nat := []
  lossRef : List Int := []
  /-- a profile was completed for these groups and waits for evaluation -/
  ready : List (Nat × List Nat) := []
  deriving DecidableEq, Repr

/-- A capture slot: its request, its window and its record (R285 to R297). -/
structure CapSlot where
  /-- R285: 0 FREE, 1 ARMED, 2 POST, 3 SEALING, 4 HELD -/
  state : Nat := 0
  sources : Nat := 0
  fired : Nat := 0
  zone : Nat := 0
  trigZone : Nat := 0xFFFF
  tiers : Nat := 0
  flags : Nat := 0
  firstCh : Nat := 0
  count : Nat := 0
  /-- count as the request gave it (0: every channel from the first) -/
  reqCount : Nat := 0
  preMs : Nat := 0
  postMs : Nat := 0
  reqPostMs : Nat := 0
  trigTime : Nat := 0
  trigFrac : Nat := 0
  preActual : List Nat := [0, 0, 0]
  postActual : Nat := 0
  gaps : Nat := 0
  /-- bytes reserved, then pinned, per tier -/
  bytes : List Nat := [0, 0, 0]
  sealTime : Nat := 0
  deadTime : Nat := 0
  missed : Counter := {}
  seq : Nat := 0
  firstMissed : Nat := 0
  nested : List Nat := []
  nestedExtra : Counter := {}
  trigSeq : Nat := 0
  /-- device time of the window's end, in 1/65,536 ns (R291, R294) -/
  windowEnd : Nat := 0
  /-- instant at which the capture started -/
  startedAt : Tick := 0
  /-- pinned positions: (tier, ring position) -/
  pins : List (Nat × Nat) := []
  deriving DecidableEq, Repr

/-- The capture unit (chapter 12). -/
structure Capture where
  slots : List CapSlot := []
  /-- R296 CAPTURE_SEQ, 32 bits: captures started -/
  seq : Nat := 0
  /-- R287: STAR_N driven until, and ignored until -/
  starUntil : Option Tick := none
  starIgnore : Tick := 0
  deriving DecidableEq, Repr

/-- A job of a flacon engine (R302). -/
inductive FlaconJob where
  /-- archive the closed tile at this fresh-ring slot with this TILE_SEQ -/
  | archive (pos seq : Nat)
  /-- restore this flacon (segment, offset) for a retrieval job (mailbox, tag) -/
  | restore (segment offset mb tag : Nat)
  deriving DecidableEq, Repr

/-- One flacon engine (R303). -/
structure Engine where
  queue : List FlaconJob := []
  running : Option FlaconJob := none
  /-- split rows of the running archive job -/
  splits : List Nat := []
  /-- slot and TILE_SEQ whose tile the receiving buffer holds, and its 65,536 bytes; the running job's bytes -/
  buffer : Option (Nat × Nat) := none
  bufData : List Byte := []
  runData : List Byte := []
  /-- R305 kept flush times: (device time, instant of receipt) -/
  flushes : List (Nat × Tick) := []
  /-- headers of the buffered and of the running tile -/
  bufTile : Option Tile := none
  runTile : Option Tile := none
  /-- R313: instant the running job started, and busy intervals of the last second -/
  busySince : Tick := 0
  busy : List (Tick × Tick) := []
  /-- R313: flacons committed in the last second: (instant, COMP_LEN) -/
  recent : List (Tick × Nat) := []
  deriving DecidableEq, Repr

/-- A frame of the atomiser (R323), less its CRC. -/
structure Frame where
  typ      : Nat
  session  : Nat
  seq      : Nat
  withheld : Nat
  sendTime : Nat
  resumed  : Bool
  last     : Bool
  payload  : List Byte
  dest     : Nat
  destPort : Nat
  dscp     : Nat
  /-- R328, R343: source address and port, as they stood when it was queued -/
  src      : Nat := 0
  srcPort  : Nat := 0
  /-- R329: PRP sequence number of its redundancy control trailer -/
  rct      : Option Nat := none
  deriving DecidableEq, Repr

/-- An object that travels in pieces (R325). -/
structure ObjJob where
  kind   : Nat
  objSeq : Nat
  tag    : Nat
  mb     : Nat
  data   : List Byte
  sent   : Nat
  deriving DecidableEq, Repr

/-- An output session (R314 to R322). -/
structure Session where
  num       : Nat
  transport : Nat
  ports     : Nat
  ring      : Nat
  kindMask  : Nat
  firstZone : Nat
  lastZone  : Nat
  rate      : Nat
  dest      : Nat
  destPort  : Nat
  seq       : Nat
  withheld  : Nat
  /-- R318 tokens in bytes, and the instant they were counted -/
  tokens    : Int
  tokensAt  : Tick
  /-- R322: the next frame carries RESUMED -/
  resumed   : Bool
  lastFrame : Tick
  closing   : Option ReqId
  /-- R317 channel set: (first, last) channel ranges -/
  chanSet   : List (Nat × Nat)
  /-- R327: event records waiting for a frame, and the instant of the first -/
  events    : List EventRec
  eventsAt  : Tick
  /-- heart items, base records, gap records waiting: (kind 2, 3, 4; instant of first; bytes of each) -/
  streams   : List (Nat × Tick × List (List Byte))
  objects   : List ObjJob
  /-- R327: the instants of the event records waiting, and of the items of each kind -/
  eventTs   : List Tick := []
  itemTs    : List (Nat × List Tick) := []
  deriving DecidableEq, Repr

/-- A PCIe ring block (R333). -/
structure Ring where
  baseLo : Word := 0
  baseHi : Word := 0
  sizeLog2 : Nat := 0
  enable : Bool := false
  head : Word := 0
  tail : Word := 0
  wbLo : Word := 0
  wbHi : Word := 0
  intBytes : Word := 0
  intHoldoff : Nat := 0
  full : Bool := false
  cfgErr : Bool := false
  dropped : Counter := {}
  /-- R323: the ring's own sequence, for the event and retrieval rings -/
  seq : Nat := 0
  /-- frames waiting to be written -/
  queue : List Frame := []
  /-- R333: HEAD at the last interrupt, its instant, and an interrupt held back -/
  intHead : Word := 0
  intAt : Option Tick := none
  intHeld : Bool := false
  deriving DecidableEq, Repr

/-- A network port (R328, R331). -/
structure Port where
  link : Bool := false
  /-- event frames, then stream and retrieval frames -/
  evq : List Frame := []
  strq : List Frame := []
  deriving DecidableEq, Repr

/-- A retrieval job (R338 to R341). -/
structure RetrJob where
  who     : ReqId
  tier    : Nat
  target  : Nat
  session : Nat
  start   : Nat
  stop    : Nat
  firstCh : Nat
  count   : Nat
  form    : Nat
  /-- objects delivered: number, bytes, gaps, first and last sample time -/
  objects : Nat
  bytes   : Nat
  gaps    : Nat
  firstT  : Nat
  lastT   : Nat
  /-- START_TIME and column of the last object delivered, for the order of R339 -/
  pos     : Option (Nat × Nat)
  gapsDone : Bool
  cancelled : Bool
  /-- flacon (segment, offset) given to an engine, and what the engine made of it once done: none where it failed -/
  decomp : Option (Nat × Nat)
  out : Option (Option (List Byte))
  deriving DecidableEq, Repr

/-- The atomiser, its rings and ports, and retrieval (chapter 14). -/
structure Atom where
  sessions : List Session := []
  /-- stream rings 0 to 31, event ring 32, retrieval ring 33 -/
  rings : List Ring := []
  /-- R333 RING_CAUSE, 9 bits -/
  ringCause : Nat := 0
  /-- NET0, NET1, management port -/
  ports : List Port := []
  /-- R62, R64, R331: mailbox datagrams at the management port: (source address and port, peer, message) -/
  datagrams : List (Peer × Peer × List Byte) := []
  jobs : List RetrJob := []
  /-- events waiting for the event ring -/
  evRing : List EventRec := []
  evRingAt : Tick := 0
  /-- R327: the instants of those events -/
  evRingTs : List Tick := []
  /-- R329: PRP sequence number, 16 bits -/
  prpSeq : Nat := 0
  prpAt : Tick := 0
  /-- R328: link-layer addresses resolved, per port -/
  resolved : List (Nat × Nat) := []
  /-- the last frame or datagram that left, with its path: the wire -/
  wire : Option (Nat × List Byte) := none
  /-- R62, R64, R328: source and destination of the last datagram that left, and its DSCP -/
  wireEnds : Option (Peer × Peer) := none
  wireDscp : Nat := 0
  /-- R329: sequence number and LAN (0xA, 0xB) of the redundancy control trailer of the last frame that left -/
  wireRct : Option (Nat × Nat) := none
  /-- R334: host memory writes of the last ring write, in order: the frame, then the copy of HEAD; and the place and length of the PAD
  frame before them, whose content is undefined -/
  hostOut : List (Nat × List Byte) := []
  hostPad : Option (Nat × Nat) := none
  /-- R329: PRP node table, newest first: (node's MAC, sequence number, port of its last frame) -/
  prpNodes : List (Nat × Nat × Nat) := []
  /-- R342: the instant from which ATOM.RETR_MAX_MBS lets the next retrieval read begin -/
  retrAt : Tick := 0
  deriving DecidableEq, Repr

/-- A memory request waiting in the controller (R354 to R356). -/
structure MemReq where
  cls   : Nat
  since : Tick
  addr  : Nat
  deriving DecidableEq, Repr

/-- The memory controller (chapter 15). -/
structure Memc where
  /-- R364 from the boot image -/
  fittedMib : Nat := 0
  rateMts : Nat := 0
  ranks : Nat := 0
  /-- R345 MEMC.TRAIN0 to 15 and VREF0 to 3 -/
  train : List Nat := []
  vref : List Nat := []
  /-- R364 -/
  lastCe : Nat := 0xFFFFFFFFFFFFFFFF
  lastUe : Nat := 0xFFFFFFFFFFFFFFFF
  /-- R360 MEMC.REFRESH_STATE: factor code and largest number postponed since the last read -/
  factor : Nat := 0
  postMax : Nat := 0
  /-- postponed refreshes per bank, index (sc × 2 + rank) × 8 + bank -/
  postponed : List (Nat × Nat) := []
  /-- R350: corrected errors in the hour, HEALTH raised -/
  ceHour : Nat := 0
  ceRaised : Bool := false
  /-- R351 re-reads in progress, oldest first: (master, 7 for the scrubber; address; length; tries left) -/
  reread : List (Nat × Nat × Nat × Nat) := []
  /-- R353 scrubber's next word address -/
  scrubAt : Nat := 0
  /-- R363 MiB still to fill, ascending -/
  fillLeft : List (Nat × Nat) := []
  /-- R357 panic of tile reader and display -/
  panicTile : Bool := false
  panicDisp : Bool := false
  /-- 0 not in use, 1 normal operation, 2 partial-array self-refresh, 3 full self-refresh -/
  power : Nat := 0
  queue : List MemReq := []
  /-- R346: write DQ delay drift per rank since the training, in 1/64 UI, index SC × 2 + rank, and the ranks whose HEALTH is raised -/
  drift : List Int := []
  driftRaised : List Nat := []
  /-- R346, R359, R350: instants of the last oscillator reads, of the last MR4 reads and of the end of the last hour -/
  trackAt : Option Tick := none
  mr4At : Option Tick := none
  ceHourAt : Option Tick := none
  /-- data of the last read delivered to its initiator, and whether it was a FAULT response -/
  readData : List Byte := []
  readFault : Bool := false
  deriving DecidableEq, Repr

/-- An address generator (R235). -/
structure Agen where
  /-- 18 bits -/
  base : Nat := 0
  idx : Word := 0
  step : Word := 0
  /-- 18 bits -/
  len : Nat := 0
  /-- 0 linear, 1 modulo, 2 bit-reversed -/
  mode : Nat := 0
  deriving DecidableEq, Repr

/-- The header of a slice image (R249). -/
structure Image where
  kind : Nat
  entry : Nat
  inBase : Nat
  inCols : Nat
  hdrBase : Nat
  stateBase : Nat
  stateBytesSet : Nat
  stateLimit : Nat
  finBase : Nat
  finBytes : Nat
  dataAddr : Nat
  /-- instruction words -/
  code : List Word
  data : List Byte
  /-- supplied with the firmware: its code is not in the manual -/
  supplied : Bool
  deriving DecidableEq, Repr

/-- Second-order filter section (R223): inputs x1, x2 and outputs y1, y2 before. -/
structure Biquad where
  x1 : Int := 0
  x2 : Int := 0
  y1 : Int := 0
  y2 : Int := 0
  deriving DecidableEq, Repr

/-- A half-rate decimator (R222): its four sections, and whether its next output awaits one more input. -/
structure Decim where
  secs : List Biquad := []
  odd  : Bool := false
  deriving DecidableEq, Repr

/-- One band of a channel (R223, R227, R229): the filter on the bank in use, that on the bank swapped to, samples since the swap
began, the smoothed power, and of the interval in progress the sum of squares, its samples and saturation. -/
structure BandSt where
  own   : List Biquad := []
  next  : List Biquad := []
  ran   : Nat := 0
  power : Nat := 0
  sq    : Nat := 0
  n     : Nat := 0
  sat   : Bool := false
  deriving DecidableEq, Repr

/-- What the supplied band-energy program keeps of one channel (R222 to R225, R229). -/
structure ChanSt where
  /-- decimators into stages 1 to 7 -/
  decs  : List Decim := []
  /-- bands 0 to 7 -/
  bands : List BandSt := []
  /-- of the interval: increments taken, their sum and sum of squares and the largest square, all of the input scaled to interleave -/
  n     : Nat := 0
  sum   : Int := 0
  sumSq : Nat := 0
  peak  : Nat := 0
  /-- some sample of the interval was predicted -/
  pred  : Bool := false
  /-- R225: unwrapped heart phase, and samples of stage h made of the tile in hand -/
  psi   : Int := 0
  heart : List Nat := []
  /-- predicted samples of the tile in hand -/
  predN : Nat := 0
  deriving DecidableEq, Repr

/-- A base interval that is complete and waits for its delivery (R229 to R231). -/
structure BaseIvl where
  /-- instant of its first sample -/
  start : Tick := 0
  /-- instant and device time of its last sample -/
  last : Tick
  time : Nat
  cons : Bool
  reds : List Reduction
  /-- R232: the dead bands of kinds 0 to 7, 8 and 9, and 10 -/
  db   : List Nat
  deriving DecidableEq, Repr

/-- What a slice keeps of one set while it runs the supplied band-energy program (R219). -/
structure BandSet where
  /-- PHASE of the last sample of each bin -/
  last  : List (Nat × Nat) := []
  chans : List (Nat × ChanSt) := []
  /-- R211: tiles of a joined set that wait for the set's others, with their data -/
  held  : List (Tile × List Byte) := []
  /-- R227: bank in use, and the bank swapped to with its CHAN.XFADE -/
  bank  : Nat
  swap  : Option (Nat × Nat) := none
  /-- tiles of the base interval in progress, its first instant, consensus among them, and its smoothing and dead bands (R232) -/
  tiles : Nat := 0
  start : Tick := 0
  cons  : Bool := false
  /-- R228: a fade overlaps what it has taken so far -/
  fade  : Bool := false
  smooth : Nat := 0
  db    : List Nat := []
  /-- complete intervals, oldest first -/
  due   : List BaseIvl := []
  deriving DecidableEq, Repr

/-- A tile given to a slice (R242, R243). -/
structure SliceTile where
  /-- the tile as it closed -/
  tile : Tile
  /-- fresh-ring slot, TILE_SEQ, column group and set -/
  pos : Nat
  seq : Nat
  group : Nat
  set : Nat
  setIdx : Nat
  reset : Bool
  hdrSlot : Nat
  /-- header in place -/
  ready : Bool
  /-- columns written, columns in all, ring position of column 0, columns freed -/
  colsIn : Nat
  cols : Nat
  inPos : Nat
  freed : Nat
  /-- R220: close plus one tile time -/
  deadline : Tick
  startCycle : Nat
  /-- instant at which the slice could begin it -/
  startAt : Tick := 0
  /-- R216: header and data as the one read delivers them -/
  read : Option (List Byte × List Byte) := none
  deriving DecidableEq, Repr

/-- An output descriptor in the queue, with the tile that its slice worked on at the push (R244). -/
structure OutDesc where
  bytes : List Byte
  tile  : Option Tile
  reset : Bool
  deriving DecidableEq, Repr

/-- One slice of the array (R233). -/
structure Slice where
  /-- R255: 0 empty, 1 loaded, 2 running, 3 fault -/
  status : Nat := 0
  cause : Nat := 0
  image : Option Image := none
  /-- program counter, word index -/
  pc : Nat := 0
  /-- G0 to G15 -/
  regs : List Word := []
  /-- ACC0 to ACC3 -/
  accs : List Acc80 := []
  ags : List Agen := []
  /-- STATUS bits -/
  sat : Bool := false
  outDrop : Bool := false
  evtDrop : Bool := false
  cycles : Nat := 0
  /-- CYCLE_HI latched by the read of CYCLE_LO -/
  cycleHi : Word := 0
  tiles : List SliceTile := []
  /-- next input-ring position to be written -/
  inNext : Nat := 0
  /-- output descriptors queued -/
  outQ : List OutDesc := []
  evtQ : List (List Byte) := []
  finHead : Word := 0
  finTail : Word := 0
  perfSel : Nat := 0
  perfLatch : Nat := 0
  /-- data memory: bytes; unlisted bytes read 0 (R249) -/
  dmem : List Host.Cell := []
  /-- cycle counts of its last 16 tiles -/
  tileCycles : List Nat := []
  /-- what the last instruction made that costs the next a stall if it reads it (R239): register, or 16 + accumulator -/
  hazard : Option Nat := none
  waiting : Bool := false
  /-- R234: cycles that a DMA transfer has waited for slot B -/
  dmaWait : Nat := 0
  /-- R219: what the supplied band-energy program keeps of its sets, by their lowest group -/
  sets : List (Nat × BandSet) := []
  /-- R198: tiles that the supplied spectral-shift program has taken, with their data, until its windows are done -/
  taken : List (Tile × List Byte) := []
  deriving DecidableEq, Repr

/-- A SLICE_LOAD in progress (R250). -/
structure SliceLoading where
  first : Nat
  count : Nat
  total : Nat
  bytes : List Byte
  deriving DecidableEq, Repr

/-- The slice array (chapter 10). -/
structure Slices where
  tab : List (Nat × Slice) := []
  loading : Option SliceLoading := none
  /-- R250 SLICE.LOAD_RESULT -/
  loadResult : Nat := 0
  deriving DecidableEq, Repr

/-- A TIU_MEASURE in flight (R377 to R381). -/
structure TiuJob where
  who : ReqId
  startIn : Nat
  stopIn : Nat
  mode : Nat
  arm : Nat
  preStart : Nat
  preStop : Nat
  gate : Nat
  n : Nat
  used : List Int
  excluded : Nat
  /-- armed since -/
  armed : Option Tick
  /-- earliest next arming -/
  armFrom : Tick
  /-- prescaled edge counts since arming -/
  cntStart : Nat
  cntStop : Nat
  /-- instants of the stamps of start and stop, or of the two edges of a period -/
  first : Option Tick
  second : Option Tick
  inclFlagged : Bool
  /-- values latched at arming: TIU_EDGE, TIU_TIMEOUT_MS, TIU_STOP_DELAY_NS (R384) -/
  edges : Nat
  timeoutMs : Nat
  stopDelay : Nat
  deriving DecidableEq, Repr

/-- A stretch of the device-time counter at one rate (R366, R368, R369, R371): from instant start on, device time dev (2^-32 ns),
PTP rate (10^-12), slew still to remove (2^-16 ns) and its limit (ppb); on the AON backup counter or not, and its clock in Hz. -/
structure TimeSeg where
  start  : Tick
  dev    : Nat
  rate   : Int
  slew   : Int
  ppb    : Nat
  backup : Bool
  hz     : Nat
  deriving DecidableEq, Repr

/-- A PTP master whose Announce messages stand (R370): the port it is heard at, its identity, its data set as one number (lower is
better), the UTC offset it gives, and when it was last heard. -/
structure PtpMaster where
  port : Nat
  master : Nat
  quality : Nat
  utcOffset : Int
  at_ : Tick
  deriving DecidableEq, Repr

/-- Device time, PTP, TIU and PAIRSYNC (chapter 16). -/
structure TimeBase where
  /-- device time at devAt, in 2^-32 ns (R368) -/
  dev : Nat := 0
  devAt : Tick := 0
  /-- R513: the stretches of the counter before devAt, newest first -/
  past : List TimeSeg := []
  /-- R384 TIME.STATE -/
  valid : Bool := false
  fromBackup : Bool := false
  stepped : Bool := false
  onLfo : Bool := true
  /-- R366 correction in force, 10^-12, and the instant of its last step -/
  ageing : Int := 0
  ageAt : Option Tick := none
  /-- R369 slew still to be removed, 2^-16 ns, signed -/
  slew : Int := 0
  /-- device time runs on the AON backup counter (R368, R442) -/
  backup : Bool := false
  utcOffset : Int := 0
  /-- R371 -/
  ptpState : Nat := 0
  ptpOffset : Int := 0
  ptpFreq : Int := 0
  /-- rate the loop applies, 10^-12 -/
  ptpRate : Int := 0
  ptpGood : Nat := 0
  ptpSyncAt : Tick := 0
  ptpInterval : Nat := 0
  /-- R370: the chosen master: port and identity -/
  ptpMaster : Option (Nat × Nat) := none
  /-- R370: masters whose Announce messages are in force -/
  ptpForeign : List PtpMaster := []
  ptpSlewTold : Bool := false
  /-- R375 last edge per source -/
  lastEdge : List (Nat × Tick) := []
  tiu : Option TiuJob := none
  /-- R378: levels of TIN0 to TIN7, a pin each -/
  tinHigh : Nat := 0
  /-- R374 die temperature of the phase table -/
  tableTemp : Option Int := none
  tables : Nat := 0
  /-- R382: pulse received in this second, 1/65,536 ns; peer's stamp; second; driving until -/
  psOwn : Option Nat := none
  psPeer : Option Nat := none
  psSec : Nat := 0
  psIgnore : Tick := 0
  psOffset : Int := 0
  psDelay : Nat := 0
  psAge : Nat := 0xFFFFFFFF
  psMiss : Nat := 0
  psRaised : Bool := false
  /-- R383: the last second that gave a result -/
  psDone : Option Nat := none
  /-- R384: TIME.PAIRSYNC_EN as it stood before the whole second psFrom, in ns, from which the key's present value holds -/
  psWas : Bool := false
  psFrom : Nat := 0
  deriving DecidableEq, Repr

/-- The content of a reliable twin-link frame (R387). -/
inductive LinkMsg where
  | confirm (recs : List EventRec)
  | seqTable (first : Nat) (next : List Nat)
  | digest (first : Nat) (entries : List Nat)
  | handback (zone next : Nat)
  | handbackAck (zone : Nat)
  | rejoinDone
  deriving DecidableEq, Repr

/-- A reliable frame sent and not yet acknowledged (R388). -/
structure LinkOut where
  lseq : Nat
  resync : Bool
  msg : LinkMsg
  sentAt : Tick
  resends : Nat
  deriving DecidableEq, Repr

/-- A record held or a confirmed record kept (R393, R394). -/
structure HeldRec where
  record : EventRec
  since : Tick
  matched : Bool
  deriving DecidableEq, Repr

/-- Twin operation (chapter 17). -/
structure Twin where
  /-- R386: 0 OFF, 1 ALONE, 2 JOINING, 3 PAIRED -/
  link : Nat := 0
  linkChange : Nat := 0
  joinAt : Tick := 0
  /-- instant the last peer frame was accepted -/
  peerAt : Option Tick := none
  peerCaps : Nat := 0
  peerDark : List Nat := []
  conflictTold : Bool := false
  /-- R388 next LSEQ to send, last LSEQ accepted, next frame carries RESYNC -/
  lseq : Nat := 0
  accepted : Nat := 0
  resyncNext : Bool := false
  unacked : List LinkOut := []
  sendQ : List LinkMsg := []
  /-- non-reliable frames and acknowledgements due -/
  hbSent : Tick := 0
  forceDark : Bool := false
  /-- own LEAVING has been sent -/
  leaving : Bool := false
  held : List HeldRec := []
  kept : List HeldRec := []
  /-- peer's digest entry per zone -/
  peerDigest : List (Nat × Nat) := []
  /-- rejoin: own SEQ_TABLE sent, REJOIN_DONE sent, peer's received -/
  seqSent : Bool := false
  doneSent : Bool := false
  doneGot : Bool := false
  peerSeqs : Nat := 0
  peerDigs : Nat := 0
  deriving DecidableEq, Repr

/-- A conversion of the instrumentation converter (R406 to R416). -/
structure Conv where
  /-- 0 to 15 AINn, 16 REFDIV -/
  input : Nat
  /-- 0 scan, 1 pump, 2 APD, 3 coil, 4 calibration, 5 host -/
  req : Nat
  /-- settings word in the layout of R417 -/
  cfg : Nat
  startAt : Tick
  given : Nat
  /-- R407, R408: when its filter began to settle: after the multiplexer's 10 µs, or at the last restart -/
  settleAt : Tick := 0
  /-- R409: settled outputs since then -/
  outs : Nat := 0
  /-- R411: coarse outputs since then -/
  coarse : Nat := 0
  /-- R139: number of the calibration run that asked for it -/
  run : Nat := 0
  reversed : Bool
  fallback : Bool
  result : Option Int
  flags : Nat
  deriving DecidableEq, Repr

/-- The accumulation of one input (R420 to R422). -/
structure Accum where
  sum : Int := 0
  count : Nat := 0
  min : Int := 0x7FFFFFFF
  max : Int := -0x80000000
  flags : Nat := 0
  settling : Nat := 0
  /-- R417 REVERSE: the next conversion is reversed -/
  revNext : Bool := false
  deriving DecidableEq, Repr

/-- The last result that entered an accumulation, and the accumulation before it: an INST_READ in the same cycle restarts between the
two (R421). -/
structure Take where
  at_ : Tick
  input : Nat
  before : Accum
  code : Int
  fallback : Bool
  coarse : Bool
  deriving DecidableEq, Repr

/-- A frequency output (R425 to R427). -/
structure Fqo where
  failsafe : Bool := true
  lastWrite : Option Tick := none
  out : Nat := 0
  deriving DecidableEq, Repr

/-- Instrumentation (chapter 18). -/
structure Inst where
  running : Option Conv := none
  queue : List Conv := []
  /-- last input scanned -/
  scanAt : Option Nat := none
  accums : List Accum := []
  /-- R421: the last result that entered an accumulation -/
  lastTake : Option Take := none
  hostReq : Option ReqId := none
  /-- R419: inputs on the fall-back path, with the instant of the next retry -/
  fallback : List (Nat × Tick) := []
  /-- R423: AIN12 to AIN15 OUTSIDE -/
  outside : List Bool := [false, false, false, false]
  /-- R423: since when each comparator judges its present band: its enabling, the last change of a threshold, or of its state -/
  winSince : List Tick := [0, 0, 0, 0]
  fqos : List Fqo := []
  /-- R410 banks A and B: tap index + 200 × bank → coefficient (two's complement word); unlisted taps read 0 -/
  taps : List (Nat × Nat) := []
  /-- R428 BUSY_PCT accounting: busy intervals of the last second -/
  busy : List (Tick × Tick) := []
  deriving DecidableEq, Repr

/-- A display layer of an output (R432, R433, R438). -/
structure Layer where
  /-- 40 descriptor bytes in force -/
  desc : Option (List Byte) := none
  next : Option (List Byte) := none
  /-- R438: the line of the frame from which the layer is off -/
  offFrom : Option Nat := none
  /-- R434 waterfall rows, newest first, as index lists; a completed row not yet shown -/
  rows : List (List Nat) := []
  rowNext : List (List Nat) := []
  /-- instant at which the last row ends and the next begins -/
  rowAt : Tick := 0
  deriving DecidableEq, Repr

/-- A check rectangle (R437). -/
structure Check where
  x : Nat := 0
  y : Nat := 0
  w : Nat := 0
  h : Nat := 0
  expect : Nat := 0
  /-- values that apply from the next frame start -/
  next : Option (Nat × Nat × Nat × Nat × Nat) := none
  lastCrc : Nat := 0
  /-- the last frame mismatched -/
  bad : Bool := false
  deriving DecidableEq, Repr

/-- The display (chapter 19). -/
structure Disp where
  /-- output × 3 + layer -/
  layers : List Layer := []
  /-- output × 8 + rectangle -/
  checks : List Check := []
  /-- R435 maps 2 and 3: entry + 256 × map → RGB; unlisted entries read 0 -/
  cmap : List (Nat × Nat) := []
  /-- maps as they show from the last frame start -/
  cmapShown : List (Nat × Nat) := []
  /-- DISP.BG_RGB as it shows from the last frame start (R439) -/
  bgShown : Nat := 0
  frames : Nat := 0
  inFrame : Bool := false
  /-- R430: the outputs stop until VPLL has relocked -/
  stopped : Bool := false
  deriving DecidableEq, Repr

/-- A monitor of R459. -/
structure Monitor where
  /-- last 16 samples, newest first -/
  samples : List Int := []
  value : Option Int := none
  min : Option Int := none
  max : Option Int := none
  out : Bool := false
  everOut : Bool := false
  trip : Bool := false
  deriving DecidableEq, Repr

/-- A power-mode transition in progress (R454, R456). -/
structure Transition where
  who : Option ReqId
  source : Nat
  target : Nat
  /-- CLK.LAST_MODE_CAUSE to report -/
  cause : Nat
  /-- execute START at the end (R456) -/
  thenRun : Bool
  deriving DecidableEq, Repr

/-- A performance counter (R463 to R467). -/
structure Perf where
  val : Nat := 0
  ovf : Bool := false
  mode : Nat := 0
  event : Nat := 0
  qual : Nat := 0
  /-- EDGE mode on a level signal: instances that were high at the last look -/
  was : List Nat := []
  /-- R13, R467: instant of the last increment, and what has been counted in its cycle -/
  last : Option (Tick × Nat) := none
  deriving DecidableEq, Repr

/-- Clocks, power, monitors, performance counters (chapter 20). -/
structure Clk where
  /-- R33 POWER_MODE: 0 OFF, 1 STANDBY, 2 VIGIL, 3 MAINTAIN, 4 FULL -/
  mode : Nat := 1
  /-- R469 CLK.LOCK_STATE: SPLL, CPLL, MPLL, VPLL, TPLL -/
  locked : List Bool := [false, false, false, false, false]
  xa : Bool := false
  xb : Bool := false
  /-- R447: domains whose clock is gated -/
  gated : List Nat := []
  /-- R444 CLK.STOPPED_SOURCE, R451 CLK.COALESCED, 8 bits each -/
  stoppedSource : Nat := 0
  coalesced : Nat := 0
  /-- R451: group × 64 + crossing → end of the handshake in flight -/
  pulses : List (Nat × Tick) := []
  /-- R444: which source each multiplexer is on: AON on LFO, STW on HFO, NET on MGMT_CLK125 -/
  stwOnHfo : Bool := true
  netOnMgmt : Bool := true
  lastCause : Nat := 5
  trans : Option Transition := none
  /-- R456: PWR_FAIL_N low from, high again from (none: not yet known); low once qualified -/
  pwrLow : Bool := false
  pwrRise : Option Tick := none
  /-- mode the device left, and whether a run ended at that entry -/
  leftMode : Option Nat := none
  leftRun : Bool := false
  /-- R461 trip latch -/
  trip : Bool := false
  /-- R459: groups 0, 1, 2 -/
  temps : List Monitor := []
  volts : List Monitor := []
  procs : List Monitor := []
  perf : List Perf := []
  /-- R468: counters at the last SNAP, and its device time -/
  snapped : List Perf := []
  snapFlags : List Nat := []
  snapTime : Nat := 0
  /-- R459: the last sample of the temperature and voltage monitors, and of the process monitors -/
  monAt : Option Tick := none
  procAt : Option Tick := none
  /-- R454: instant at which the PCIe endpoint stops -/
  pcieStop : Option Tick := none
  /-- the PCIe endpoint runs -/
  pcie : Bool := false
  deriving DecidableEq, Repr

/-- A fault record of R484, less its CRC. -/
structure FaultRec where
  time : Nat
  seq : Nat
  cls : Nat
  cause : Nat
  inst : Nat
  addr : Nat
  master : Nat
  outcome : Nat
  detail : Nat
  deriving DecidableEq, Repr

/-- Start-up, resets and the fault log (chapter 21). -/
structure Sys where
  /-- R474 -/
  resetCause : Nat := 1
  resetKind : Nat := 1
  /-- R472: instants of the watchdog and lock-step resets of the last 10 min, newest first -/
  warmResets : List Tick := []
  bootStage : Nat := 0
  bootCode : Nat := 0
  halted : Bool := false
  imageSlot : Nat := 0
  attempts : Nat := 0
  /-- R33 MB_READY, FW_VERSION -/
  mbReady : Bool := false
  fwVersion : Nat := 0
  /-- the flash and start-up conditions of the last power-up -/
  env : Option BootEnv := none
  /-- the supplies are in range -/
  powered : Bool := false
  /-- boot waits for XA (code 1) -/
  waitXa : Bool := false
  /-- instant of a halted boot's retry -/
  retryAt : Option Tick := none
  /-- R477: configuration messages left, index of the next, and a message whose final response is awaited -/
  cfg : List (List Byte) := []
  cfgIdx : Nat := 0
  cfgWait : Option Nat := none
  /-- R476 step 14 is still to come, to this mode -/
  bootMode : Nat := 4
  degraded : Bool := false
  /-- R472: a warm boot began at -/
  warmAt : Option Tick := none
  /-- R480: mode to return to after a warm reset -/
  warmMode : Nat := 4
  /-- R481: device time of the last reset, for its fault record -/
  resetTime : Nat := 0
  /-- R52: kind of the reset that falls due, and when -/
  resetDue : Option (Nat × Tick) := none
  /-- R485 fault log, newest last, at most 4,096 -/
  faults : List FaultRec := []
  faultProd : Word := 0
  faultCons : Word := 0
  faultLost : Counter := {}
  faultSeq : Nat := 0
  lateTotal : Counter := {}
  /-- R33 INT_SUMMARY: MSI-X vectors with a pending cause -/
  ints : List Nat := []
  /-- R276 next device-level sequence -/
  devSeq : Nat := 0
  /-- event records that left their maker, newest first (the model's own record of them) -/
  made : List EventRec := []
  /-- value returned by the last BAR0 read, by the last SPI read, and by the last JTAG access -/
  readData : Word := 0
  spiData : List Byte := []
  jtag : List Nat := []
  deriving DecidableEq, Repr

/-- Why the machine stops with a fault. -/
inductive Fault where
  /-- Raised by no command: an access outside usable memory lies in no granted region and takes the FAULT response of R69.
  Safe: the run would stop. -/
  | noSuchAddress
  deriving DecidableEq, Repr

/-- Why a command has no meaning. -/
inductive Refusal where
  /-- Raised by an arm of exec for a row of the table that has no meaning yet. Safe: the run stops. -/
  | notModelled (mnemonic : String)
  deriving DecidableEq, Repr

/-- The whole block. -/
structure State where
  /-- the model's own: commands waiting, first in, first out -/
  pending : List Instr := []
  /-- the model's own: present instant of the block's clock -/
  now : Tick := 0
  /-- the model's own: number of free values taken so far -/
  fresh : Nat := 0
  /-- R55: running and staged parameter sets; unlisted keys read their defaults -/
  running : List (Nat × Nat) := []
  staged : List (Nat × Nat) := []
  /-- R59: pending COMMITs, oldest first -/
  commits : List PendingCommit := []
  /-- counters of the parameter tables by key; unlisted counters read 0 (R12) -/
  counters : List (Nat × Counter) := []
  /-- R8, R13: instant of the last hardware set of a W1C bit and of the last increment of a counter, by the numbers that w1cId,
  regCtrId and keyCtrId give them -/
  hwSet : List (Nat × Tick) := []
  /-- mailboxes 0 to 18 -/
  mboxes : List Mailbox := []
  /-- BAR0 mailbox buffers, 128 KiB, by offset from 0x0002_0000; unlisted bytes read 0 -/
  bufs : List Host.Cell := []
  prot : ProtMap := {}
  run : Run := {}
  ilk : Interlock := {}
  emit : Emit := {}
  recv : Recv := {}
  pce : Pce := {}
  sill : Sillage := {}
  therm : Therm := {}
  zones : List (Nat × Zone) := []
  prof : Profile := {}
  cap : Capture := {}
  engines : List Engine := []
  atom : Atom := {}
  memc : Memc := {}
  slices : Slices := {}
  time : TimeBase := {}
  twin : Twin := {}
  inst : Inst := {}
  disp : Disp := {}
  clk : Clk := {}
  sys : Sys := {}
  deriving DecidableEq, Repr

/-- The block as POWER_UP finds it, before the rails rise and its full boot runs (step 1 of R476): every register at its reset
value, every table empty, the interlock latch set (assumption 14). Fixed numbers of like things are listed in full. -/
def State.reset : State :=
  { mboxes := List.replicate 19 {}
    run := { slots := List.replicate 8 {} }
    emit := { chans := List.replicate 6 {}, modules := List.replicate 6 {} }
    recv := { streams := List.replicate 8 [], pilotMiss := List.replicate 7 none, pilotRaised := List.replicate 7 false }
    pce := { jobs := List.replicate 8 [], lines := List.replicate 8 [], part := List.replicate 8 [], partSlips := List.replicate 8 0 }
    therm := { sensors := List.replicate 4 none }
    cap := { slots := List.replicate 16 {} }
    engines := List.replicate 2 {}
    atom := { rings := List.replicate 34 {}, ports := List.replicate 3 {} }
    inst := { accums := List.replicate 16 {}, fqos := List.replicate 4 {} }
    disp := { layers := List.replicate 6 {}, checks := List.replicate 16 {} }
    clk := { temps := List.replicate 8 {}, volts := List.replicate 12 {}, procs := List.replicate 4 {},
             perf := List.replicate 64 {}, snapped := List.replicate 64 {} }
    prot := { classes := List.replicate 19 0, regions := List.replicate 8 (0, 0), masters := List.replicate 7 0 } }

end Sys2Proof.Machine
end

