-- ==== Sys2Proof/Machine/Bits.lean ====
section
/-!
DEFINITION. Bytes and numbers: little-endian fields (R5), CRC-32C (R42) and CRC-32, sign extension, rounding,
serial-number order (R15), saturating counters (R12), and canonical sparse memories.
-/
namespace Sys2Proof.Machine

/-- n as len bytes, least significant first (R5). -/
def leBytes : Nat → Nat → List Byte
  | 0, _ => []
  | k + 1, n => BitVec.ofNat 8 n :: leBytes k (n / 256)

/-- The number whose little-endian bytes these are (R5). -/
def leNat : List Byte → Nat
  | [] => 0
  | b :: bs => b.toNat + 256 * leNat bs

/-- n as len bytes, most significant first. -/
def beBytes (len n : Nat) : List Byte := (leBytes len n).reverse

/-- len bytes of bs from off; bytes past the end read 0. -/
def slice (bs : List Byte) (off len : Nat) : List Byte :=
  let part := (bs.drop off).take len
  part ++ List.replicate (len - part.length) 0

/-- The unsigned field of len bytes at off. -/
def fld (bs : List Byte) (off len : Nat) : Nat := leNat (slice bs off len)

/-- Two's complement of an n-bit field. -/
def sext (bits n : Nat) : Int :=
  let m := n % 2 ^ bits
  if m < 2 ^ (bits - 1) then (m : Int) else (m : Int) - 2 ^ bits

/-- The n-bit field of an integer (modulo 2^bits). -/
def uns (bits : Nat) (i : Int) : Nat := (i % (2 ^ bits : Int)).toNat

def fldI (bs : List Byte) (off len : Nat) : Int := sext (8 * len) (fld bs off len)

/-- Clamp to lo .. hi. -/
def clampI (lo hi x : Int) : Int := if x < lo then lo else if hi < x then hi else x

/-- Saturate to a signed field of the given width. -/
def satI (bits : Nat) (x : Int) : Int := clampI (-(2 ^ (bits - 1) : Int)) ((2 ^ (bits - 1) : Int) - 1) x

/-- Saturate to an unsigned field of the given width. -/
def satU (bits : Nat) (x : Int) : Nat := (clampI 0 ((2 ^ bits : Int) - 1) x).toNat

/-- Round a / b to nearest, ties toward the larger value (R513); 0 for b = 0. -/
def rdiv (a b : Nat) : Nat := if b = 0 then 0 else (2 * a + b) / (2 * b)

/-- Round a / b to nearest, ties toward plus infinity; b > 0. -/
def rdivI (a : Int) (b : Nat) : Int := if b = 0 then 0 else (2 * a + b) / (2 * (b : Int))

/-- Round a / b to nearest, ties away from zero; b > 0. -/
def rdivAway (a : Int) (b : Nat) : Int :=
  if b = 0 then 0 else if a < 0 then -((rdiv a.natAbs b : Nat) : Int) else ((rdiv a.natAbs b : Nat) : Int)

def cdiv (a b : Nat) : Nat := if b = 0 then 0 else (a + b - 1) / b

/-- R15: y is later than x in serial order of the given width; a distance of exactly half counts as later. -/
def serialLt (bits x y : Nat) : Bool :=
  let d := (y + 2 ^ bits - x % 2 ^ bits) % 2 ^ bits
  d != 0 && d ≤ 2 ^ (bits - 1)

/-- R15: distance from x forward to y. -/
def serialSub (bits y x : Nat) : Nat := (y + 2 ^ bits - x % 2 ^ bits) % 2 ^ bits

/-- One step of a reflected CRC over eight bits. -/
def crcBits (poly : Nat) : Nat → Nat → Nat
  | 0, c => c
  | k + 1, c => crcBits poly k (if c % 2 = 1 then (c / 2) ^^^ poly else c / 2)

def crcStep (poly : Nat) (c : Nat) (b : Byte) : Nat := crcBits poly 8 (c ^^^ b.toNat)

/-- CRC-32C of R42. -/
def crc32c (bs : List Byte) : Nat := (bs.foldl (crcStep 0x82F63B78) 0xFFFFFFFF) ^^^ 0xFFFFFFFF

/-- CRC-32 of R437 (reflected form 0xEDB88320). -/
def crc32 (bs : List Byte) : Nat := (bs.foldl (crcStep 0xEDB88320) 0xFFFFFFFF) ^^^ 0xFFFFFFFF

def bit (n i : Nat) : Bool := n.testBit i

def b2n (b : Bool) : Nat := if b then 1 else 0

/-- n with bit i set or cleared. -/
def setBit (n i : Nat) (b : Bool) : Nat :=
  if b = n.testBit i then n else if b then n + 2 ^ i else n - 2 ^ i

/-- R12: n increments of a saturating counter of the given largest value. -/
def Counter.add (top : Nat) (c : Counter) (n : Nat) : Counter :=
  if c.val + n ≤ top then { c with val := c.val + n } else { val := top, ovf := true }

/-- A 32-bit counter of R12. -/
def Counter.add32 (c : Counter) (n : Nat) : Counter := c.add 0xFFFFFFFF n

/-- Replace element i of a list; unchanged past its end. -/
def modAt {α : Type} (f : α → α) : List α → Nat → List α
  | [], _ => []
  | x :: xs, 0 => f x :: xs
  | x :: xs, i + 1 => x :: modAt f xs i

/-- Element i of a list, d past its end. -/
def nth {α : Type} (d : α) (xs : List α) (i : Nat) : α := xs.getD i d

/-! Association lists in strictly rising key order. -/

def aget {α : Type} (d : α) (xs : List (Nat × α)) (k : Nat) : α :=
  match xs with
  | [] => d
  | (k', v) :: r => if k' = k then v else aget d r k

/-- Remove key k. -/
def adel {α : Type} (xs : List (Nat × α)) (k : Nat) : List (Nat × α) := xs.filter (fun e => e.1 != k)

/-- Insert (k, v) in key order in place of any entry of key k. -/
def aput {α : Type} (k : Nat) (v : α) : List (Nat × α) → List (Nat × α)
  | [] => [(k, v)]
  | (k', v') :: r =>
    if k < k' then (k, v) :: (k', v') :: r
    else if k = k' then (k, v) :: r
    else (k', v') :: aput k v r

/-- Insert, listing no entry equal to the default. -/
def aset {α : Type} [DecidableEq α] (d : α) (xs : List (Nat × α)) (k : Nat) (v : α) : List (Nat × α) :=
  if v = d then adel xs k else aput k v xs

/-! Sparse memories: cells in strictly rising address order, none of them 0; an unlisted address reads 0. -/

abbrev Memory := List Host.Cell

/-- The byte at address a. -/
def Memory.read (m : Memory) (a : Nat) : Byte := aget 0 m a

/-- Write one byte, keeping the canonical form. -/
def Memory.write (m : Memory) (a : Nat) (b : Byte) : Memory := aset 0 m a b

/-- len bytes from a on. -/
def Memory.readBytes (m : Memory) (a : Nat) : Nat → List Byte
  | 0 => []
  | k + 1 => Memory.read m a :: Memory.readBytes m (a + 1) k

/-- Write these bytes from a on, one at a time. -/
def Memory.writeBytes (m : Memory) (a : Nat) : List Byte → Memory
  | [] => m
  | b :: bs => Memory.writeBytes (Memory.write m a b) (a + 1) bs

/-- Set n bytes from a on to 0. -/
def Memory.zero (m : Memory) (a n : Nat) : Memory := m.filter (fun c => !(decide (a ≤ c.1) && decide (c.1 < a + n)))

/-- The canonical form: addresses strictly rising, no entry equal to what an unlisted address reads as. -/
def Memory.wf : Memory → Bool
  | [] => true
  | [c] => c.2 != 0
  | c :: d :: r => c.2 != 0 && decide (c.1 < d.1) && Memory.wf (d :: r)

/-- Keep the elements at which f holds, with their index. -/
def idxWhere {α : Type} (f : α → Bool) (xs : List α) : List Nat :=
  (xs.zipIdx.filter (fun e => f e.1)).map (·.2)

end Sys2Proof.Machine
end

