-- ==== Sys2Proof/Machine/Params.lean ====
section
/-!
DEFINITION. The parameter tables of every chapter as one list of rows (key, number of keys, type, range, when a
write takes effect, default), the names of the keys, and reading and writing the running and staged sets (R54 to
R57). A value is kept as the number whose little-endian bytes are the bytes of SET_PARAM and GET_PARAM.
-/
namespace Sys2Proof.Machine

/-- Parameter types of R54. -/
inductive PType where
  | u8 | bool | u16 | i16 | u32 | i32 | ip4 | mac | u64 | ip6 | str32
  deriving DecidableEq, Repr

/-- Length in bytes of a value (R54). -/
def PType.len : PType → Nat
  | .u8 | .bool => 1
  | .u16 | .i16 => 2
  | .u32 | .i32 | .ip4 => 4
  | .mac => 6
  | .u64 => 8
  | .ip6 => 16
  | .str32 => 32

/-- The type is a two's-complement integer. -/
def PType.signed : PType → Bool
  | .i16 | .i32 => true
  | _ => false

/-- Ranges of the parameter tables. -/
inductive PRange where
  | any
  | anyI
  | upTo (lo hi : Int)
  | zeroOr (lo hi : Int)
  | odd (lo hi : Int)
  | oneOf (vs : List Nat)
  | bits (mask : Nat)
  | twoSpans (a b c d : Int)
  /-- each of the four bytes at most top, or 0xFF where ff -/
  | bytesUpTo (top : Nat) (ff : Bool)
  /-- contiguous IPv4 masks -/
  | mask
  /-- [7:0] 0 to 199, [16] bank -/
  | bankIndex
  /-- UTF-8 padded with zero bytes (R54) -/
  | text
  | zeroOnly
  deriving DecidableEq, Repr

/-- The Takes effect column. -/
inductive PKind where
  | imm
  | commit
  | ro
  /-- a counter or flag that only 0 may be written to -/
  | counter
  deriving DecidableEq, Repr

/-- One row of a parameter table. -/
structure ParamRow where
  key   : Nat
  count : Nat
  ty    : PType
  range : PRange
  kind  : PKind
  dflt  : Nat
  deriving DecidableEq, Repr

/-- Default of MON.TEMP_WARNn by ordering code, 0.1 mK. -/
def warnDefault : Nat := if Config.orderIB then 1100000 else 1000000

/-! Names of the keys; for a row of several keys, the first. -/

abbrev K.sysDeviceName : Nat := 0x0100
abbrev K.sysSiteId : Nat := 0x0101
abbrev K.sysPowerMode : Nat := 0x0102
abbrev K.sysRunState : Nat := 0x0103
abbrev K.sysShotNumber : Nat := 0x0104
abbrev K.sysStagedDirty : Nat := 0x0105
abbrev K.sysCommitPending : Nat := 0x0106
abbrev K.sysHealthEventMask : Nat := 0x0107
abbrev K.sysMgmtIpv4Addr : Nat := 0x0110
abbrev K.sysMgmtIpv4Mask : Nat := 0x0111
abbrev K.sysMgmtIpv4Gw : Nat := 0x0112
abbrev K.sysMgmtIpv6Addr : Nat := 0x0113
abbrev K.sysMgmtIpv6Prefix : Nat := 0x0114
abbrev K.sysMgmtUdpPort : Nat := 0x0115
abbrev K.sysMgmtBindIdleS : Nat := 0x0116
abbrev K.sysMgmtMac : Nat := 0x0117
abbrev K.sysMboxFlags : Nat := 0x0118
abbrev K.sysMboxCrcErr : Nat := 0x0120
abbrev K.sysMboxRefused : Nat := 0x0124
abbrev K.synthToneMask : Nat := 0x0200
abbrev K.synthShotPeriodNs : Nat := 0x0201
abbrev K.synthChirpBwKhz : Nat := 0x0202
abbrev K.synthPulseNs : Nat := 0x0203
abbrev K.synthTaperPct : Nat := 0x0204
abbrev K.synthPulseActualPs : Nat := 0x0205
abbrev K.synthAmp : Nat := 0x0210
abbrev K.synthModLeadNs : Nat := 0x0220
abbrev K.synthModLagNs : Nat := 0x0221
abbrev K.synthSoaLeadNs : Nat := 0x0222
abbrev K.synthSoaLagNs : Nat := 0x0223
abbrev K.synthLaunchPathPs : Nat := 0x0230
abbrev K.synthLaunchWindowNs : Nat := 0x0231
abbrev K.synthLaunchThreshMv : Nat := 0x0232
abbrev K.synthOriginAvgLog2 : Nat := 0x0233
abbrev K.synthLaunchLastOffset : Nat := 0x0234
abbrev K.synthLaunchSubstCount : Nat := 0x0235
abbrev K.synthClipCount : Nat := 0x0236
abbrev K.synthDrydownNs : Nat := 0x0237
abbrev K.synthRamanMode : Nat := 0x0240
abbrev K.synthRamanSlot : Nat := 0x0241
abbrev K.synthRamanK : Nat := 0x0242
abbrev K.synthRamanPulseNs : Nat := 0x0243
abbrev K.synthRamanDelayNs : Nat := 0x0244
abbrev K.emitEnable : Nat := 0x0300
abbrev K.emitSetpoint : Nat := 0x0301
abbrev K.emitRampMs : Nat := 0x0310
abbrev K.emitStepMax : Nat := 0x0320
abbrev K.emitKneeC : Nat := 0x0321
abbrev K.emitDeratePctPerK : Nat := 0x0322
abbrev K.emitPumpThAin : Nat := 0x0323
abbrev K.emitDerateCap : Nat := 0x0324
abbrev K.emitLoopMode : Nat := 0x0330
abbrev K.emitMpdTarget : Nat := 0x0331
abbrev K.emitLoopTolPct : Nat := 0x0335
abbrev K.emitLoopGain : Nat := 0x0336
abbrev K.emitWlMode : Nat := 0x0340
abbrev K.emitWlTarget : Nat := 0x0341
abbrev K.emitWlLockTol : Nat := 0x0342
abbrev K.emitWlLocked : Nat := 0x0343
abbrev K.emitTec1Duty : Nat := 0x0344
abbrev K.emitModuleState : Nat := 0x0350
abbrev K.emitI2cKhz : Nat := 0x0360
abbrev K.emitOutActual : Nat := 0x0370
abbrev K.recvOvrCount : Nat := 0x0400
abbrev K.recvRmnOvrCount : Nat := 0x0404
abbrev K.recvIqSwap : Nat := 0x0406
abbrev K.recvLaneEnable : Nat := 0x0407
abbrev K.recvOvrHealthGroups : Nat := 0x0408
abbrev K.recvChanSatCount : Nat := 0x0409
abbrev K.recvDieTemp : Nat := 0x040A
abbrev K.recvApdMode : Nat := 0x0410
abbrev K.recvApdMarginMv : Nat := 0x0411
abbrev K.recvApdFixedMv : Nat := 0x0412
abbrev K.recvApdGain : Nat := 0x0414
abbrev K.recvApdThAin : Nat := 0x0415
abbrev K.recvApdThBeta : Nat := 0x0416
abbrev K.recvApdThR25 : Nat := 0x0417
abbrev K.recvApdBiasActual : Nat := 0x0418
abbrev K.pceSpatialMode : Nat := 0x0500
abbrev K.pceBins : Nat := 0x0501
abbrev K.pceGauge : Nat := 0x0502
abbrev K.pceWeighting : Nat := 0x0503
abbrev K.pceDivLog2 : Nat := 0x0504
abbrev K.pceSlipWarn : Nat := 0x0505
abbrev K.pceGroupIndex : Nat := 0x0506
abbrev K.pceDistOffsetMm : Nat := 0x0507
abbrev K.pceBinPitchUm : Nat := 0x0510
abbrev K.pceTruncFirstBin : Nat := 0x0511
abbrev K.pceRefMainlobePs : Nat := 0x0512
abbrev K.pceRefPslMdb : Nat := 0x0513
abbrev K.pceLatencyNs : Nat := 0x0514
abbrev K.pceSatCount : Nat := 0x0520
abbrev K.pceSlipCount : Nat := 0x0521
abbrev K.stitchTrackTauMs : Nat := 0x0600
abbrev K.stitchFadeFloor : Nat := 0x0601
abbrev K.stitchMaxDegraded : Nat := 0x0602
abbrev K.stitchDegradedPct : Nat := 0x0603
abbrev K.stitchAmpFloor : Nat := 0x0604
abbrev K.stitchAmpSpan : Nat := 0x0605
abbrev K.stitchSlopeLog2 : Nat := 0x0606
abbrev K.stitchPredictRun : Nat := 0x0607
abbrev K.stitchRecoverEvals : Nat := 0x0608
abbrev K.stitchAutoReturn : Nat := 0x0609
abbrev K.stitchPredictedCount : Nat := 0x0610
abbrev K.stitchFallbackZones : Nat := 0x0611
abbrev K.stitchTrackAlpha : Nat := 0x0612
abbrev K.thermSections : Nat := 0x0700
abbrev K.thermSectionFirstBin : Nat := 0x0701
abbrev K.thermSectionBins : Nat := 0x0702
abbrev K.thermRamanAccLog2 : Nat := 0x0703
abbrev K.thermRamanCellLog2 : Nat := 0x0704
abbrev K.thermRamanCells : Nat := 0x0705
abbrev K.thermRamanPathNs : Nat := 0x0706
abbrev K.thermDarkFirstCell : Nat := 0x0707
abbrev K.thermDarkCells : Nat := 0x0708
abbrev K.thermRamanAvgCells : Nat := 0x0709
abbrev K.thermGiAs : Nat := 0x070A
abbrev K.thermGiS : Nat := 0x070B
abbrev K.thermRamanShiftGhz : Nat := 0x070C
abbrev K.thermDiffAttenMdbKm : Nat := 0x070D
abbrev K.thermCoilStartMm : Nat := 0x0710
abbrev K.thermCoilGuardM : Nat := 0x0711
abbrev K.thermCoilAin : Nat := 0x0712
abbrev K.thermCoilReadMs : Nat := 0x0713
abbrev K.thermCoilSpreadMk : Nat := 0x0714
abbrev K.thermCoilHoldS : Nat := 0x0715
abbrev K.thermCoilTemp : Nat := 0x0716
abbrev K.thermShiftEn : Nat := 0x0720
abbrev K.thermShiftCoefKhzK : Nat := 0x0721
abbrev K.thermShiftStride : Nat := 0x0722
abbrev K.thermShiftMaxLag : Nat := 0x0723
abbrev K.thermShiftRenewLag : Nat := 0x0724
abbrev K.thermShiftMinRho : Nat := 0x0725
abbrev K.thermShiftNkPerBin : Nat := 0x0726
abbrev K.thermAccordK : Nat := 0x0730
abbrev K.thermRamanOnlyK : Nat := 0x0731
abbrev K.thermRamanStaleS : Nat := 0x0732
abbrev K.thermAccordBeta : Nat := 0x0733
abbrev K.thermAccordBetaR : Nat := 0x0734
abbrev K.thermRamanPeriodUs : Nat := 0x0735
abbrev K.thermRamanAbortCount : Nat := 0x0736
abbrev K.thermShiftUnlockCount : Nat := 0x0737
abbrev K.thermState : Nat := 0x0738
abbrev K.chanChannels : Nat := 0x0800
abbrev K.chanFirstBin : Nat := 0x0801
abbrev K.chanDecimation : Nat := 0x0802
abbrev K.chanCombine : Nat := 0x0803
abbrev K.chanFreshMib : Nat := 0x0804
abbrev K.chanHeartDecim : Nat := 0x0805
abbrev K.chanHeartEn : Nat := 0x0806
abbrev K.chanBaseTiles : Nat := 0x0807
abbrev K.chanBandSmooth : Nat := 0x0808
abbrev K.chanDbBand : Nat := 0x0809
abbrev K.chanDbLevel : Nat := 0x080A
abbrev K.chanDbRate : Nat := 0x080B
abbrev K.chanDbTemp : Nat := 0x080C
abbrev K.chanBaseRefreshS : Nat := 0x080D
abbrev K.chanBandSlices : Nat := 0x080E
abbrev K.chanShiftSlices : Nat := 0x080F
abbrev K.chanBankSelect : Nat := 0x0810
abbrev K.chanXfade : Nat := 0x0811
abbrev K.chanBankState : Nat := 0x0812
abbrev K.chanDroppedTiles : Nat := 0x0813
abbrev K.chanSkippedTiles : Nat := 0x0814
abbrev K.chanLateTiles : Nat := 0x0815
abbrev K.chanElasticPeak : Nat := 0x0816
abbrev K.chanCoefA : Nat := 0x0840
abbrev K.chanCoefB : Nat := 0x0890
abbrev K.sliceStatus : Nat := 0x0900
abbrev K.sliceFollow : Nat := 0x0920
abbrev K.sliceLoadResult : Nat := 0x0940
abbrev K.sliceOutDropped : Nat := 0x0941
abbrev K.sliceFollowDropped : Nat := 0x0942
abbrev K.sliceClassDropped : Nat := 0x0943
abbrev K.sliceClassSent : Nat := 0x0944
abbrev K.sliceFaultCount : Nat := 0x0945
abbrev K.sliceStateBytesBand : Nat := 0x0946
abbrev K.sliceStateBytesShift : Nat := 0x0947
abbrev K.zoneBreakFloor : Nat := 0x0A00
abbrev K.zoneBreakGroups : Nat := 0x0A01
abbrev K.zoneFibreEndBin : Nat := 0x0A02
abbrev K.zoneLossAvgLog2 : Nat := 0x0A03
abbrev K.zoneLossRefLog2 : Nat := 0x0A04
abbrev K.zoneRiseWindowS : Nat := 0x0A05
abbrev K.zoneDefined : Nat := 0x0A10
abbrev K.zoneBreakBin : Nat := 0x0A11
abbrev K.zoneRecords : Nat := 0x0A12
abbrev K.zoneAbsentEvals : Nat := 0x0A13
abbrev K.zoneDeviceSequence : Nat := 0x0A14
abbrev K.sillBaseMib : Nat := 0x0B00
abbrev K.sillHeartMib : Nat := 0x0B01
abbrev K.sillArchiveMib : Nat := 0x0B02
abbrev K.sillPinLimitPct : Nat := 0x0B03
abbrev K.sillPinMarginPct : Nat := 0x0B04
abbrev K.sillRearmMask : Nat := 0x0B05
abbrev K.sillZoneTrigSev : Nat := 0x0B06
abbrev K.sillTrigPolarity : Nat := 0x0B07
abbrev K.sillTrigMinNs : Nat := 0x0B08
abbrev K.sillStarDrive : Nat := 0x0B09
abbrev K.sillStarPulseUs : Nat := 0x0B0A
abbrev K.sillRetainTopMs : Nat := 0x0B10
abbrev K.sillRetainHeartMs : Nat := 0x0B11
abbrev K.sillRetainBaseS : Nat := 0x0B12
abbrev K.sillPinnedMib : Nat := 0x0B13
abbrev K.sillCaptures : Nat := 0x0B16
abbrev K.sillMissedTotal : Nat := 0x0B17
abbrev K.flacPrecond : Nat := 0x0C00
abbrev K.flacBlockKib : Nat := 0x0C01
abbrev K.flacWindowLog2 : Nat := 0x0C02
abbrev K.flacDecompSlots : Nat := 0x0C03
abbrev K.flacArchived : Nat := 0x0C10
abbrev K.flacStoredCount : Nat := 0x0C11
abbrev K.flacQueueFull : Nat := 0x0C12
abbrev K.flacFlushDropped : Nat := 0x0C13
abbrev K.flacSplitIgnored : Nat := 0x0C14
abbrev K.flacNoSpace : Nat := 0x0C15
abbrev K.flacCrcFail : Nat := 0x0C16
abbrev K.flacStallUs : Nat := 0x0C17
abbrev K.flacRatioPct : Nat := 0x0C20
abbrev K.flacQueueDepth : Nat := 0x0C21
abbrev K.flacLoadPct : Nat := 0x0C22
abbrev K.atomMaxDatagram : Nat := 0x0D00
abbrev K.atomEventHoldUs : Nat := 0x0D01
abbrev K.atomStreamHoldUs : Nat := 0x0D02
abbrev K.atomKeepaliveMs : Nat := 0x0D03
abbrev K.atomPrpEn : Nat := 0x0D04
abbrev K.atomPrpLifecheckMs : Nat := 0x0D05
abbrev K.atomSrcUdpPort : Nat := 0x0D06
abbrev K.atomDscpEvent : Nat := 0x0D07
abbrev K.atomDscpStream : Nat := 0x0D08
abbrev K.atomPcieTopLimitMbs : Nat := 0x0D09
abbrev K.atomRetrMaxMbs : Nat := 0x0D0A
abbrev K.atomNetMode : Nat := 0x0D10
abbrev K.atomNetIpv4Addr : Nat := 0x0D12
abbrev K.atomNetIpv4Mask : Nat := 0x0D14
abbrev K.atomNetIpv4Gw : Nat := 0x0D16
abbrev K.atomNetIpv6Addr : Nat := 0x0D18
abbrev K.atomNetIpv6Prefix : Nat := 0x0D1A
abbrev K.atomNetMac : Nat := 0x0D1C
abbrev K.atomLink : Nat := 0x0D1E
abbrev K.atomSessionsOpen : Nat := 0x0D20
abbrev K.atomNotSent : Nat := 0x0D21
abbrev K.atomWithheldTotal : Nat := 0x0D24
abbrev K.atomRingDropped : Nat := 0x0D25
abbrev K.atomUnresolved : Nat := 0x0D26
abbrev K.atomPrpDupDiscarded : Nat := 0x0D27
abbrev K.atomPrpWrongLan : Nat := 0x0D28
abbrev K.atomRetrActive : Nat := 0x0D30
abbrev K.memcFittedMib : Nat := 0x0E00
abbrev K.memcUsableMib : Nat := 0x0E01
abbrev K.memcRateMts : Nat := 0x0E02
abbrev K.memcRanks : Nat := 0x0E03
abbrev K.memcAgeNsC2 : Nat := 0x0E10
abbrev K.memcAgeNsC3 : Nat := 0x0E11
abbrev K.memcRowhitMax : Nat := 0x0E12
abbrev K.memcPanicTilePct : Nat := 0x0E13
abbrev K.memcPanicDispPct : Nat := 0x0E14
abbrev K.memcTrackMs : Nat := 0x0E15
abbrev K.memcScrubHours : Nat := 0x0E20
abbrev K.memcRereadMax : Nat := 0x0E21
abbrev K.memcCeHealth : Nat := 0x0E22
abbrev K.memcLastCeAddr : Nat := 0x0E23
abbrev K.memcLastUeAddr : Nat := 0x0E24
abbrev K.memcPasrMask : Nat := 0x0E25
abbrev K.memcRefreshState : Nat := 0x0E26
abbrev K.memcFillState : Nat := 0x0E27
abbrev K.memcCeCount : Nat := 0x0E30
abbrev K.memcUeCount : Nat := 0x0E31
abbrev K.memcRereadOk : Nat := 0x0E32
abbrev K.memcLateCount : Nat := 0x0E33
abbrev K.memcRmwCount : Nat := 0x0E34
abbrev K.memcPromoted : Nat := 0x0E35
abbrev K.memcPanicCount : Nat := 0x0E36
abbrev K.memcTrain : Nat := 0x0E40
abbrev K.memcVref : Nat := 0x0E50
abbrev K.timeXaAgeingPpt : Nat := 0x0F00
abbrev K.timeSlewMaxPpb : Nat := 0x0F01
abbrev K.timeState : Nat := 0x0F02
abbrev K.timeUtcOffsetS : Nat := 0x0F03
abbrev K.timePtpMode : Nat := 0x0F10
abbrev K.timePtpPort : Nat := 0x0F11
abbrev K.timePtpDomain : Nat := 0x0F12
abbrev K.timePtpTransport : Nat := 0x0F13
abbrev K.timePtpStepNs : Nat := 0x0F14
abbrev K.timePtpLoopTauS : Nat := 0x0F15
abbrev K.timePtpLockNs : Nat := 0x0F16
abbrev K.timePtpAsymPs : Nat := 0x0F17
abbrev K.timePtpState : Nat := 0x0F18
abbrev K.timePtpOffsetNs : Nat := 0x0F19
abbrev K.timePtpFreqPpt : Nat := 0x0F1A
abbrev K.timeTiuEdge : Nat := 0x0F20
abbrev K.timeTiuTimeoutMs : Nat := 0x0F21
abbrev K.timeTiuStatsIncludeFlagged : Nat := 0x0F22
abbrev K.timeTiuRearmNs : Nat := 0x0F23
abbrev K.timeTiuStopDelayNs : Nat := 0x0F24
abbrev K.timeTiuDiscarded : Nat := 0x0F25
abbrev K.timeTiuOverrun : Nat := 0x0F26
abbrev K.timePairsyncEn : Nat := 0x0F30
abbrev K.timePairsyncAsymPs : Nat := 0x0F31
abbrev K.timePairsyncOffsetPs : Nat := 0x0F32
abbrev K.timePairsyncDelayPs : Nat := 0x0F33
abbrev K.timePairsyncAgeS : Nat := 0x0F34
abbrev K.twinEnable : Nat := 0x1000
abbrev K.twinIdentity : Nat := 0x1001
abbrev K.twinHbUs : Nat := 0x1002
abbrev K.twinHbLossUs : Nat := 0x1003
abbrev K.twinRetxUs : Nat := 0x1004
abbrev K.twinRetxMax : Nat := 0x1005
abbrev K.twinHoldMs : Nat := 0x1006
abbrev K.twinReturnS : Nat := 0x1007
abbrev K.twinLinkState : Nat := 0x1010
abbrev K.twinRetxFail : Nat := 0x1020
abbrev K.twinResyncCount : Nat := 0x1021
abbrev K.twinLateCount : Nat := 0x1022
abbrev K.twinMatched : Nat := 0x1023
abbrev K.twinUnconfirmed : Nat := 0x1024
abbrev K.twinReleased : Nat := 0x1025
abbrev K.twinReplayed : Nat := 0x1026
abbrev K.twinCrcErrors : Nat := 0x1027
abbrev K.twinSendDropped : Nat := 0x1028
abbrev K.instCfg : Nat := 0x1100
abbrev K.instScanMask : Nat := 0x1110
abbrev K.instIexUa : Nat := 0x1111
abbrev K.instFallbackAuto : Nat := 0x1113
abbrev K.instRefOhm : Nat := 0x1114
abbrev K.instWinLow : Nat := 0x1120
abbrev K.instWinHigh : Nat := 0x1124
abbrev K.instWinHystMv : Nat := 0x1128
abbrev K.instWinFilterUs : Nat := 0x1129
abbrev K.instWinEnable : Nat := 0x112A
abbrev K.instWinSeverity : Nat := 0x112B
abbrev K.instWinState : Nat := 0x112C
abbrev K.instBankIndex : Nat := 0x1130
abbrev K.instBankaTaps : Nat := 0x1131
abbrev K.instBankaDecim : Nat := 0x1132
abbrev K.instBankbTaps : Nat := 0x1133
abbrev K.instBankbDecim : Nat := 0x1134
abbrev K.instBankData : Nat := 0x1140
abbrev K.instFqoMode : Nat := 0x1180
abbrev K.instFqoSource : Nat := 0x1184
abbrev K.instFqoValue : Nat := 0x1188
abbrev K.instFqoVLow : Nat := 0x118C
abbrev K.instFqoVHigh : Nat := 0x1190
abbrev K.instFqoOutLow : Nat := 0x1194
abbrev K.instFqoOutHigh : Nat := 0x1198
abbrev K.instFqoFailsafe : Nat := 0x119C
abbrev K.instFqoFault : Nat := 0x11A0
abbrev K.instFqoPwmHz : Nat := 0x11A4
abbrev K.instFqoTimeoutMs : Nat := 0x11A5
abbrev K.instFqoState : Nat := 0x11A6
abbrev K.instQueueDepth : Nat := 0x11C0
abbrev K.instConversions : Nat := 0x11C1
abbrev K.instDiscarded : Nat := 0x11C2
abbrev K.instBusyPct : Nat := 0x11C3
abbrev K.dispMode : Nat := 0x1200
abbrev K.dispPixelKhz : Nat := 0x1201
abbrev K.dispHActive : Nat := 0x1202
abbrev K.dispHFp : Nat := 0x1203
abbrev K.dispHSync : Nat := 0x1204
abbrev K.dispHBp : Nat := 0x1205
abbrev K.dispVActive : Nat := 0x1206
abbrev K.dispVFp : Nat := 0x1207
abbrev K.dispVSync : Nat := 0x1208
abbrev K.dispVBp : Nat := 0x1209
abbrev K.dispSyncPol : Nat := 0x120A
abbrev K.dispColourDepth : Nat := 0x120B
abbrev K.dispBgRgb : Nat := 0x120C
abbrev K.dispFrameMhz : Nat := 0x120D
abbrev K.dispCmapIndex : Nat := 0x1210
abbrev K.dispUnderrun : Nat := 0x1220
abbrev K.dispCheckFail : Nat := 0x1226
abbrev K.dispCmapData : Nat := 0x1240
abbrev K.clkClkoutSel : Nat := 0x1300
abbrev K.clkClkoutDiv : Nat := 0x1301
abbrev K.clkGateEn : Nat := 0x1302
abbrev K.clkGateIdle : Nat := 0x1303
abbrev K.clkPwrFailFilterUs : Nat := 0x1304
abbrev K.clkPwrAutoResume : Nat := 0x1305
abbrev K.clkPwrResumeS : Nat := 0x1306
abbrev K.clkLockState : Nat := 0x1310
abbrev K.clkDomainRun : Nat := 0x1311
abbrev K.clkStoppedSource : Nat := 0x1312
abbrev K.clkCoalesced : Nat := 0x1313
abbrev K.clkForcedFaults : Nat := 0x1314
abbrev K.clkLockLossCount : Nat := 0x1315
abbrev K.clkLastModeCause : Nat := 0x1316
abbrev K.monTempWarn : Nat := 0x1400
abbrev K.monTempHyst : Nat := 0x1408
abbrev K.monVoltLow : Nat := 0x1410
abbrev K.monVoltHigh : Nat := 0x1420
abbrev K.monState : Nat := 0x1430
abbrev K.monTripCount : Nat := 0x1431
abbrev K.calAuto : Nat := 0x1500
abbrev K.calTempDelta : Nat := 0x1501
abbrev K.calRetryS : Nat := 0x1502
abbrev K.calTrackEn : Nat := 0x1503
abbrev K.calTxPilotEn : Nat := 0x1504
abbrev K.calTrackLimitMdb : Nat := 0x1505
abbrev K.calLastTemp : Nat := 0x1506
abbrev K.calPostponed : Nat := 0x1507

/-- The SYS keys (chapter 02). -/
def sysRows : List ParamRow := [
  ⟨0x0100, 1, .str32, .text, .imm, 0⟩,
  ⟨0x0101, 1, .u32, .upTo 0 4294967295, .imm, 0⟩,
  ⟨0x0102, 1, .u8, .upTo 0 4, .ro, 0⟩,
  ⟨0x0103, 1, .u8, .upTo 0 3, .ro, 0⟩,
  ⟨0x0104, 1, .u32, .any, .ro, 0⟩,
  ⟨0x0105, 1, .bool, .any, .ro, 0⟩,
  ⟨0x0106, 1, .u8, .upTo 0 2, .ro, 0⟩,
  ⟨0x0107, 1, .u32, .upTo 0 4294967295, .imm, 4294967295⟩,
  ⟨0x0110, 1, .ip4, .any, .imm, 1613299369⟩,
  ⟨0x0111, 1, .ip4, .mask, .imm, 65535⟩,
  ⟨0x0112, 1, .ip4, .any, .imm, 0⟩,
  ⟨0x0113, 1, .ip6, .any, .imm, 0⟩,
  ⟨0x0114, 1, .u8, .upTo 0 128, .imm, 64⟩,
  ⟨0x0115, 1, .u16, .upTo 1024 65534, .imm, 40960⟩,
  ⟨0x0116, 1, .u16, .upTo 1 3600, .imm, 60⟩,
  ⟨0x0117, 1, .mac, .any, .ro, 0⟩,
  ⟨0x0118, 3, .u8, .zeroOnly, .counter, 0⟩,
  ⟨0x0120, 3, .u32, .zeroOnly, .counter, 0⟩,
  ⟨0x0124, 3, .u32, .zeroOnly, .counter, 0⟩ ]

/-- The SYNTH keys (chapter 03). -/
def synthRows : List ParamRow := [
  ⟨0x0200, 1, .u8, .upTo 1 255, .commit, 255⟩,
  ⟨0x0201, 1, .u32, .upTo 2000 10000000, .commit, 1000000⟩,
  ⟨0x0202, 1, .u32, .upTo 20000 160000, .commit, 160000⟩,
  ⟨0x0203, 1, .u16, .upTo 200 8000, .commit, 2000⟩,
  ⟨0x0204, 1, .u8, .upTo 0 25, .commit, 10⟩,
  ⟨0x0205, 1, .u32, .any, .ro, 1999919⟩,
  ⟨0x0210, 8, .u16, .upTo 0 65024, .commit, 32768⟩,
  ⟨0x0220, 1, .u16, .upTo 0 100, .commit, 5⟩,
  ⟨0x0221, 1, .u16, .upTo 0 100, .commit, 5⟩,
  ⟨0x0222, 1, .u16, .upTo 0 2000, .commit, 200⟩,
  ⟨0x0223, 1, .u16, .upTo 0 2000, .commit, 50⟩,
  ⟨0x0230, 1, .u32, .upTo 0 1000000, .commit, 0⟩,
  ⟨0x0231, 1, .u16, .upTo 1 1000, .commit, 1000⟩,
  ⟨0x0232, 1, .u16, .upTo 10 500, .imm, 100⟩,
  ⟨0x0233, 1, .u8, .upTo 0 10, .commit, 4⟩,
  ⟨0x0234, 1, .i32, .any, .ro, 0⟩,
  ⟨0x0235, 1, .u32, .zeroOnly, .counter, 0⟩,
  ⟨0x0236, 1, .u32, .zeroOnly, .counter, 0⟩,
  ⟨0x0237, 1, .u32, .any, .ro, 0⟩,
  ⟨0x0240, 1, .u8, .upTo 0 2, .commit, 0⟩,
  ⟨0x0241, 1, .u8, .upTo 0 7, .commit, 7⟩,
  ⟨0x0242, 1, .u16, .upTo 2 65535, .commit, 16⟩,
  ⟨0x0243, 1, .u16, .upTo 10 1000, .commit, 100⟩,
  ⟨0x0244, 1, .u32, .upTo 0 9999999, .commit, 0⟩ ]

/-- The EMIT keys (chapter 04). -/
def emitRows : List ParamRow := [
  ⟨0x0300, 1, .u8, .upTo 0 63, .imm, 0⟩,
  ⟨0x0301, 6, .u16, .upTo 0 65535, .imm, 0⟩,
  ⟨0x0310, 6, .u16, .upTo 1 60000, .imm, 1000⟩,
  ⟨0x0320, 1, .u16, .upTo 0 65535, .imm, 655⟩,
  ⟨0x0321, 1, .i32, .upTo (-400000) 1500000, .imm, 700000⟩,
  ⟨0x0322, 1, .u16, .upTo 0 10000, .imm, 200⟩,
  ⟨0x0323, 1, .u8, .upTo 0 15, .imm, 11⟩,
  ⟨0x0324, 1, .u16, .any, .ro, 65535⟩,
  ⟨0x0330, 1, .u8, .upTo 0 31, .imm, 31⟩,
  ⟨0x0331, 4, .u32, .upTo 0 2000000, .imm, 0⟩,
  ⟨0x0335, 1, .u8, .upTo 1 50, .imm, 10⟩,
  ⟨0x0336, 1, .u16, .upTo 1 65535, .imm, 3277⟩,
  ⟨0x0340, 1, .u8, .upTo 0 1, .imm, 1⟩,
  ⟨0x0341, 1, .u16, .upTo 0 65535, .imm, 0⟩,
  ⟨0x0342, 1, .u16, .upTo 1 6554, .imm, 66⟩,
  ⟨0x0343, 1, .bool, .any, .ro, 0⟩,
  ⟨0x0344, 1, .i16, .upTo (-32768) 32767, .imm, 0⟩,
  ⟨0x0350, 6, .u16, .any, .ro, 0⟩,
  ⟨0x0360, 3, .u16, .oneOf [100, 400, 1000], .imm, 400⟩,
  ⟨0x0370, 6, .u16, .any, .ro, 0⟩ ]

/-- The RECV keys (chapter 05). -/
def recvRows : List ParamRow := [
  ⟨0x0400, 4, .u32, .zeroOnly, .counter, 0⟩,
  ⟨0x0404, 2, .u32, .zeroOnly, .counter, 0⟩,
  ⟨0x0406, 1, .u8, .upTo 0 3, .commit, 0⟩,
  ⟨0x0407, 1, .u8, .oneOf [3, 12, 15], .commit, 15⟩,
  ⟨0x0408, 1, .u16, .upTo 1 65535, .imm, 100⟩,
  ⟨0x0409, 1, .u32, .zeroOnly, .counter, 0⟩,
  ⟨0x040A, 1, .i32, .any, .ro, 0⟩,
  ⟨0x0410, 1, .u8, .upTo 0 2, .imm, 0⟩,
  ⟨0x0411, 1, .u16, .upTo 1000 20000, .imm, 2000⟩,
  ⟨0x0412, 2, .u32, .upTo 0 600000, .imm, 0⟩,
  ⟨0x0414, 1, .u16, .upTo 100 20000, .imm, 3000⟩,
  ⟨0x0415, 1, .u8, .upTo 0 15, .imm, 10⟩,
  ⟨0x0416, 1, .u16, .upTo 1000 10000, .imm, 3435⟩,
  ⟨0x0417, 1, .u32, .upTo 100 1000000, .imm, 10000⟩,
  ⟨0x0418, 2, .u32, .any, .ro, 0⟩ ]

/-- The PCE keys (chapter 06). -/
def pceRows : List ParamRow := [
  ⟨0x0500, 1, .u8, .upTo 0 2, .commit, 0⟩,
  ⟨0x0501, 1, .u32, .upTo 64 131072, .commit, 131072⟩,
  ⟨0x0502, 1, .u16, .upTo 2 256, .commit, 10⟩,
  ⟨0x0503, 1, .u8, .upTo 0 1, .commit, 0⟩,
  ⟨0x0504, 1, .u8, .upTo 0 10, .commit, 4⟩,
  ⟨0x0505, 1, .u16, .upTo 16384 32767, .imm, 24576⟩,
  ⟨0x0506, 1, .u32, .upTo 1400000 1550000, .imm, 1468200⟩,
  ⟨0x0507, 1, .i32, .upTo (-200000000) 200000000, .imm, 0⟩,
  ⟨0x0510, 1, .u32, .any, .ro, 498512⟩,
  ⟨0x0511, 1, .u32, .any, .ro, 0⟩,
  ⟨0x0512, 1, .u32, .any, .ro, 0⟩,
  ⟨0x0513, 1, .i32, .any, .ro, 0⟩,
  ⟨0x0514, 1, .u32, .any, .ro, 0⟩,
  ⟨0x0520, 1, .u32, .zeroOnly, .counter, 0⟩,
  ⟨0x0521, 1, .u32, .zeroOnly, .counter, 0⟩ ]

/-- The STITCH keys (chapter 07). -/
def stitchRows : List ParamRow := [
  ⟨0x0600, 1, .u32, .upTo 100 60000, .commit, 2000⟩,
  ⟨0x0601, 1, .u16, .upTo 0 65535, .commit, 13107⟩,
  ⟨0x0602, 1, .u8, .upTo 0 7, .commit, 2⟩,
  ⟨0x0603, 1, .u8, .upTo 1 100, .commit, 25⟩,
  ⟨0x0604, 1, .u16, .upTo 0 32767, .commit, 10240⟩,
  ⟨0x0605, 1, .u16, .upTo 256 8192, .commit, 2560⟩,
  ⟨0x0606, 1, .u8, .upTo 0 8, .commit, 3⟩,
  ⟨0x0607, 1, .u16, .upTo 0 1024, .commit, 8⟩,
  ⟨0x0608, 1, .u8, .upTo 1 255, .commit, 8⟩,
  ⟨0x0609, 1, .bool, .upTo 0 1, .commit, 1⟩,
  ⟨0x0610, 1, .u32, .zeroOnly, .counter, 0⟩,
  ⟨0x0611, 1, .u16, .any, .ro, 0⟩,
  ⟨0x0612, 1, .u32, .any, .ro, 0⟩ ]

/-- The THERM keys (chapter 08). -/
def thermRows : List ParamRow := [
  ⟨0x0700, 1, .u32, .upTo 0 65536, .commit, 0⟩,
  ⟨0x0701, 1, .u32, .upTo 0 131071, .commit, 0⟩,
  ⟨0x0702, 1, .u8, .upTo 1 64, .commit, 2⟩,
  ⟨0x0703, 1, .u8, .upTo 10 24, .commit, 11⟩,
  ⟨0x0704, 1, .u8, .upTo 0 3, .commit, 1⟩,
  ⟨0x0705, 1, .u32, .upTo 1024 65536, .commit, 65536⟩,
  ⟨0x0706, 1, .u32, .upTo 0 100000, .commit, 0⟩,
  ⟨0x0707, 1, .u32, .upTo 0 65535, .commit, 65024⟩,
  ⟨0x0708, 1, .u16, .upTo 16 4096, .commit, 512⟩,
  ⟨0x0709, 1, .u8, .odd 1 63, .commit, 3⟩,
  ⟨0x070A, 1, .u32, .upTo 1400000 1550000, .commit, 1467500⟩,
  ⟨0x070B, 1, .u32, .upTo 1400000 1550000, .commit, 1468000⟩,
  ⟨0x070C, 1, .u16, .upTo 10000 16000, .commit, 13200⟩,
  ⟨0x070D, 1, .i32, .upTo (-1000) 1000, .commit, 0⟩,
  ⟨0x0710, 1, .i32, .upTo 0 200000000, .commit, 0⟩,
  ⟨0x0711, 1, .u16, .upTo 0 1000, .commit, 20⟩,
  ⟨0x0712, 1, .u32, .bytesUpTo 15 false, .commit, 50462976⟩,
  ⟨0x0713, 1, .u16, .upTo 100 10000, .imm, 1000⟩,
  ⟨0x0714, 1, .u16, .upTo 1 10000, .imm, 200⟩,
  ⟨0x0715, 1, .u16, .upTo 0 3600, .imm, 60⟩,
  ⟨0x0716, 1, .i32, .any, .ro, 2147483648⟩,
  ⟨0x0720, 1, .bool, .upTo 0 1, .commit, 1⟩,
  ⟨0x0721, 1, .i32, .twoSpans (-5000000) (-100000) 100000 5000000, .commit, 4293717296⟩,
  ⟨0x0722, 1, .u8, .upTo 10 40, .commit, 20⟩,
  ⟨0x0723, 1, .u8, .upTo 4 16, .commit, 16⟩,
  ⟨0x0724, 1, .u8, .upTo 1 15, .commit, 8⟩,
  ⟨0x0725, 1, .u16, .upTo 0 65535, .commit, 32768⟩,
  ⟨0x0726, 1, .i32, .any, .ro, 0⟩,
  ⟨0x0730, 1, .u16, .upTo 1 1024, .commit, 64⟩,
  ⟨0x0731, 1, .u16, .upTo 1 1024, .commit, 1⟩,
  ⟨0x0732, 1, .u16, .upTo 2 600, .commit, 10⟩,
  ⟨0x0733, 1, .u32, .any, .ro, 0⟩,
  ⟨0x0734, 1, .u32, .any, .ro, 0⟩,
  ⟨0x0735, 1, .u32, .any, .ro, 0⟩,
  ⟨0x0736, 1, .u32, .zeroOnly, .counter, 0⟩,
  ⟨0x0737, 1, .u32, .zeroOnly, .counter, 0⟩,
  ⟨0x0738, 1, .u8, .any, .ro, 0⟩ ]

/-- The CHAN keys (chapter 09). -/
def chanRows0 : List ParamRow := [
  ⟨0x0800, 1, .u32, .upTo 0 131072, .commit, 65536⟩,
  ⟨0x0801, 1, .u32, .upTo 0 131071, .commit, 0⟩,
  ⟨0x0802, 1, .u8, .upTo 1 64, .commit, 2⟩,
  ⟨0x0803, 1, .u8, .upTo 0 1, .commit, 1⟩,
  ⟨0x0804, 1, .u32, .upTo 256 4096, .commit, 1024⟩,
  ⟨0x0805, 1, .u16, .oneOf [1, 2, 4, 8, 16, 32, 64, 128], .commit, 16⟩,
  ⟨0x0806, 1, .bool, .upTo 0 1, .commit, 1⟩,
  ⟨0x0807, 1, .u8, .upTo 1 16, .commit, 1⟩,
  ⟨0x0808, 1, .u32, .upTo 0 0xFFFFFFFF, .imm, 4660⟩,
  ⟨0x0809, 1, .u16, .upTo 0 65535, .imm, 384⟩,
  ⟨0x080A, 1, .u16, .upTo 0 65535, .imm, 384⟩,
  ⟨0x080B, 1, .u32, .upTo 0 2147483647, .imm, 1024⟩,
  ⟨0x080C, 1, .u32, .upTo 0 10000000, .imm, 500⟩,
  ⟨0x080D, 1, .u16, .upTo 1 3600, .imm, 60⟩,
  ⟨0x080E, 1, .u8, .upTo 1 128, .commit, 96⟩,
  ⟨0x080F, 1, .u8, .upTo 0 127, .commit, 16⟩,
  ⟨0x0810, 1, .u8, .upTo 0 1, .imm, 0⟩,
  ⟨0x0811, 1, .u16, .upTo 1 256, .imm, 64⟩,
  ⟨0x0812, 1, .u8, .any, .ro, 0⟩,
  ⟨0x0813, 1, .u32, .zeroOnly, .counter, 0⟩,
  ⟨0x0814, 1, .u32, .zeroOnly, .counter, 0⟩,
  ⟨0x0815, 1, .u32, .zeroOnly, .counter, 0⟩,
  ⟨0x0816, 1, .u32, .zeroOnly, .counter, 0⟩,
  ⟨0x0840, 1, .i32, .upTo (-8388608) 8388607, .imm, 879907⟩,
  ⟨0x0841, 1, .i32, .upTo (-8388608) 8388607, .imm, 4293207481⟩,
  ⟨0x0842, 1, .i32, .upTo (-8388608) 8388607, .imm, 879907⟩,
  ⟨0x0843, 1, .i32, .upTo (-8388608) 8388607, .imm, 4293224552⟩,
  ⟨0x0844, 1, .i32, .upTo (-8388608) 8388607, .imm, 728310⟩,
  ⟨0x0845, 1, .i32, .upTo (-8388608) 8388607, .imm, 966356⟩,
  ⟨0x0846, 1, .i32, .upTo (-8388608) 8388607, .imm, 4293034584⟩,
  ⟨0x0847, 1, .i32, .upTo (-8388608) 8388607, .imm, 966356⟩,
  ⟨0x0848, 1, .i32, .upTo (-8388608) 8388607, .imm, 4293053333⟩,
  ⟨0x0849, 1, .i32, .upTo (-8388608) 8388607, .imm, 902884⟩,
  ⟨0x084A, 1, .i32, .upTo (-8388608) 8388607, .imm, 272516⟩,
  ⟨0x084B, 1, .i32, .upTo (-8388608) 8388607, .imm, 4294422264⟩,
  ⟨0x084C, 1, .i32, .upTo (-8388608) 8388607, .imm, 272516⟩,
  ⟨0x084D, 1, .i32, .upTo (-8388608) 8388607, .imm, 0⟩,
  ⟨0x084E, 1, .i32, .upTo (-8388608) 8388607, .imm, 41488⟩,
  ⟨0x084F, 1, .i32, .upTo (-8388608) 8388607, .imm, 379182⟩,
  ⟨0x0850, 1, .i32, .upTo (-8388608) 8388607, .imm, 4294208933⟩ ]

/-- More CHAN keys. -/
def chanRows1 : List ParamRow := [
  ⟨0x0851, 1, .i32, .upTo (-8388608) 8388607, .imm, 379182⟩,
  ⟨0x0852, 1, .i32, .upTo (-8388608) 8388607, .imm, 0⟩,
  ⟨0x0853, 1, .i32, .upTo (-8388608) 8388607, .imm, 468150⟩,
  ⟨0x0854, 1, .i32, .upTo (-8388608) 8388607, .imm, 272516⟩,
  ⟨0x0855, 1, .i32, .upTo (-8388608) 8388607, .imm, 4294422264⟩,
  ⟨0x0856, 1, .i32, .upTo (-8388608) 8388607, .imm, 272516⟩,
  ⟨0x0857, 1, .i32, .upTo (-8388608) 8388607, .imm, 0⟩,
  ⟨0x0858, 1, .i32, .upTo (-8388608) 8388607, .imm, 41488⟩,
  ⟨0x0859, 1, .i32, .upTo (-8388608) 8388607, .imm, 379182⟩,
  ⟨0x085A, 1, .i32, .upTo (-8388608) 8388607, .imm, 4294208933⟩,
  ⟨0x085B, 1, .i32, .upTo (-8388608) 8388607, .imm, 379182⟩,
  ⟨0x085C, 1, .i32, .upTo (-8388608) 8388607, .imm, 0⟩,
  ⟨0x085D, 1, .i32, .upTo (-8388608) 8388607, .imm, 468150⟩,
  ⟨0x085E, 1, .i32, .upTo (-8388608) 8388607, .imm, 272516⟩,
  ⟨0x085F, 1, .i32, .upTo (-8388608) 8388607, .imm, 4294422264⟩,
  ⟨0x0860, 1, .i32, .upTo (-8388608) 8388607, .imm, 272516⟩,
  ⟨0x0861, 1, .i32, .upTo (-8388608) 8388607, .imm, 0⟩,
  ⟨0x0862, 1, .i32, .upTo (-8388608) 8388607, .imm, 41488⟩,
  ⟨0x0863, 1, .i32, .upTo (-8388608) 8388607, .imm, 379182⟩,
  ⟨0x0864, 1, .i32, .upTo (-8388608) 8388607, .imm, 4294208933⟩,
  ⟨0x0865, 1, .i32, .upTo (-8388608) 8388607, .imm, 379182⟩,
  ⟨0x0866, 1, .i32, .upTo (-8388608) 8388607, .imm, 0⟩,
  ⟨0x0867, 1, .i32, .upTo (-8388608) 8388607, .imm, 468150⟩,
  ⟨0x0868, 1, .i32, .upTo (-8388608) 8388607, .imm, 272516⟩,
  ⟨0x0869, 1, .i32, .upTo (-8388608) 8388607, .imm, 4294422264⟩,
  ⟨0x086A, 1, .i32, .upTo (-8388608) 8388607, .imm, 272516⟩,
  ⟨0x086B, 1, .i32, .upTo (-8388608) 8388607, .imm, 0⟩,
  ⟨0x086C, 1, .i32, .upTo (-8388608) 8388607, .imm, 41488⟩,
  ⟨0x086D, 1, .i32, .upTo (-8388608) 8388607, .imm, 379182⟩,
  ⟨0x086E, 1, .i32, .upTo (-8388608) 8388607, .imm, 4294208933⟩,
  ⟨0x086F, 1, .i32, .upTo (-8388608) 8388607, .imm, 379182⟩,
  ⟨0x0870, 1, .i32, .upTo (-8388608) 8388607, .imm, 0⟩,
  ⟨0x0871, 1, .i32, .upTo (-8388608) 8388607, .imm, 468150⟩,
  ⟨0x0872, 1, .i32, .upTo (-8388608) 8388607, .imm, 272516⟩,
  ⟨0x0873, 1, .i32, .upTo (-8388608) 8388607, .imm, 4294422264⟩,
  ⟨0x0874, 1, .i32, .upTo (-8388608) 8388607, .imm, 272516⟩,
  ⟨0x0875, 1, .i32, .upTo (-8388608) 8388607, .imm, 0⟩,
  ⟨0x0876, 1, .i32, .upTo (-8388608) 8388607, .imm, 41488⟩,
  ⟨0x0877, 1, .i32, .upTo (-8388608) 8388607, .imm, 379182⟩,
  ⟨0x0878, 1, .i32, .upTo (-8388608) 8388607, .imm, 4294208933⟩ ]

/-- More CHAN keys. -/
def chanRows2 : List ParamRow := [
  ⟨0x0879, 1, .i32, .upTo (-8388608) 8388607, .imm, 379182⟩,
  ⟨0x087A, 1, .i32, .upTo (-8388608) 8388607, .imm, 0⟩,
  ⟨0x087B, 1, .i32, .upTo (-8388608) 8388607, .imm, 468150⟩,
  ⟨0x087C, 1, .i32, .upTo (-8388608) 8388607, .imm, 272516⟩,
  ⟨0x087D, 1, .i32, .upTo (-8388608) 8388607, .imm, 4294422264⟩,
  ⟨0x087E, 1, .i32, .upTo (-8388608) 8388607, .imm, 272516⟩,
  ⟨0x087F, 1, .i32, .upTo (-8388608) 8388607, .imm, 0⟩,
  ⟨0x0880, 1, .i32, .upTo (-8388608) 8388607, .imm, 41488⟩,
  ⟨0x0881, 1, .i32, .upTo (-8388608) 8388607, .imm, 379182⟩,
  ⟨0x0882, 1, .i32, .upTo (-8388608) 8388607, .imm, 4294208933⟩,
  ⟨0x0883, 1, .i32, .upTo (-8388608) 8388607, .imm, 379182⟩,
  ⟨0x0884, 1, .i32, .upTo (-8388608) 8388607, .imm, 0⟩,
  ⟨0x0885, 1, .i32, .upTo (-8388608) 8388607, .imm, 468150⟩,
  ⟨0x0886, 1, .i32, .upTo (-8388608) 8388607, .imm, 272516⟩,
  ⟨0x0887, 1, .i32, .upTo (-8388608) 8388607, .imm, 4294422264⟩,
  ⟨0x0888, 1, .i32, .upTo (-8388608) 8388607, .imm, 272516⟩,
  ⟨0x0889, 1, .i32, .upTo (-8388608) 8388607, .imm, 0⟩,
  ⟨0x088A, 1, .i32, .upTo (-8388608) 8388607, .imm, 41488⟩,
  ⟨0x088B, 1, .i32, .upTo (-8388608) 8388607, .imm, 379182⟩,
  ⟨0x088C, 1, .i32, .upTo (-8388608) 8388607, .imm, 4294208933⟩,
  ⟨0x088D, 1, .i32, .upTo (-8388608) 8388607, .imm, 379182⟩,
  ⟨0x088E, 1, .i32, .upTo (-8388608) 8388607, .imm, 0⟩,
  ⟨0x088F, 1, .i32, .upTo (-8388608) 8388607, .imm, 468150⟩,
  ⟨0x0890, 1, .i32, .upTo (-8388608) 8388607, .imm, 879907⟩,
  ⟨0x0891, 1, .i32, .upTo (-8388608) 8388607, .imm, 4293207481⟩,
  ⟨0x0892, 1, .i32, .upTo (-8388608) 8388607, .imm, 879907⟩,
  ⟨0x0893, 1, .i32, .upTo (-8388608) 8388607, .imm, 4293224552⟩,
  ⟨0x0894, 1, .i32, .upTo (-8388608) 8388607, .imm, 728310⟩,
  ⟨0x0895, 1, .i32, .upTo (-8388608) 8388607, .imm, 966356⟩,
  ⟨0x0896, 1, .i32, .upTo (-8388608) 8388607, .imm, 4293034584⟩,
  ⟨0x0897, 1, .i32, .upTo (-8388608) 8388607, .imm, 966356⟩,
  ⟨0x0898, 1, .i32, .upTo (-8388608) 8388607, .imm, 4293053333⟩,
  ⟨0x0899, 1, .i32, .upTo (-8388608) 8388607, .imm, 902884⟩,
  ⟨0x089A, 1, .i32, .upTo (-8388608) 8388607, .imm, 272516⟩,
  ⟨0x089B, 1, .i32, .upTo (-8388608) 8388607, .imm, 4294422264⟩,
  ⟨0x089C, 1, .i32, .upTo (-8388608) 8388607, .imm, 272516⟩,
  ⟨0x089D, 1, .i32, .upTo (-8388608) 8388607, .imm, 0⟩,
  ⟨0x089E, 1, .i32, .upTo (-8388608) 8388607, .imm, 41488⟩,
  ⟨0x089F, 1, .i32, .upTo (-8388608) 8388607, .imm, 379182⟩,
  ⟨0x08A0, 1, .i32, .upTo (-8388608) 8388607, .imm, 4294208933⟩ ]

/-- More CHAN keys. -/
def chanRows3 : List ParamRow := [
  ⟨0x08A1, 1, .i32, .upTo (-8388608) 8388607, .imm, 379182⟩,
  ⟨0x08A2, 1, .i32, .upTo (-8388608) 8388607, .imm, 0⟩,
  ⟨0x08A3, 1, .i32, .upTo (-8388608) 8388607, .imm, 468150⟩,
  ⟨0x08A4, 1, .i32, .upTo (-8388608) 8388607, .imm, 272516⟩,
  ⟨0x08A5, 1, .i32, .upTo (-8388608) 8388607, .imm, 4294422264⟩,
  ⟨0x08A6, 1, .i32, .upTo (-8388608) 8388607, .imm, 272516⟩,
  ⟨0x08A7, 1, .i32, .upTo (-8388608) 8388607, .imm, 0⟩,
  ⟨0x08A8, 1, .i32, .upTo (-8388608) 8388607, .imm, 41488⟩,
  ⟨0x08A9, 1, .i32, .upTo (-8388608) 8388607, .imm, 379182⟩,
  ⟨0x08AA, 1, .i32, .upTo (-8388608) 8388607, .imm, 4294208933⟩,
  ⟨0x08AB, 1, .i32, .upTo (-8388608) 8388607, .imm, 379182⟩,
  ⟨0x08AC, 1, .i32, .upTo (-8388608) 8388607, .imm, 0⟩,
  ⟨0x08AD, 1, .i32, .upTo (-8388608) 8388607, .imm, 468150⟩,
  ⟨0x08AE, 1, .i32, .upTo (-8388608) 8388607, .imm, 272516⟩,
  ⟨0x08AF, 1, .i32, .upTo (-8388608) 8388607, .imm, 4294422264⟩,
  ⟨0x08B0, 1, .i32, .upTo (-8388608) 8388607, .imm, 272516⟩,
  ⟨0x08B1, 1, .i32, .upTo (-8388608) 8388607, .imm, 0⟩,
  ⟨0x08B2, 1, .i32, .upTo (-8388608) 8388607, .imm, 41488⟩,
  ⟨0x08B3, 1, .i32, .upTo (-8388608) 8388607, .imm, 379182⟩,
  ⟨0x08B4, 1, .i32, .upTo (-8388608) 8388607, .imm, 4294208933⟩,
  ⟨0x08B5, 1, .i32, .upTo (-8388608) 8388607, .imm, 379182⟩,
  ⟨0x08B6, 1, .i32, .upTo (-8388608) 8388607, .imm, 0⟩,
  ⟨0x08B7, 1, .i32, .upTo (-8388608) 8388607, .imm, 468150⟩,
  ⟨0x08B8, 1, .i32, .upTo (-8388608) 8388607, .imm, 272516⟩,
  ⟨0x08B9, 1, .i32, .upTo (-8388608) 8388607, .imm, 4294422264⟩,
  ⟨0x08BA, 1, .i32, .upTo (-8388608) 8388607, .imm, 272516⟩,
  ⟨0x08BB, 1, .i32, .upTo (-8388608) 8388607, .imm, 0⟩,
  ⟨0x08BC, 1, .i32, .upTo (-8388608) 8388607, .imm, 41488⟩,
  ⟨0x08BD, 1, .i32, .upTo (-8388608) 8388607, .imm, 379182⟩,
  ⟨0x08BE, 1, .i32, .upTo (-8388608) 8388607, .imm, 4294208933⟩,
  ⟨0x08BF, 1, .i32, .upTo (-8388608) 8388607, .imm, 379182⟩,
  ⟨0x08C0, 1, .i32, .upTo (-8388608) 8388607, .imm, 0⟩,
  ⟨0x08C1, 1, .i32, .upTo (-8388608) 8388607, .imm, 468150⟩,
  ⟨0x08C2, 1, .i32, .upTo (-8388608) 8388607, .imm, 272516⟩,
  ⟨0x08C3, 1, .i32, .upTo (-8388608) 8388607, .imm, 4294422264⟩,
  ⟨0x08C4, 1, .i32, .upTo (-8388608) 8388607, .imm, 272516⟩,
  ⟨0x08C5, 1, .i32, .upTo (-8388608) 8388607, .imm, 0⟩,
  ⟨0x08C6, 1, .i32, .upTo (-8388608) 8388607, .imm, 41488⟩,
  ⟨0x08C7, 1, .i32, .upTo (-8388608) 8388607, .imm, 379182⟩,
  ⟨0x08C8, 1, .i32, .upTo (-8388608) 8388607, .imm, 4294208933⟩ ]

/-- More CHAN keys. -/
def chanRows4 : List ParamRow := [
  ⟨0x08C9, 1, .i32, .upTo (-8388608) 8388607, .imm, 379182⟩,
  ⟨0x08CA, 1, .i32, .upTo (-8388608) 8388607, .imm, 0⟩,
  ⟨0x08CB, 1, .i32, .upTo (-8388608) 8388607, .imm, 468150⟩,
  ⟨0x08CC, 1, .i32, .upTo (-8388608) 8388607, .imm, 272516⟩,
  ⟨0x08CD, 1, .i32, .upTo (-8388608) 8388607, .imm, 4294422264⟩,
  ⟨0x08CE, 1, .i32, .upTo (-8388608) 8388607, .imm, 272516⟩,
  ⟨0x08CF, 1, .i32, .upTo (-8388608) 8388607, .imm, 0⟩,
  ⟨0x08D0, 1, .i32, .upTo (-8388608) 8388607, .imm, 41488⟩,
  ⟨0x08D1, 1, .i32, .upTo (-8388608) 8388607, .imm, 379182⟩,
  ⟨0x08D2, 1, .i32, .upTo (-8388608) 8388607, .imm, 4294208933⟩,
  ⟨0x08D3, 1, .i32, .upTo (-8388608) 8388607, .imm, 379182⟩,
  ⟨0x08D4, 1, .i32, .upTo (-8388608) 8388607, .imm, 0⟩,
  ⟨0x08D5, 1, .i32, .upTo (-8388608) 8388607, .imm, 468150⟩,
  ⟨0x08D6, 1, .i32, .upTo (-8388608) 8388607, .imm, 272516⟩,
  ⟨0x08D7, 1, .i32, .upTo (-8388608) 8388607, .imm, 4294422264⟩,
  ⟨0x08D8, 1, .i32, .upTo (-8388608) 8388607, .imm, 272516⟩,
  ⟨0x08D9, 1, .i32, .upTo (-8388608) 8388607, .imm, 0⟩,
  ⟨0x08DA, 1, .i32, .upTo (-8388608) 8388607, .imm, 41488⟩,
  ⟨0x08DB, 1, .i32, .upTo (-8388608) 8388607, .imm, 379182⟩,
  ⟨0x08DC, 1, .i32, .upTo (-8388608) 8388607, .imm, 4294208933⟩,
  ⟨0x08DD, 1, .i32, .upTo (-8388608) 8388607, .imm, 379182⟩,
  ⟨0x08DE, 1, .i32, .upTo (-8388608) 8388607, .imm, 0⟩,
  ⟨0x08DF, 1, .i32, .upTo (-8388608) 8388607, .imm, 468150⟩ ]

/-- The SLICE keys (chapter 10). -/
def sliceRows : List ParamRow := [
  ⟨0x0900, 32, .u32, .any, .ro, 0⟩,
  ⟨0x0920, 32, .u32, .bytesUpTo 127 true, .commit, 4294967295⟩,
  ⟨0x0940, 1, .u32, .any, .ro, 0⟩,
  ⟨0x0941, 1, .u32, .zeroOnly, .counter, 0⟩,
  ⟨0x0942, 1, .u32, .zeroOnly, .counter, 0⟩,
  ⟨0x0943, 1, .u32, .zeroOnly, .counter, 0⟩,
  ⟨0x0944, 1, .u32, .zeroOnly, .counter, 0⟩,
  ⟨0x0945, 1, .u32, .zeroOnly, .counter, 0⟩,
  ⟨0x0946, 1, .u32, .any, .ro, 0⟩,
  ⟨0x0947, 1, .u32, .any, .ro, 0⟩ ]

/-- The ZONE keys (chapter 11). -/
def zoneRows : List ParamRow := [
  ⟨0x0A00, 1, .u16, .upTo 0 32767, .imm, 8960⟩,
  ⟨0x0A01, 1, .u8, .upTo 1 255, .imm, 1⟩,
  ⟨0x0A02, 1, .u32, .zeroOr 64 131072, .commit, 0⟩,
  ⟨0x0A03, 1, .u8, .upTo 4 12, .commit, 8⟩,
  ⟨0x0A04, 1, .u8, .upTo 4 20, .commit, 14⟩,
  ⟨0x0A05, 1, .u16, .upTo 5 600, .commit, 30⟩,
  ⟨0x0A10, 1, .u16, .any, .ro, 0⟩,
  ⟨0x0A11, 1, .u32, .any, .ro, 4294967295⟩,
  ⟨0x0A12, 1, .u32, .zeroOnly, .counter, 0⟩,
  ⟨0x0A13, 1, .u32, .zeroOnly, .counter, 0⟩,
  ⟨0x0A14, 1, .u32, .any, .ro, 0⟩ ]

/-- The SILL keys (chapter 12). -/
def sillRows : List ParamRow := [
  ⟨0x0B00, 1, .u32, .upTo 128 4096, .commit, 1024⟩,
  ⟨0x0B01, 1, .u32, .upTo 0 4096, .commit, 512⟩,
  ⟨0x0B02, 1, .u32, .any, .ro, 0⟩,
  ⟨0x0B03, 1, .u8, .upTo 10 80, .imm, 50⟩,
  ⟨0x0B04, 1, .u8, .upTo 0 100, .imm, 25⟩,
  ⟨0x0B05, 1, .u16, .upTo 0 65535, .imm, 0⟩,
  ⟨0x0B06, 1, .u8, .upTo 0 15, .imm, 8⟩,
  ⟨0x0B07, 1, .u8, .upTo 0 15, .imm, 0⟩,
  ⟨0x0B08, 1, .u16, .upTo 0 65535, .imm, 100⟩,
  ⟨0x0B09, 1, .bool, .upTo 0 1, .imm, 0⟩,
  ⟨0x0B0A, 1, .u16, .upTo 1 1000, .imm, 10⟩,
  ⟨0x0B10, 1, .u32, .any, .ro, 0⟩,
  ⟨0x0B11, 1, .u32, .any, .ro, 0⟩,
  ⟨0x0B12, 1, .u32, .any, .ro, 0⟩,
  ⟨0x0B13, 3, .u32, .any, .ro, 0⟩,
  ⟨0x0B16, 1, .u32, .zeroOnly, .counter, 0⟩,
  ⟨0x0B17, 1, .u32, .zeroOnly, .counter, 0⟩ ]

/-- The FLAC keys (chapter 13). -/
def flacRows : List ParamRow := [
  ⟨0x0C00, 1, .u8, .upTo 0 1, .commit, 1⟩,
  ⟨0x0C01, 1, .u8, .oneOf [4, 8, 16, 32, 64], .commit, 16⟩,
  ⟨0x0C02, 1, .u8, .upTo 10 15, .commit, 15⟩,
  ⟨0x0C03, 1, .u8, .upTo 1 32, .imm, 16⟩,
  ⟨0x0C10, 1, .u32, .zeroOnly, .counter, 0⟩,
  ⟨0x0C11, 1, .u32, .zeroOnly, .counter, 0⟩,
  ⟨0x0C12, 1, .u32, .zeroOnly, .counter, 0⟩,
  ⟨0x0C13, 1, .u32, .zeroOnly, .counter, 0⟩,
  ⟨0x0C14, 1, .u32, .zeroOnly, .counter, 0⟩,
  ⟨0x0C15, 1, .u32, .zeroOnly, .counter, 0⟩,
  ⟨0x0C16, 1, .u32, .zeroOnly, .counter, 0⟩,
  ⟨0x0C17, 1, .u32, .zeroOnly, .counter, 0⟩,
  ⟨0x0C20, 1, .u16, .any, .ro, 0⟩,
  ⟨0x0C21, 1, .u16, .any, .ro, 0⟩,
  ⟨0x0C22, 1, .u16, .any, .ro, 0⟩ ]

/-- The ATOM keys (chapter 14). -/
def atomRows : List ParamRow := [
  ⟨0x0D00, 1, .u16, .upTo 1452 8952, .imm, 1452⟩,
  ⟨0x0D01, 1, .u16, .upTo 0 1000, .imm, 50⟩,
  ⟨0x0D02, 1, .u16, .upTo 0 50000, .imm, 1000⟩,
  ⟨0x0D03, 1, .u16, .zeroOr 100 60000, .imm, 1000⟩,
  ⟨0x0D04, 1, .bool, .upTo 0 1, .imm, 0⟩,
  ⟨0x0D05, 1, .u16, .upTo 100 10000, .imm, 2000⟩,
  ⟨0x0D06, 1, .u16, .upTo 1024 65535, .imm, 40962⟩,
  ⟨0x0D07, 1, .u8, .upTo 0 63, .imm, 46⟩,
  ⟨0x0D08, 1, .u8, .upTo 0 63, .imm, 0⟩,
  ⟨0x0D09, 1, .u16, .upTo 0 6000, .imm, 6000⟩,
  ⟨0x0D0A, 1, .u16, .upTo 100 4000, .imm, 2000⟩,
  ⟨0x0D10, 2, .u8, .upTo 0 2, .imm, 1⟩,
  ⟨0x0D12, 1, .ip4, .any, .imm, 1630076585⟩,
  ⟨0x0D13, 1, .ip4, .any, .imm, 1646853801⟩,
  ⟨0x0D14, 2, .ip4, .mask, .imm, 65535⟩,
  ⟨0x0D16, 2, .ip4, .any, .imm, 0⟩,
  ⟨0x0D18, 2, .ip6, .any, .imm, 0⟩,
  ⟨0x0D1A, 2, .u8, .upTo 0 128, .imm, 64⟩,
  ⟨0x0D1C, 2, .mac, .any, .ro, 0⟩,
  ⟨0x0D1E, 1, .u8, .any, .ro, 0⟩,
  ⟨0x0D20, 1, .u16, .any, .ro, 0⟩,
  ⟨0x0D21, 3, .u32, .zeroOnly, .counter, 0⟩,
  ⟨0x0D24, 1, .u32, .zeroOnly, .counter, 0⟩,
  ⟨0x0D25, 1, .u32, .zeroOnly, .counter, 0⟩,
  ⟨0x0D26, 1, .u32, .zeroOnly, .counter, 0⟩,
  ⟨0x0D27, 1, .u32, .zeroOnly, .counter, 0⟩,
  ⟨0x0D28, 1, .u32, .zeroOnly, .counter, 0⟩,
  ⟨0x0D30, 1, .u16, .any, .ro, 0⟩ ]

/-- The MEMC keys (chapter 15). -/
def memcRows : List ParamRow := [
  ⟨0x0E00, 1, .u32, .any, .ro, 0⟩,
  ⟨0x0E01, 1, .u32, .any, .ro, 0⟩,
  ⟨0x0E02, 1, .u16, .any, .ro, 0⟩,
  ⟨0x0E03, 1, .u8, .any, .ro, 0⟩,
  ⟨0x0E10, 1, .u32, .upTo 1000 10000000, .imm, 20000⟩,
  ⟨0x0E11, 1, .u32, .upTo 1000 100000000, .imm, 200000⟩,
  ⟨0x0E12, 1, .u8, .upTo 0 64, .imm, 16⟩,
  ⟨0x0E13, 1, .u8, .upTo 10 95, .imm, 75⟩,
  ⟨0x0E14, 1, .u8, .upTo 5 75, .imm, 25⟩,
  ⟨0x0E15, 1, .u16, .upTo 10 10000, .imm, 100⟩,
  ⟨0x0E20, 1, .u16, .upTo 1 720, .imm, 24⟩,
  ⟨0x0E21, 1, .u8, .upTo 0 3, .imm, 2⟩,
  ⟨0x0E22, 1, .u32, .upTo 1 4294967295, .imm, 100⟩,
  ⟨0x0E23, 1, .u64, .any, .ro, 18446744073709551615⟩,
  ⟨0x0E24, 1, .u64, .any, .ro, 18446744073709551615⟩,
  ⟨0x0E25, 1, .u8, .any, .ro, 0⟩,
  ⟨0x0E26, 1, .u16, .any, .ro, 0⟩,
  ⟨0x0E27, 1, .u32, .any, .ro, 0⟩,
  ⟨0x0E30, 1, .u32, .zeroOnly, .counter, 0⟩,
  ⟨0x0E31, 1, .u32, .zeroOnly, .counter, 0⟩,
  ⟨0x0E32, 1, .u32, .zeroOnly, .counter, 0⟩,
  ⟨0x0E33, 1, .u32, .zeroOnly, .counter, 0⟩,
  ⟨0x0E34, 1, .u32, .zeroOnly, .counter, 0⟩,
  ⟨0x0E35, 1, .u32, .zeroOnly, .counter, 0⟩,
  ⟨0x0E36, 2, .u32, .zeroOnly, .counter, 0⟩,
  ⟨0x0E40, 16, .u32, .any, .ro, 0⟩,
  ⟨0x0E50, 4, .u32, .any, .ro, 0⟩ ]

/-- The TIME keys (chapter 16). -/
def timeRows : List ParamRow := [
  ⟨0x0F00, 1, .i32, .upTo (-4000000) 4000000, .imm, 0⟩,
  ⟨0x0F01, 1, .u32, .upTo 1000 200000, .imm, 100000⟩,
  ⟨0x0F02, 1, .u8, .any, .ro, 0⟩,
  ⟨0x0F03, 1, .i32, .any, .ro, 0⟩,
  ⟨0x0F10, 1, .u8, .upTo 0 2, .imm, 0⟩,
  ⟨0x0F11, 1, .u8, .upTo 0 2, .imm, 0⟩,
  ⟨0x0F12, 1, .u8, .upTo 0 255, .imm, 0⟩,
  ⟨0x0F13, 1, .u8, .upTo 0 1, .imm, 0⟩,
  ⟨0x0F14, 1, .u32, .upTo 1000 1000000000, .imm, 1000000⟩,
  ⟨0x0F15, 1, .u16, .upTo 1 1000, .imm, 16⟩,
  ⟨0x0F16, 1, .u32, .upTo 10 1000000, .imm, 100⟩,
  ⟨0x0F17, 1, .i32, .anyI, .imm, 0⟩,
  ⟨0x0F18, 1, .u8, .any, .ro, 0⟩,
  ⟨0x0F19, 1, .i32, .any, .ro, 0⟩,
  ⟨0x0F1A, 1, .i32, .any, .ro, 0⟩,
  ⟨0x0F20, 1, .u8, .upTo 0 255, .imm, 0⟩,
  ⟨0x0F21, 1, .u32, .upTo 1 3600000, .imm, 2000⟩,
  ⟨0x0F22, 1, .bool, .upTo 0 1, .imm, 0⟩,
  ⟨0x0F23, 1, .u32, .upTo 0 1000000000, .imm, 100⟩,
  ⟨0x0F24, 1, .u32, .upTo 0 1000000000, .imm, 0⟩,
  ⟨0x0F25, 1, .u32, .zeroOnly, .counter, 0⟩,
  ⟨0x0F26, 1, .u32, .zeroOnly, .counter, 0⟩,
  ⟨0x0F30, 1, .bool, .upTo 0 1, .imm, 0⟩,
  ⟨0x0F31, 1, .i32, .anyI, .imm, 0⟩,
  ⟨0x0F32, 1, .i32, .any, .ro, 0⟩,
  ⟨0x0F33, 1, .u32, .any, .ro, 0⟩,
  ⟨0x0F34, 1, .u32, .any, .ro, 4294967295⟩ ]

/-- The TWIN keys (chapter 17). -/
def twinRows : List ParamRow := [
  ⟨0x1000, 1, .bool, .upTo 0 1, .commit, 0⟩,
  ⟨0x1001, 1, .u8, .upTo 0 1, .commit, 0⟩,
  ⟨0x1002, 1, .u16, .upTo 100 1000, .imm, 250⟩,
  ⟨0x1003, 1, .u16, .upTo 1000 10000, .commit, 3000⟩,
  ⟨0x1004, 1, .u16, .upTo 50 1000, .commit, 100⟩,
  ⟨0x1005, 1, .u8, .upTo 1 8, .commit, 4⟩,
  ⟨0x1006, 1, .u16, .upTo 5 1000, .commit, 20⟩,
  ⟨0x1007, 1, .u16, .upTo 0 3600, .imm, 10⟩,
  ⟨0x1010, 1, .u8, .any, .ro, 0⟩,
  ⟨0x1020, 1, .u32, .zeroOnly, .counter, 0⟩,
  ⟨0x1021, 1, .u32, .zeroOnly, .counter, 0⟩,
  ⟨0x1022, 1, .u32, .zeroOnly, .counter, 0⟩,
  ⟨0x1023, 1, .u32, .zeroOnly, .counter, 0⟩,
  ⟨0x1024, 1, .u32, .zeroOnly, .counter, 0⟩,
  ⟨0x1025, 1, .u32, .zeroOnly, .counter, 0⟩,
  ⟨0x1026, 1, .u32, .zeroOnly, .counter, 0⟩,
  ⟨0x1027, 1, .u32, .zeroOnly, .counter, 0⟩,
  ⟨0x1028, 1, .u32, .zeroOnly, .counter, 0⟩ ]

/-- The INST keys (chapter 18). -/
def instRows : List ParamRow := [
  ⟨0x1100, 16, .u32, .upTo 0 0xFFFFFFFF, .imm, 4194320⟩,
  ⟨0x1110, 1, .u16, .upTo 0 65535, .imm, 0⟩,
  ⟨0x1111, 1, .u16, .upTo 10 2000, .imm, 10⟩,
  ⟨0x1112, 1, .u16, .upTo 10 2000, .imm, 1000⟩,
  ⟨0x1113, 1, .bool, .upTo 0 1, .imm, 1⟩,
  ⟨0x1114, 1, .u32, .upTo 1000 4000000000, .imm, 100000000⟩,
  ⟨0x1115, 1, .u32, .upTo 1000 4000000000, .imm, 1500000⟩,
  ⟨0x1120, 4, .u16, .upTo 0 1800, .imm, 0⟩,
  ⟨0x1124, 4, .u16, .upTo 0 1800, .imm, 1800⟩,
  ⟨0x1128, 1, .u16, .upTo 0 200, .imm, 10⟩,
  ⟨0x1129, 1, .u16, .upTo 1 10000, .imm, 100⟩,
  ⟨0x112A, 1, .u8, .upTo 0 15, .imm, 0⟩,
  ⟨0x112B, 1, .u16, .upTo 0 65535, .imm, 34952⟩,
  ⟨0x112C, 1, .u8, .any, .ro, 0⟩,
  ⟨0x1130, 1, .u32, .bankIndex, .imm, 0⟩,
  ⟨0x1131, 1, .u16, .upTo 0 200, .imm, 0⟩,
  ⟨0x1132, 1, .u16, .upTo 1 1000, .imm, 1⟩,
  ⟨0x1133, 1, .u16, .upTo 0 200, .imm, 0⟩,
  ⟨0x1134, 1, .u16, .upTo 1 1000, .imm, 1⟩,
  ⟨0x1140, 64, .i32, .anyI, .imm, 0⟩,
  ⟨0x1180, 4, .u8, .upTo 0 2, .imm, 0⟩,
  ⟨0x1184, 4, .u32, .upTo 0 0xFFFFFFFF, .imm, 0⟩,
  ⟨0x1188, 4, .i32, .anyI, .imm, 0⟩,
  ⟨0x118C, 4, .i32, .anyI, .imm, 0⟩,
  ⟨0x1190, 4, .i32, .anyI, .imm, 1000000⟩,
  ⟨0x1194, 4, .u32, .upTo 0 0xFFFFFFFF, .imm, 1000000⟩,
  ⟨0x1198, 4, .u32, .upTo 0 0xFFFFFFFF, .imm, 5000000⟩,
  ⟨0x119C, 4, .u8, .upTo 0 2, .imm, 0⟩,
  ⟨0x11A0, 4, .u32, .upTo 0 0xFFFFFFFF, .imm, 200000⟩,
  ⟨0x11A4, 1, .u32, .upTo 1 100000, .imm, 1000⟩,
  ⟨0x11A5, 1, .u16, .upTo 1100 10000, .imm, 2500⟩,
  ⟨0x11A6, 1, .u8, .any, .ro, 15⟩,
  ⟨0x11C0, 1, .u8, .any, .ro, 0⟩,
  ⟨0x11C1, 1, .u32, .zeroOnly, .counter, 0⟩,
  ⟨0x11C2, 1, .u32, .zeroOnly, .counter, 0⟩,
  ⟨0x11C3, 1, .u8, .any, .ro, 0⟩ ]

/-- The DISP keys (chapter 19). -/
def dispRows : List ParamRow := [
  ⟨0x1200, 1, .u8, .upTo 0 3, .commit, 0⟩,
  ⟨0x1201, 1, .u32, .upTo 10000 224000, .commit, 108000⟩,
  ⟨0x1202, 1, .u16, .upTo 320 1920, .commit, 1600⟩,
  ⟨0x1203, 1, .u16, .upTo 1 1023, .commit, 24⟩,
  ⟨0x1204, 1, .u16, .upTo 1 1023, .commit, 80⟩,
  ⟨0x1205, 1, .u16, .upTo 1 1023, .commit, 96⟩,
  ⟨0x1206, 1, .u16, .upTo 200 1200, .commit, 900⟩,
  ⟨0x1207, 1, .u16, .upTo 1 255, .commit, 1⟩,
  ⟨0x1208, 1, .u16, .upTo 1 255, .commit, 3⟩,
  ⟨0x1209, 1, .u16, .upTo 1 255, .commit, 96⟩,
  ⟨0x120A, 1, .u8, .upTo 0 7, .commit, 0⟩,
  ⟨0x120B, 1, .u8, .upTo 0 1, .commit, 0⟩,
  ⟨0x120C, 1, .u32, .upTo 0 16777215, .imm, 0⟩,
  ⟨0x120D, 1, .u32, .any, .ro, 0⟩,
  ⟨0x1210, 1, .u32, .upTo 0 511, .imm, 0⟩,
  ⟨0x1220, 6, .u32, .zeroOnly, .counter, 0⟩,
  ⟨0x1226, 1, .u32, .zeroOnly, .counter, 0⟩,
  ⟨0x1240, 64, .u32, .upTo 0 16777215, .imm, 0⟩ ]

/-- The CLK keys (chapter 20). -/
def clkRows : List ParamRow := [
  ⟨0x1300, 1, .u8, .upTo 0 15, .imm, 15⟩,
  ⟨0x1301, 1, .u32, .upTo 1 65536, .imm, 1⟩,
  ⟨0x1302, 1, .u16, .bits 0x0FFE, .imm, 4094⟩,
  ⟨0x1303, 1, .u16, .upTo 16 4096, .imm, 64⟩,
  ⟨0x1304, 1, .u16, .upTo 0 1000, .imm, 10⟩,
  ⟨0x1305, 1, .u8, .upTo 0 2, .imm, 0⟩,
  ⟨0x1306, 1, .u16, .upTo 1 3600, .imm, 30⟩,
  ⟨0x1310, 1, .u16, .any, .ro, 0⟩,
  ⟨0x1311, 1, .u16, .any, .ro, 1⟩,
  ⟨0x1312, 1, .u8, .zeroOnly, .counter, 0⟩,
  ⟨0x1313, 1, .u8, .zeroOnly, .counter, 0⟩,
  ⟨0x1314, 1, .u32, .zeroOnly, .counter, 0⟩,
  ⟨0x1315, 1, .u32, .zeroOnly, .counter, 0⟩,
  ⟨0x1316, 1, .u8, .any, .ro, 5⟩ ]

/-- The MON keys (chapter 20). -/
def monRows : List ParamRow := [
  ⟨0x1400, 8, .i32, .upTo (-400000) 1250000, .imm, warnDefault⟩,
  ⟨0x1408, 1, .u32, .upTo 10000 200000, .imm, 50000⟩,
  ⟨0x1410, 1, .u32, .upTo 0 4000000, .imm, 720000⟩,
  ⟨0x1411, 1, .u32, .upTo 0 4000000, .imm, 720000⟩,
  ⟨0x1412, 1, .u32, .upTo 0 4000000, .imm, 720000⟩,
  ⟨0x1413, 1, .u32, .upTo 0 4000000, .imm, 720000⟩,
  ⟨0x1414, 1, .u32, .upTo 0 4000000, .imm, 864000⟩,
  ⟨0x1415, 1, .u32, .upTo 0 4000000, .imm, 1728000⟩,
  ⟨0x1416, 1, .u32, .upTo 0 4000000, .imm, 768000⟩,
  ⟨0x1417, 1, .u32, .upTo 0 4000000, .imm, 1728000⟩,
  ⟨0x1418, 1, .u32, .upTo 0 4000000, .imm, 3168000⟩,
  ⟨0x1419, 1, .u32, .upTo 0 4000000, .imm, 1056000⟩,
  ⟨0x141A, 1, .u32, .upTo 0 4000000, .imm, 576000⟩,
  ⟨0x141B, 1, .u32, .upTo 0 4000000, .imm, 1237500⟩,
  ⟨0x1420, 1, .u32, .upTo 0 4000000, .imm, 780000⟩,
  ⟨0x1421, 1, .u32, .upTo 0 4000000, .imm, 780000⟩,
  ⟨0x1422, 1, .u32, .upTo 0 4000000, .imm, 780000⟩,
  ⟨0x1423, 1, .u32, .upTo 0 4000000, .imm, 780000⟩,
  ⟨0x1424, 1, .u32, .upTo 0 4000000, .imm, 936000⟩,
  ⟨0x1425, 1, .u32, .upTo 0 4000000, .imm, 1872000⟩,
  ⟨0x1426, 1, .u32, .upTo 0 4000000, .imm, 832000⟩,
  ⟨0x1427, 1, .u32, .upTo 0 4000000, .imm, 1872000⟩,
  ⟨0x1428, 1, .u32, .upTo 0 4000000, .imm, 3432000⟩,
  ⟨0x1429, 1, .u32, .upTo 0 4000000, .imm, 1144000⟩,
  ⟨0x142A, 1, .u32, .upTo 0 4000000, .imm, 624000⟩,
  ⟨0x142B, 1, .u32, .upTo 0 4000000, .imm, 1262500⟩,
  ⟨0x1430, 1, .u32, .any, .ro, 0⟩,
  ⟨0x1431, 1, .u32, .zeroOnly, .counter, 0⟩ ]

/-- The CAL keys (chapter 05). -/
def calRows : List ParamRow := [
  ⟨0x1500, 1, .bool, .upTo 0 1, .imm, 1⟩,
  ⟨0x1501, 1, .u32, .upTo 1000 200000, .imm, 15000⟩,
  ⟨0x1502, 1, .u16, .upTo 10 3600, .imm, 60⟩,
  ⟨0x1503, 1, .bool, .upTo 0 1, .imm, 1⟩,
  ⟨0x1504, 1, .bool, .upTo 0 1, .commit, 1⟩,
  ⟨0x1505, 1, .u16, .upTo 50 3000, .imm, 500⟩,
  ⟨0x1506, 1, .i32, .any, .ro, 0⟩,
  ⟨0x1507, 1, .u32, .zeroOnly, .counter, 0⟩ ]

/-- Every parameter row, in key order. -/
def paramRows : List ParamRow :=
  sysRows ++ synthRows ++ emitRows ++ recvRows ++ pceRows ++ stitchRows ++ thermRows ++ chanRows0 ++ chanRows1 ++ chanRows2 ++ chanRows3 ++ chanRows4 ++ sliceRows ++ zoneRows ++ sillRows ++ flacRows ++ atomRows ++ memcRows ++ timeRows ++ twinRows ++ instRows ++ dispRows ++ clkRows ++ monRows ++ calRows

/-- The row that defines a key; none: BAD_KEY. -/
def paramRow (key : Nat) : Option ParamRow :=
  paramRows.find? (fun r => decide (r.key ≤ key ∧ key < r.key + r.count))

def paramDefault (key : Nat) : Nat :=
  match paramRow key with
  | some r => r.dflt
  | none => 0

/-- The value of a key in a set; keys the set does not list read their defaults (R55). -/
def setGet (set : List (Nat × Nat)) (key : Nat) : Nat := aget (paramDefault key) set key

/-- A set with one key written, listing no key at its default. -/
def setPut (set : List (Nat × Nat)) (key v : Nat) : List (Nat × Nat) := aset (paramDefault key) set key v

/-- Value of a key of the running set. -/
def State.p (s : State) (key : Nat) : Nat := setGet s.running key

/-- The same as a two's-complement number of 32 bits. -/
def State.pI (s : State) (key : Nat) : Int := sext 32 (s.p key)

/-- A bool key is 1. -/
def State.pB (s : State) (key : Nat) : Bool := s.p key == 1

/-- Write a key of both sets (R57). -/
def State.putBoth (s : State) (key v : Nat) : State :=
  { s with running := setPut s.running key v, staged := setPut s.staged key v }

/-! Hardware sets and increments, for the clears of their cycle (R8, R13). -/

/-- The number of bit b of the W1C register at BAR0 offset off. -/
def w1cId (off b : Nat) : Nat := 32 * off + b
/-- The number of the RC counter at BAR0 offset off. -/
def regCtrId (off : Nat) : Nat := 32 * off
/-- The number of the counter of a parameter key. -/
def keyCtrId (key : Nat) : Nat := 2 ^ 24 + key

/-- The bit or counter of this number is set or counts now. -/
def State.hwMark (s : State) (id : Nat) : State := { s with hwSet := aput id s.now s.hwSet }

/-- Add n to a counter of the parameter tables (R12). -/
def State.count (s : State) (key n : Nat) : State :=
  if n = 0 then s
  else ({ s with counters := aset {} s.counters key (Counter.add32 (aget {} s.counters key) n) }).hwMark (keyCtrId key)

/-- Add 1 to a counter of the parameter tables (R12). -/
def State.bump (s : State) (key : Nat) : State := s.count key 1

/-- A counter of the parameter tables. -/
def State.ctr (s : State) (key : Nat) : Counter := aget {} s.counters key


/-! UTF-8 of R54. -/

/-- Whether bytes are well-formed UTF-8, read one sequence at a time; k bounds the number of sequences. -/
def utf8Ok : Nat → List Nat → Bool
  | _, [] => true
  | 0, _ => false
  | k + 1, b :: r =>
    let c (x : Nat) : Bool := 0x80 ≤ x && x ≤ 0xBF
    if b < 0x80 then utf8Ok k r
    else if 0xC2 ≤ b && b ≤ 0xDF then
      match r with
      | x :: r' => c x && utf8Ok k r'
      | _ => false
    else if 0xE0 ≤ b && b ≤ 0xEF then
      match r with
      | x :: y :: r' => c x && c y && (b != 0xE0 || 0xA0 ≤ x) && (b != 0xED || x ≤ 0x9F) && utf8Ok k r'
      | _ => false
    else if 0xF0 ≤ b && b ≤ 0xF4 then
      match r with
      | x :: y :: z :: r' =>
        c x && c y && c z && (b != 0xF0 || 0x90 ≤ x) && (b != 0xF4 || x ≤ 0x8F) && utf8Ok k r'
      | _ => false
    else false

/-- A str32 value is text before its first zero byte and zero bytes after it (R54). -/
def textOk (bs : List Byte) : Bool :=
  let ns := bs.map (·.toNat)
  let body := ns.takeWhile (· != 0)
  utf8Ok 33 body && (ns.drop body.length).all (· == 0)

/-- Ones followed by zeros, from the most significant bit down. -/
def contiguousMask (v : Nat) : Bool :=
  let be := leNat (leBytes 4 v).reverse
  let inv := 0xFFFFFFFF - be
  (inv + 1) &&& inv == 0

/-- The value lies in the row's range (R46 step 6, "the length and the value, which give RANGE"). -/
def PRange.ok (r : PRange) (ty : PType) (v : Nat) : Bool :=
  let x : Int := if ty.signed then sext (8 * ty.len) v else (v : Int)
  match r with
  | .any | .anyI => true
  | .upTo lo hi => decide (lo ≤ x ∧ x ≤ hi)
  | .zeroOr lo hi => decide (x = 0 ∨ (lo ≤ x ∧ x ≤ hi))
  | .odd lo hi => decide (lo ≤ x ∧ x ≤ hi ∧ x % 2 = 1)
  | .oneOf vs => vs.contains v
  | .bits m => v &&& m == v
  | .twoSpans a b c d => decide ((a ≤ x ∧ x ≤ b) ∨ (c ≤ x ∧ x ≤ d))
  | .bytesUpTo top ff => (leBytes 4 v).all (fun b => b.toNat ≤ top || (ff && b.toNat == 0xFF))
  | .mask => contiguousMask v
  | .bankIndex => v % 256 ≤ 199 && (v / 256) % 256 == 0 && v / 65536 ≤ 1
  | .text => textOk (leBytes 32 v)
  | .zeroOnly => v == 0

end Sys2Proof.Machine
end

