-- ==== Sys2Proof/Machine/Ops.lean ====
section
/-!
DEFINITION. Operations every block shares: time (chapter 16), performance events (R463 to R466), interrupts (R33),
event records on their way to the sessions and the event ring (R274 to R277, R317, R327), fault records and HEALTH
events (R481 to R486), and responses on their way out of a mailbox (R38, R41, R47, R62, R65).
-/
namespace Sys2Proof.Machine

/-! Updates of one block. -/

def State.modMbox (s : State) (m : Nat) (f : Mailbox → Mailbox) : State := { s with mboxes := modAt f s.mboxes m }
def State.mbox (s : State) (m : Nat) : Mailbox := nth {} s.mboxes m
def State.modRun (s : State) (f : Run → Run) : State := { s with run := f s.run }
def State.modSlot (s : State) (k : Nat) (f : ToneSlot → ToneSlot) : State :=
  { s with run := { s.run with slots := modAt f s.run.slots k } }
def State.slot (s : State) (k : Nat) : ToneSlot := nth {} s.run.slots k
def State.modEmit (s : State) (f : Emit → Emit) : State := { s with emit := f s.emit }
def State.modCh (s : State) (c : Nat) (f : EmitCh → EmitCh) : State :=
  { s with emit := { s.emit with chans := modAt f s.emit.chans c } }
def State.ch (s : State) (c : Nat) : EmitCh := nth {} s.emit.chans c
def State.modModule (s : State) (c : Nat) (f : Module → Module) : State :=
  { s with emit := { s.emit with modules := modAt f s.emit.modules c } }
def State.modl (s : State) (c : Nat) : Module := nth {} s.emit.modules c
def State.modRecv (s : State) (f : Recv → Recv) : State := { s with recv := f s.recv }
def State.modPce (s : State) (f : Pce → Pce) : State := { s with pce := f s.pce }
def State.modSill (s : State) (f : Sillage → Sillage) : State := { s with sill := f s.sill }
def State.modTherm (s : State) (f : Therm → Therm) : State := { s with therm := f s.therm }
def State.modProf (s : State) (f : Profile → Profile) : State := { s with prof := f s.prof }
def State.zone (s : State) (z : Nat) : Zone := aget {} s.zones z
def State.modZone (s : State) (z : Nat) (f : Zone → Zone) : State :=
  { s with zones := aset {} s.zones z (f (s.zone z)) }
def State.modCap (s : State) (i : Nat) (f : CapSlot → CapSlot) : State :=
  { s with cap := { s.cap with slots := modAt f s.cap.slots i } }
def State.capSlot (s : State) (i : Nat) : CapSlot := nth {} s.cap.slots i
def State.modEng (s : State) (i : Nat) (f : Engine → Engine) : State := { s with engines := modAt f s.engines i }
def State.eng (s : State) (i : Nat) : Engine := nth {} s.engines i
def State.modAtom (s : State) (f : Atom → Atom) : State := { s with atom := f s.atom }
def State.modRing (s : State) (i : Nat) (f : Ring → Ring) : State :=
  { s with atom := { s.atom with rings := modAt f s.atom.rings i } }
def State.ring (s : State) (i : Nat) : Ring := nth {} s.atom.rings i
def State.modPort (s : State) (i : Nat) (f : Port → Port) : State :=
  { s with atom := { s.atom with ports := modAt f s.atom.ports i } }
def State.port (s : State) (i : Nat) : Port := nth {} s.atom.ports i
def State.modMemc (s : State) (f : Memc → Memc) : State := { s with memc := f s.memc }
def State.modTime (s : State) (f : TimeBase → TimeBase) : State := { s with time := f s.time }
def State.modTwin (s : State) (f : Twin → Twin) : State := { s with twin := f s.twin }
def State.modInst (s : State) (f : Inst → Inst) : State := { s with inst := f s.inst }
def State.modDisp (s : State) (f : Disp → Disp) : State := { s with disp := f s.disp }
def State.modClk (s : State) (f : Clk → Clk) : State := { s with clk := f s.clk }
def State.modSys (s : State) (f : Sys → Sys) : State := { s with sys := f s.sys }
def State.slc (s : State) (i : Nat) : Slice := aget {} s.slices.tab i
def State.modSlc (s : State) (i : Nat) (f : Slice → Slice) : State :=
  { s with slices := { s.slices with tab := aset {} s.slices.tab i (f (s.slc i)) } }

/-- The session of this number, if open. -/
def State.session (s : State) (n : Nat) : Option Session := s.atom.sessions.find? (fun x => x.num == n)
def State.modSession (s : State) (n : Nat) (f : Session → Session) : State :=
  s.modAtom fun a => { a with sessions := a.sessions.map (fun x => if x.num == n then f x else x) }

/-! Free values (assumption 4). -/

/-- A value the manual leaves open. -/
def State.freeNat (s : State) : Nat := Config.free s.fresh
/-- The same, as a choice between two. -/
def State.freeBit (s : State) : Bool := Config.free s.fresh % 2 == 1
/-- The state after a free value has been taken. -/
def State.tookFree (s : State) : State := { s with fresh := s.fresh + 1 }

/-! Spans in ticks of 1/6,881,280 ns. -/

def nsT (n : Nat) : Tick := n * 6881280
def usT (n : Nat) : Tick := n * 6881280000
def msT (n : Nat) : Tick := n * 6881280000000
def secT (n : Nat) : Tick := n * 6881280000000000
/-- Picoseconds, to the nearest tick. -/
def psT (n : Nat) : Tick := rdiv (n * 6881280) 1000
/-- Ticks in whole nanoseconds, to nearest, ties later (R513). -/
def tickNs (t : Tick) : Nat := rdiv t 6881280
/-- A period of one DAC sample (R71): 625/3,072 ns. -/
def dacT : Tick := 1400000
/-- One period of the STW clock: 1.25 ns. -/
def stwT : Tick := 8601600

/-- An interval has passed since an instant; due at once where there is none. -/
def State.spaced (s : State) (last : Option Tick) (dt : Tick) : Bool :=
  match last with
  | some a => a + dt ≤ s.now
  | none => true

/-! Device time (R9, R10, R368, R369, R371). -/

/-- Ticks as 2^-32 ns: one tick is 65,536/105 of them. -/
def tickQ (t : Nat) : Nat := t * 65536 / 105

/-- What a slew of R369 has removed el ticks into a stretch: at most TIME.SLEW_MAX_PPB of the time passed. -/
def TimeSeg.slewPart (g : TimeSeg) (el : Tick) : Int :=
  let most : Int := (tickQ el * g.ppb / 1000000000 : Nat)
  let whole : Int := g.slew * 65536
  if whole < 0 then max whole (-most) else min whole most

/-- Device time at instant t of a stretch, in 2^-32 ns. In STANDBY, or with XA lost, the backup counter counts ticks of
30,517.578125 ns (R368, R442). -/
def TimeSeg.devQ (g : TimeSeg) (t : Tick) : Nat :=
  let el := t - g.start
  if g.backup then g.dev + el * g.hz / (6881280 * 1000000000) * 131072000000000
  else
    let base : Int := ((g.dev + tickQ el : Nat) : Int)
    (base + (tickQ el : Int) * g.rate / 1000000000000 + g.slewPart el).toNat

/-- Clock of the AON domain in Hz: XB, or LFO at 32 kHz ±10 %, the part's own value (R365, R440). -/
def State.aonHz (s : State) : Nat := if s.time.onLfo then 28800 + Config.lfo % 6401 else 32768

/-- The stretch of the device-time counter in progress. -/
def State.timeSeg (s : State) : TimeSeg :=
  { start := s.time.devAt, dev := s.time.dev, rate := s.time.ptpRate, slew := s.time.slew, ppb := s.p K.timeSlewMaxPpb,
    backup := s.time.backup, hz := s.aonHz }

/-- Device time at instant t, in 2^-32 ns, at the rate in force at t (R368, R513). An instant before the counter's first stretch
is counted back at the nominal rate. -/
def State.devQ (s : State) (t : Tick) : Nat :=
  if s.time.devAt ≤ t then s.timeSeg.devQ t
  else match s.time.past.find? (fun g => g.start ≤ t) with
    | some g => g.devQ t
    | none =>
      let first := (s.time.past.getLast?).getD s.timeSeg
      first.dev - tickQ (first.start - t)

/-- Device time at instant t in whole nanoseconds (R9). -/
def State.devAtT (s : State) (t : Tick) : Nat := s.devQ t / 4294967296
/-- Device time now. -/
def State.dev (s : State) : Nat := s.devAtT s.now
/-- Device time at instant t to the nearest nanosecond, ties later (R513). -/
def State.devRound (s : State) (t : Tick) : Nat := (s.devQ t + 2147483648) / 4294967296
/-- Device time at instant t in 1/65,536 ns (R10). -/
def State.dev16 (s : State) (t : Tick) : Nat := s.devQ t / 65536

/-- Carry the counter to now, so that a rate may change from here on. -/
def State.settle (s : State) : State :=
  s.modTime fun tb =>
    { tb with dev := s.devQ s.now, devAt := s.now,
              past := if tb.devAt < s.now then s.timeSeg :: tb.past else tb.past,
              slew := if tb.backup then tb.slew else tb.slew - s.timeSeg.slewPart (s.now - tb.devAt) / 65536 }

/-! Clock domains (R443). -/

/-- Nominal clock of a domain in Hz. -/
def State.domainHz (s : State) (d : Nat) : Nat :=
  match d with
  | 0 => s.aonHz
  | 1 => if s.clk.stwOnHfo then 96000000 else 800000000
  | 2 => 307200000
  | 3 => 614400000
  | 4 => 921600000
  | 5 => 1200000000
  | 6 => s.memc.rateMts * 125000
  | 7 => if s.clk.netOnMgmt then 125000000 else 322265625
  | 8 => 500000000
  | 9 => if s.p K.dispMode == 3 then s.p K.dispPixelKhz * 500 else s.p K.dispPixelKhz * 1000
  | 10 => 10240000
  | 11 => 1228800000
  | _ => 0

/-- R376: the TIU clock is needed. -/
def State.tiuNeeded (s : State) : Bool :=
  s.run.state == 1 || s.time.tiu.isSome || s.pB K.timePairsyncEn ||
    (s.clk.mode ≥ 2 && s.cap.slots.any (fun c => c.state == 1 && c.sources % 32 != 0))

/-- The power mode does not stop the domain (R443). HST outlasts a commanded entry to VIGIL or STANDBY until the endpoint stops (R454). -/
def State.modeRuns (s : State) (d : Nat) : Bool :=
  let m := s.clk.mode
  match d with
  | 0 | 1 | 7 | 11 => m ≥ 1
  | 2 | 10 => m ≥ 2
  | 3 | 4 | 5 | 6 => m ≥ 3
  | 8 => m ≥ 3 || s.clk.pcie
  | 9 => m ≥ 3 && s.p K.dispMode != 0
  | _ => false

/-- The domain has its clock unless gated: the mode runs it, its source is there (R441, R442), and for TIU a condition of R376 holds. -/
def State.domainAllowed (s : State) (d : Nat) : Bool :=
  s.modeRuns d &&
    (match d with
     | 10 => s.clk.xa
     | 5 => nth false s.clk.locked 1
     | 11 => s.tiuNeeded
     | _ => true)

/-- CLK.DOMAIN_RUN bit d (R469): the mode allows the clock and it is not gated. -/
def State.domainRuns (s : State) (d : Nat) : Bool :=
  d == 0 || (s.domainAllowed d && !s.clk.gated.contains d)

/-- A block of the domain has work that the state shows: it is not idle (R447). -/
def State.domainBusy (s : State) (d : Nat) : Bool :=
  match d with
  | 2 => s.run.state != 0 || s.therm.records.isSome
  | 3 => s.run.state != 0
  | 4 => s.run.state != 0 || s.pce.jobs.any (!·.isEmpty)
  | 5 => s.slices.tab.any fun e => e.2.status == 2 && !e.2.waiting
  | 6 => !s.memc.queue.isEmpty || !s.memc.reread.isEmpty || !s.memc.fillLeft.isEmpty || (s.eng 0).running.isSome || (s.eng 1).running.isSome
  | 9 => s.p K.dispMode != 0 && !s.disp.stopped
  | 10 => s.inst.running.isSome
  | 11 => s.tiuNeeded
  | _ => false

/-- A request wakes gated domains and is then served (R448). -/
def State.woken (s : State) (ds : List Nat) : State :=
  if s.clk.gated.any ds.contains then s.modClk fun k => { k with gated := k.gated.filter (fun d => !ds.contains d) } else s

/-- Ticks of one cycle of a domain's clock. -/
def State.cycleT (s : State) (d : Nat) : Tick := 6881280 * 1000000000 / max 1 (s.domainHz d)

/-- A request pulse of a crossing of group g from domain src to domain dst (R451): one that arrives while the handshake before it is in
flight is merged, and sets the group's sticky bit. How long a handshake takes, up to 3 cycles of each clock, is a FREE VALUE
(assumption 127). -/
def State.pulse (s : State) (g crossing src dst : Nat) : State :=
  let key := 64 * g + crossing
  if s.now < aget 0 s.clk.pulses key then s.modClk fun k => { k with coalesced := setBit k.coalesced g true }
  else
    let most := 3 * s.cycleT src + 3 * s.cycleT dst
    s.modClk fun k => { k with pulses := aput key (s.now + Config.free (s.fresh + s.now + key) % (most + 1)) k.pulses }

/-! Performance counters (R463 to R466). -/

/-- Cycles of a domain's clock between two instants. -/
def State.cycles (s : State) (d : Nat) (a b : Tick) : Nat :=
  let hz := s.domainHz d
  b * hz / (6881280 * 1000000000) - a * hz / (6881280 * 1000000000)

/-- Instant a lies in the present cycle of the STW clock. -/
def State.thisCycle (s : State) (a : Tick) : Bool := s.cycles 1 a s.now == 0

/-- What a counter has counted in the present cycle. -/
def State.perfCycle (s : State) (c : Perf) : Nat :=
  match c.last with
  | some (a, n) => if s.thisCycle a then n else 0
  | none => 0

/-- Add n to counter i: 48 bits, or 96 as the lower of a chained pair (R466). -/
def State.perfAdd (s : State) (ps : List Perf) (i n : Nat) : List Perf :=
  let ps := if n = 0 then ps else modAt (fun c => { c with last := some (s.now, s.perfCycle c + n) }) ps i
  let lo := nth {} ps i
  let up := nth {} ps (i + 1)
  if i % 2 = 0 ∧ up.mode = 3 then
    let total := up.val * 2 ^ 48 + lo.val + n
    if total < 2 ^ 96 then
      modAt (fun c => { c with val := total / 2 ^ 48 }) (modAt (fun c => { c with val := total % 2 ^ 48 }) ps i) (i + 1)
    else
      modAt (fun c => { c with val := 2 ^ 48 - 1, ovf := true })
        (modAt (fun c => { c with val := 2 ^ 48 - 1 }) ps i) (i + 1)
  else if lo.val + n < 2 ^ 48 then modAt (fun c => { c with val := lo.val + n }) ps i
  else modAt (fun c => { c with val := 2 ^ 48 - 1, ovf := true }) ps i

/-- A qualifier byte selects instance x (R465). -/
def qualHit (q x : Nat) : Bool := q == 0xFF || q == x

/-- n events ev of instance (x, y): counted by every counter in EDGE mode that selects them. -/
def State.perfEvent (s : State) (ev x y n : Nat) : State :=
  let hits := idxWhere (fun c => c.mode == 1 && c.event == ev && qualHit (c.qual % 256) x && qualHit (c.qual / 256 % 256) y)
    s.clk.perf
  if hits.isEmpty || n == 0 then s
  else s.modClk fun k => { k with perf := hits.foldl (fun ps i => s.perfAdd ps i n) k.perf }

/-- Whether a level signal of R465 holds for instance x. -/
def State.levelOf (s : State) (ev x : Nat) : Bool :=
  if ev % 256 == 0xFF then
    if ev / 256 == 5 then (s.slc x).status == 2 && !(s.slc x).waiting && s.domainRuns 5
    else s.domainRuns (ev / 256)
  else if ev == 0x0602 then s.memc.queue.any (fun r => r.cls == 0 && r.addr / 256 % 4 == x)
  else if ev == 0x0603 then (if x == 0 then s.memc.panicTile else s.memc.panicDisp)
  else if ev == 0x0605 then (s.eng x).running.isSome
  else false

/-- Instances of a level signal. -/
def levelInsts (ev : Nat) : Nat :=
  if ev == 0x05FF then 128 else if ev == 0x0602 then 4 else if ev == 0x0603 || ev == 0x0605 then 2 else 1

/-- Cycles a counter in LEVEL mode counts between two instants in which nothing changes. Event 0x0103, the steward waiting on the system
bus, is a FREE VALUE: the manual gives the bus no timing. So are the cycles of STW in STANDBY, where it runs only while the steward has
work (R443), which takes times that the manual does not give. -/
def State.levelCycles (s : State) (c : Perf) (a b : Tick) : Nat :=
  let d := c.event / 256
  if !s.domainRuns d then 0
  else if c.event == 0x0103 || (c.event == 0x01FF && s.clk.mode == 1) then Config.free (s.fresh + a + b) % (s.cycles 1 a b + 1)
  else
    let insts := (List.range (levelInsts c.event)).filter (fun x => qualHit (c.qual % 256) x && s.levelOf c.event x)
    insts.length * s.cycles d a b

/-- The event is a level signal (R465, type L). -/
def isLevel (ev : Nat) : Bool := (ev % 256 == 0xFF && ev / 256 ≤ 11) || [0x0103, 0x0602, 0x0603, 0x0605].contains ev

/-- Instances of a counter's level signal that are high now. -/
def State.highNow (s : State) (c : Perf) : List Nat :=
  (List.range (levelInsts c.event)).filter (fun x => qualHit (c.qual % 256) x && s.levelOf c.event x)

/-- PCIe TLPs and data-link replays (R465): the manual does not say into how many TLPs the endpoint divides its traffic. -/
def isLink (ev : Nat) : Bool := ev == 0x0801 || ev == 0x0802

/-- Rising edges that a counter in EDGE mode counts on a level signal between its last look and now (R463); those of event
0x0103, and the TLPs and replays of the PCIe link, at most one in two cycles, are FREE VALUES. -/
def State.edgeCount (s : State) (c : Perf) (a b : Tick) : Nat :=
  let d := c.event / 256
  if c.event == 0x0103 || isLink c.event then
    if s.domainRuns d then Config.free (s.fresh + a + b) % (s.cycles d a b / 2 + 1) else 0
  else ((s.highNow c).filter (fun x => !c.was.contains x)).length

/-- Time passes to t (or stands, where t lies behind): LEVEL counters count the cycles passed, and EDGE counters of a level
signal its rising edges. -/
def State.advance (s : State) (t : Tick) : State :=
  let now' := max s.now t
  let hits := idxWhere (fun c => c.mode == 2) s.clk.perf
  let edges := idxWhere (fun c => c.mode == 1 && (isLevel c.event || isLink c.event)) s.clk.perf
  if hits.isEmpty && edges.isEmpty then { s with now := now' }
  else
    let w : State := { s with now := now' }
    let ps' := hits.foldl (fun ps i => w.perfAdd ps i (s.levelCycles (nth {} s.clk.perf i) s.now now')) s.clk.perf
    let ps' := edges.foldl (fun ps i =>
      let c := nth {} s.clk.perf i
      modAt (fun c => { c with was := s.highNow c }) (w.perfAdd ps i (s.edgeCount c s.now now')) i) ps'
    { w with clk := { s.clk with perf := ps' } }

/-! Clears in the cycle of a set or an increment (R8, R13). The cycle is one of the STW clock, which the steward's registers and
counters run on (assumption 92). -/

/-- The bit or counter of this number was set or counted in the present cycle. -/
def State.hwNow (s : State) (id : Nat) : Bool := s.hwSet.any (fun e => e.1 == id && s.thisCycle e.2)

/-- What a counter holds after a clear: 1 where an increment fell in the clear's cycle (R13), with the overflow flag clear (R12). -/
def State.cleared (s : State) (id : Nat) : Counter := if s.hwNow id then { val := 1 } else {}

/-- Clear a counter of the parameter tables and its overflow flag (R12, R13). -/
def State.clearCtr (s : State) (key : Nat) : State :=
  { s with counters := aset {} s.counters key (s.cleared (keyCtrId key)) }

/-- Set a flag of mailbox m, bit b of its register at 0x18 (R34). -/
def State.flagMbox (s : State) (m b : Nat) (f : Mailbox → Mailbox) : State := (s.modMbox m f).hwMark (w1cId (0x1018 + 0x100 * m) b)

/-- Count a message of mailbox m in its REFUSED_COUNT (R34, R66). -/
def State.refusedMbox (s : State) (m : Nat) : State :=
  (s.modMbox m fun b => { b with refusedCount := b.refusedCount.add32 1 }).hwMark (regCtrId (0x1020 + 0x100 * m))

/-! Interrupts (R33). -/

/-- MSI-X vector v has a pending cause. -/
def State.raise (s : State) (v : Nat) : State :=
  s.modSys fun y => { y with ints := if y.ints.contains v then y.ints else v :: y.ints }

/-! Power modes. -/

/-- The twin identity that records and IDENT carry (R385). -/
def State.twinId (s : State) : Nat := if s.pB K.twinEnable then s.p K.twinIdentity else 0

/-- R454: outside of MAINTAIN and FULL. -/
def State.active (s : State) : Bool := s.clk.mode ≥ 3

/-! Event records (R274). -/

/-- FLAGS of R274. -/
def recFlags (ident : Nat) (split replay released : Bool) (sev : Nat) : Nat :=
  ident % 2 + 2 * b2n split + 4 * b2n replay + 8 * b2n released + 16 * (sev % 16)

/-- The 32 bytes of a record (R274). -/
def EventRec.bytes (r : EventRec) : List Byte :=
  let body := leBytes 8 r.time ++ leBytes 4 r.seq ++ leBytes 2 r.zone ++ leBytes 1 r.kind ++ leBytes 1 r.flags ++
    leBytes 4 r.valA ++ leBytes 4 r.valB ++ leBytes 4 r.firstCh
  body ++ leBytes 4 (crc32c body)

/-- Severity of a record. -/
def EventRec.sev (r : EventRec) : Nat := r.flags / 16 % 16

/-- R322: one of the session's paths runs. -/
def State.sessionLive (s : State) (x : Session) : Bool :=
  if x.transport == 2 then s.active
  else (x.ports % 4 != 0 && s.active) || (bit x.ports 2 && s.clk.mode ≥ 1)

/-- R317: the record passes the session's filter. -/
def Session.passes (x : Session) (r : EventRec) : Bool :=
  bit x.kindMask (r.kind - 1) && (r.zone == 0xFFFF || (x.firstZone ≤ r.zone && r.zone ≤ x.lastZone))

/-- A record leaves its maker: it goes to every session whose filter it passes and which has a running path, and
to the event ring (R317, R322, R332). -/
def State.deliver (s : State) (r : EventRec) : State :=
  let put (x : Session) : Session :=
    if x.passes r && s.sessionLive x && x.closing.isNone then
      { x with events := x.events ++ [r], eventTs := x.eventTs ++ [s.now],
               eventsAt := if x.events.isEmpty then s.now else x.eventsAt }
    else x
  let s := s.modAtom fun a =>
    { a with sessions := a.sessions.map put,
             evRing := if s.active then a.evRing ++ [r] else a.evRing,
             evRingTs := if s.active then a.evRingTs ++ [s.now] else a.evRingTs,
             evRingAt := if a.evRing.isEmpty then s.now else a.evRingAt }
  (s.modSys fun y => { y with made := r :: y.made }).perfEvent 0x0102 r.kind 0xFF 1

/-- A device-level record takes the device's next sequence (R276) and leaves. -/
def State.deviceRecordAt (s : State) (time kind sev valA valB firstCh : Nat) : State :=
  let r : EventRec := { time := time, seq := s.sys.devSeq, zone := 0xFFFF, kind := kind,
                        flags := recFlags s.twinId false false false sev,
                        valA := valA % 2 ^ 32, valB := valB % 2 ^ 32, firstCh := firstCh % 2 ^ 32 }
  (s.modSys fun y => { y with devSeq := (y.devSeq + 1) % 2 ^ 32 }).deliver r

/-- The same, at the present device time. -/
def State.deviceRecord (s : State) (kind sev valA valB firstCh : Nat) : State :=
  s.deviceRecordAt s.dev kind sev valA valB firstCh

/-! Faults (R481 to R486). -/

/-- The 32 bytes of a fault record (R484). -/
def FaultRec.bytes (r : FaultRec) : List Byte :=
  let body := leBytes 8 r.time ++ leBytes 4 r.seq ++ leBytes 1 r.cls ++ leBytes 1 r.cause ++ leBytes 2 r.inst ++
    leBytes 8 r.addr ++ leBytes 1 r.master ++ leBytes 1 r.outcome ++ leBytes 2 r.detail
  body ++ leBytes 4 (crc32c body)

/-- One more count in the register LATE_TOTAL (R474). -/
def State.lateOnce (s : State) : State :=
  (s.modSys fun y => { y with lateTotal := y.lateTotal.add32 1 }).hwMark (regCtrId 0x20C)

/-- FAULT_CONS reads cons, and n more records are lost unread (R485). -/
def State.faultsLost (s : State) (cons : Word) (n : Nat) : State :=
  let s := s.modSys fun y => { y with faultCons := cons, faultLost := y.faultLost.add32 n }
  if n = 0 then s else s.hwMark (regCtrId 0x208)

/-- Log a fault record, keeping the newest 4,096 (R485). -/
def State.logFault (s : State) (time cls cause inst addr master outcome detail : Nat) : State :=
  let r : FaultRec := { time := time, seq := s.sys.faultSeq, cls := cls, cause := cause, inst := inst, addr := addr,
                        master := master, outcome := outcome, detail := detail }
  let log := s.sys.faults ++ [r]
  let prod := s.sys.faultProd + 1
  let excess := (prod - s.sys.faultCons).toNat - 4096
  (s.modSys fun y =>
    { y with faults := log.drop (log.length - 4096), faultSeq := (y.faultSeq + 1) % 2 ^ 32, faultProd := prod }).faultsLost
      (s.sys.faultCons + BitVec.ofNat 32 excess) excess

/-- Name and class of a HEALTH cause (R486): severity, and class, 0xFF for "none". BOOT and COIL depend on detail. -/
def healthSev (cause : Nat) : Nat :=
  match cause with
  | 1 => 12
  | 5 | 6 | 7 | 14 | 19 | 22 => 4
  | 9 | 10 | 11 | 16 | 17 | 23 | 24 | 25 => 6
  | 18 => 2
  | 21 => 15
  | _ => 8

/-- A HEALTH event with a fault record where its class asks for one (R486). cls 0xFF: no fault. -/
def State.healthFull (s : State) (cause inst detail cls addr master outcome : Nat) : State :=
  let fseq := s.sys.faultSeq
  let rec? := cls == 1 || cls == 2 || cls == 3
  let s1 := if rec? then s.logFault s.dev cls cause inst addr master outcome detail else s
  if bit (s.p K.sysHealthEventMask) cause then
    s1.deviceRecord 0x0D (healthSev cause) (cause + cls * 256 + inst % 65536 * 65536)
      (detail % 65536 + (if rec? then fseq % 65536 * 65536 else 0)) 0
  else s1

/-- OUTCOME of R484 where no access failed: 3 for a block that stopped or lost its function, 4 for a reset, 0 where
    the device fell back and works on (a degraded boot, a clock switch, the instrumentation fall-back) or a single
    result failed. -/
def healthOutcome (cause cls : Nat) : Nat :=
  if cls == 3 then 4
  else if cls == 2 && cause != 0 && cause != 3 && cause != 22 then 3
  else 0

/-- A HEALTH event of no particular access. -/
def State.health (s : State) (cause inst detail cls : Nat) : State :=
  s.healthFull cause inst detail cls 0xFFFFFFFFFFFFFFFF 0xFF (healthOutcome cause cls)

/-! Addresses: sixteen bytes as a number, first octet most significant (R5, R62). -/

/-- A value kept as its little-endian bytes, read in network byte order. -/
def netOrder (n len : Nat) : Nat := leNat (leBytes len n).reverse
/-- An IPv4 address in mapped form. -/
def mapped4 (a : Nat) : Nat := 0xFFFF * 2 ^ 32 + a
def isV4 (a : Nat) : Bool := a / 2 ^ 32 == 0xFFFF

/-- With PRP both 10G ports use NET0's addresses (R329). Index 2 is the management port. -/
def State.portIdx (s : State) (p : Nat) : Nat := if p == 1 && s.pB K.atomPrpEn then 0 else p
def State.portV4 (s : State) (p : Nat) : Nat :=
  netOrder (if p == 2 then s.p K.sysMgmtIpv4Addr else s.p (K.atomNetIpv4Addr + s.portIdx p)) 4
def State.portV6 (s : State) (p : Nat) : Nat :=
  netOrder (if p == 2 then s.p K.sysMgmtIpv6Addr else s.p (K.atomNetIpv6Addr + s.portIdx p)) 16
/-- The link-local address derived from the port's MAC: fe80::/64 with the modified EUI-64 of the MAC. -/
def State.portLocal (s : State) (p : Nat) : Nat :=
  let m := netOrder (Config.mac (s.portIdx p)) 6
  0xFE80 * 2 ^ 112 + ((m / 2 ^ 24 % 2 ^ 24) ^^^ 0x020000) * 2 ^ 40 + 0xFFFE * 2 ^ 24 + m % 2 ^ 24
/-- Addresses a port answers on. -/
def State.portAddrs (s : State) (p : Nat) : List Nat := [mapped4 (s.portV4 p), s.portV6 p, s.portLocal p]

/-- The port's own address from which a datagram to this address leaves: of its family, link-local for a link-local destination or where
no other is set (R62, R64, R328, R331; assumption 93). -/
def State.ownAddr (s : State) (p dest : Nat) : Nat :=
  if isV4 dest then mapped4 (s.portV4 p)
  else if dest / 2 ^ 118 == 0xFE80 / 2 ^ 6 || s.portV6 p == 0 then s.portLocal p
  else s.portV6 p

/-- UDP port of mailbox 16 or 17 (R62). -/
def State.mgmtPort (s : State) (mb : Nat) : Nat := s.p K.sysMgmtUdpPort + (mb - 16)

/-- The address and port that a datagram of mailbox mb to this peer leaves from (R62, R64, R331). -/
def State.mgmtEnd (s : State) (mb : Nat) (peer : Peer) : Peer := { addr := s.ownAddr 2 peer.addr, port := s.mgmtPort mb }

/-! Responses (R38, R41 to R47, R62, R65). -/

/-- Status codes. -/
inductive Status where
  | ok | accepted | busy | unknownOp | badKey | range | denied | state | checkFail | noSpace | timeout | aborted | fault
  deriving DecidableEq, Repr

def Status.code : Status → Nat
  | .ok => 0
  | .accepted => 1
  | .busy => 2
  | .unknownOp => 3
  | .badKey => 4
  | .range => 5
  | .denied => 6
  | .state => 7
  | .checkFail => 8
  | .noSpace => 9
  | .timeout => 10
  | .aborted => 11
  | .fault => 12

/-- Bytes rounded up to a multiple of 16 with padding of zeros (R35). -/
def pad16 (bs : List Byte) : List Byte := bs ++ List.replicate ((16 - bs.length % 16) % 16) 0

/-- A message: header words 0 to 2, CRC-32C and payload, padded (R35, R41, R42). flags is [31:16] of word 1. -/
def message (op tag seq flags : Nat) (payload : List Byte) : List Byte :=
  let head := leBytes 2 op ++ leBytes 2 tag ++ leBytes 2 payload.length ++ leBytes 2 flags ++ leBytes 4 seq
  pad16 (head ++ leBytes 4 (crc32c (head ++ payload)) ++ payload)

/-- Flags word of a response (R41). -/
def rspFlags (final dup replayed : Bool) (st : Status) : Nat :=
  1 + 2 * b2n final + 4 * b2n dup + 8 * b2n replayed + 256 * st.code

/-- Bytes of the inbound and outbound ring buffers start at these offsets of the mailbox buffers (R34). -/
def inBase (m : Nat) : Nat := 0x2000 * m
def outBase (m : Nat) : Nat := 0x2000 * m + 0x1000

/-- Write ring bytes from unit position u on, wrapping at 4 KiB (R35). -/
def ringWrite (mem : Memory) (base u : Nat) : List Byte → Memory
  | [] => mem
  | bs =>
    let off := u % 256 * 16
    let first := bs.take (4096 - off)
    (mem.writeBytes (base + off) first).writeBytes base (bs.drop (4096 - off))

/-- A final response has entered: its command is no longer in flight (R38, R44). -/
def Mailbox.finish (b : Mailbox) (r : Resp) : Mailbox :=
  if r.final then { b with inflight := b.inflight.filter (· != r.tag) } else b

/-- Put as many held responses of mailbox m into its outbound ring as there is room for (R38). n bounds the number. -/
def State.pump (s : State) (m : Nat) : Nat → State
  | 0 => s
  | n + 1 =>
    let b := s.mbox m
    let room := 256 - (b.outProd - b.outCons).toNat
    match b.split with
    | some r =>
      if room ≥ 1 then
        let s := { s with bufs := ringWrite s.bufs (outBase m) b.outProd.toNat (r.bytes.drop 4096) }
        let s := s.modMbox m fun b => ({ b with outProd := b.outProd + 1, split := none }).finish r
        let s := if b.outIntEn then s.raise 0 else s
        s.pump m n
      else s
    | none =>
      match b.held with
      | [] => s
      | r :: rest =>
        let units := r.bytes.length / 16
        if units ≤ 256 then
          if units ≤ room then
            let s := { s with bufs := ringWrite s.bufs (outBase m) b.outProd.toNat r.bytes }
            let s := s.modMbox m fun b =>
              ({ b with outProd := b.outProd + BitVec.ofNat 32 units, held := rest }).finish r
            let s := if b.outIntEn then s.raise 0 else s
            s.pump m n
          else s
        else if b.outProd == b.outCons then
          let s := { s with bufs := ringWrite s.bufs (outBase m) b.outProd.toNat (r.bytes.take 4096) }
          let s := s.modMbox m fun b => { b with outProd := b.outProd + 256, held := rest, split := some r }
          let s := if b.outIntEn then s.raise 0 else s
          s.pump m n
        else s

/-- Send a response: into the ring or the held queue of its mailbox, as a datagram, or to the configuration section's
executor. own: it concerns a command in flight; a refusal at steps 1 to 4 of R46 does not, and leaves any earlier command
of its tag as it was. -/
def State.sendAs (s : State) (own : Bool) (q : ReqId) (st : Status) (final dup replayed : Bool) (payload : List Byte) :
    State :=
  let bytes := message q.op q.tag q.seq (rspFlags final dup replayed st) payload
  let r : Resp := { tag := q.tag, seq := q.seq, final := final && own, bytes := bytes, peer := q.peer }
  let s := if st == .busy || st == .denied then s.refusedMbox q.mb else s
  let s := if final && own && !replayed then s.perfEvent 0x0101 q.mb 0xFF 1 else s
  let drop := own && !replayed && (s.mbox q.mb).flushed.contains q.tag
  let discard (b : Mailbox) : Mailbox :=
    ({ b with flushed := if final then b.flushed.filter (· != q.tag) else b.flushed }).finish r
  if q.mb < 16 then
    if drop then s.modMbox q.mb discard
    else (s.modMbox q.mb fun b => { b with held := b.held ++ [r] }).pump q.mb 66
  else if q.mb < 18 then
    let s := if drop then s else s.modAtom fun a => { a with datagrams := a.datagrams ++ [(s.mgmtEnd q.mb q.peer, q.peer, bytes)] }
    let keep (e : Remembered) : Remembered :=
      if final && own && !replayed && e.seq == q.seq && e.op == q.op && e.tag == q.tag && e.done.isNone then
        { e with done := some bytes }
      else e
    if drop then s.modMbox q.mb discard
    else s.modMbox q.mb fun b => ({ b with remembered := b.remembered.map keep }).finish r
  else if q.mb == 18 then
    if drop then s.modMbox 18 discard
    else s.modMbox 18 fun b => { b with held := b.held ++ [r] }
  else if final then
    let s1 := s.modSys fun y => { y with cfgWait := none }
    if st == .ok || st == .accepted then s1
    else
      let s2 := s1.modSys fun y => { y with degraded := true, bootCode := if y.bootCode == 0 then 9 else y.bootCode }
      s2.health 0 s2.sys.bootCode (s.sys.cfgIdx - 1) 1
  else s

/-- A response of a command that is in flight. -/
def State.send (s : State) (q : ReqId) (st : Status) (final replayed : Bool) (payload : List Byte) : State :=
  s.sendAs true q st final false replayed payload

/-- A refusal at steps 1 to 4 of R46; dup: the tag was in flight (R44). -/
def State.refuse (s : State) (q : ReqId) (st : Status) (dup : Bool) : State := s.sendAs false q st true dup false []

/-- The final response. -/
def State.final (s : State) (q : ReqId) (st : Status) (payload : List Byte) : State :=
  s.send q st true false payload

/-- The ACCEPTED response of an accepted command (R47). -/
def State.accept (s : State) (q : ReqId) : State := s.send q .accepted false false []

end Sys2Proof.Machine
end

