-- ==== Sys2Proof/Machine/Reals.lean ====
section
/-!
DEFINITION. The real functions the manual's formulas use, to 48 fraction bits: natural logarithm, exponential, square
root and arc tangent. Where a formula's result is rounded, it is rounded from these (assumption 13).
-/
namespace Sys2Proof.Machine

/-- One in fixed point. -/
def fx1 : Nat := 2 ^ 48

/-- π in 2^-64, to nearest. -/
def piX : Nat := 57952155664616982739

/-- ln 2 in 2^-64, to nearest. -/
def ln2x : Nat := 12786308645202655660

/-- Sum of z^(2i+1)/(2i+1) from term i on, for n terms; z and the power in 2^-64. -/
def atanhSum (z2 : Nat) : Nat → Nat → Nat → Nat
  | 0, _, _ => 0
  | n + 1, pow, i => pow / (2 * i + 1) + atanhSum z2 n (pow * z2 / 2 ^ 64) (i + 1)

/-- ln(n/d) for n ≥ d, n < 2d, in 2^-64. -/
def lnUnit (n d : Nat) : Nat :=
  let z := (n - d) * 2 ^ 64 / (n + d)
  2 * atanhSum (z * z / 2 ^ 64) 24 z 0

/-- ln(n/d) for n ≥ d > 0 in 2^-64. -/
def lnUp (n d : Nat) : Nat :=
  let k := Nat.log2 (n / d)
  k * ln2x + lnUnit n (d * 2 ^ k)

/-- ln(n/d) in 2^-48, to nearest; 0 where n or d is 0. -/
def lnFx (n d : Nat) : Int :=
  if n = 0 ∨ d = 0 then 0
  else if d ≤ n then ((rdiv (lnUp n d) 65536 : Nat) : Int)
  else -((rdiv (lnUp d n) 65536 : Nat) : Int)

/-- Taylor sum of e^x for x in 2^-64 below 1: term, next divisor, terms left. -/
def expSum (x : Nat) : Nat → Nat → Nat → Nat
  | 0, _, _ => 0
  | n + 1, term, i => term + expSum x n (term * x / 2 ^ 64 / (i + 1)) (i + 1)

/-- e^x for x ≥ 0 in 2^-48, result in 2^-48: e^(k ln 2) times e^rest. -/
def expUp (x : Nat) : Nat :=
  let x64 := x * 65536
  let k := x64 / ln2x
  (expSum (x64 % ln2x) 24 (2 ^ 64) 0) * 2 ^ k / 65536

/-- e^x, x and result in 2^-48. -/
def expFx (x : Int) : Nat :=
  if x < 0 then fx1 * fx1 / expUp x.natAbs else expUp x.natAbs

/-- Bit by bit, from bit k − 1 down: the largest r + rest with square at most n. -/
def isqrtAux (n : Nat) : Nat → Nat → Nat
  | 0, r => r
  | k + 1, r => isqrtAux n k (if (r + 2 ^ k) * (r + 2 ^ k) ≤ n then r + 2 ^ k else r)

/-- √n rounded down. -/
def isqrt (n : Nat) : Nat := isqrtAux n (Nat.log2 n / 2 + 1) 0

/-- √n to nearest. -/
def isqrtR (n : Nat) : Nat := (isqrt (4 * n) + 1) / 2

/-- Σ (−1)^i z^(2i+1)/(2i+1), terms from i on; z in 2^-64, z ≤ 1/2. -/
def atanSum (z2 : Nat) : Nat → Nat → Nat → Int
  | 0, _, _ => 0
  | n + 1, pow, i => ((pow / (2 * i + 1) : Nat) : Int) - atanSum z2 n (pow * z2 / 2 ^ 64) (i + 1)

/-- atan(n/d) for 0 ≤ n ≤ d, d > 0, in 2^-64: above 1/2 by atan x = π/4 − atan((1−x)/(1+x)). -/
def atanUnit (n d : Nat) : Int :=
  let small (a b : Nat) : Int :=
    let z := a * 2 ^ 64 / b
    atanSum (z * z / 2 ^ 64) 36 z 0
  if 2 * n ≤ d then small n d else ((piX / 4 : Nat) : Int) - small (d - n) (d + n)

/-- The angle of (x, y) in 2^-64 rad, −π to π; 0 for the origin. -/
def atan2x (y x : Int) : Int :=
  let a := x.natAbs
  let b := y.natAbs
  let pi : Int := ((piX : Nat) : Int)
  let q : Int := if a = 0 ∧ b = 0 then 0 else if b ≤ a then atanUnit b a else pi / 2 - atanUnit a b
  let h : Int := if x < 0 then pi - q else q
  if y < 0 then -h else h

/-- Alternating Taylor sum: term, then term × x² / ((k + 1)(k + 2)); x2 and term in 2^-64. -/
def trigSum (x2 : Nat) : Nat → Nat → Nat → Int
  | 0, _, _ => 0
  | n + 1, term, k => (term : Int) - trigSum x2 n (term * x2 / 2 ^ 64 / ((k + 1) * (k + 2))) (k + 2)

/-- Cosine and sine of turns / 2^64, in 2^-48. -/
def cosSin (turns : Nat) : Int × Int :=
  let r := turns % 2 ^ 62
  let x := r * 2 * piX / 2 ^ 64
  let x2 := x * x / 2 ^ 64
  let c := Int.tdiv (trigSum x2 20 (2 ^ 64) 0) 65536
  let d := Int.tdiv (trigSum x2 20 x 1) 65536
  match turns / 2 ^ 62 % 4 with
  | 0 => (c, d)
  | 1 => (-d, c)
  | 2 => (-c, -d)
  | _ => (d, -c)

/-- ln 10 in 2^-48. -/
def ln10Fx : Nat := 648120085424803

/-- The factor of an amplitude gain in mdB, in 2^-48. -/
def gainFx (mdb : Int) : Nat := expFx (mdb * ln10Fx / 20000)

/-- An angle in microradians, in 2^-64 turn. -/
def turnsOf (urad : Int) : Nat := uns 64 (urad * 2 ^ 128 / (2 * piX * 1000000))

/-- Squared magnitude. -/
def mag2 (y : Cplx) : Nat := (y.1 * y.1 + y.2 * y.2).toNat

/-! IEEE 754 binary32 (R193), values in units of 2^-96. -/

/-- num / den rounded to 24 significant bits, ties to even; den > 0. -/
def b32 (num : Int) (den : Nat) : Int :=
  let a := num.natAbs
  let sh := Nat.log2 (a / den) - 23
  let q := a / (den * 2 ^ sh)
  let r := a % (den * 2 ^ sh)
  let m := if den * 2 ^ sh < 2 * r || (2 * r == den * 2 ^ sh && q % 2 == 1) then q + 1 else q
  if num < 0 then -((m * 2 ^ sh : Nat) : Int) else ((m * 2 ^ sh : Nat) : Int)

def b32Int (n : Int) : Int := b32 (n * 2 ^ 96) 1
def b32Add (a b : Int) : Int := b32 (a + b) 1
def b32Sub (a b : Int) : Int := b32 (a - b) 1
def b32Mul (a b : Int) : Int := b32 (a * b) (2 ^ 96)

/-- a / b, b not 0. -/
def b32Div (a b : Int) : Int := b32 (a * 2 ^ 96 * b.sign) b.natAbs

/-- The weight of a value's last binary32 place. -/
def b32Ulp (a : Int) : Nat := 2 ^ (Nat.log2 a.natAbs - 23)

/-- A free value of −n to n. -/
def freeWithin (free n : Nat) : Int := ((free % (2 * n + 1) : Nat) : Int) - n

/-- The binary32 mean of integers. The manual fixes no order of the sum: what its roundings leave is a FREE VALUE within their
bound, none while no partial sum can round. -/
def b32Mean (free : Nat) (xs : List Int) : Int :=
  let mag := (xs.map (·.natAbs)).sum
  let err := if mag < 2 ^ 24 then 0 else xs.length * mag / 2 ^ 24
  b32Div (b32Int (xs.sum + freeWithin free err)) (b32Int xs.length)

/-- The binary32 logarithm of a / b, both above 0: within one last place, a FREE VALUE, of the exact one. -/
def b32LnRatio (free : Nat) (a b : Int) : Int :=
  let l := b32 (lnFx (b32Div a b).natAbs (2 ^ 96) * 2 ^ 48) 1
  l + freeWithin free 1 * b32Ulp l

/-- a / b to nearest, ties to even; b > 0. -/
def rdivEven (a : Int) (b : Nat) : Int :=
  let q := a / (b : Int)
  let r := a % (b : Int)
  if 2 * r < b then q else if (b : Int) < 2 * r then q + 1 else if q % 2 = 0 then q else q + 1

end Sys2Proof.Machine
end

