-- ==== Sys2Proof/Machine/Inject.lean ====
section
/-!
DEFINITION. The instrumentation converter's configurations, its queue of injected conversions and its scan
(R406 to R419), and the temperature of an NTC thermistor.
-/
namespace Sys2Proof.Machine

/-! Fields of a configuration word (R417). -/

def cfgNeg (c : Nat) : Nat := c % 32
def cfgRatio (c : Nat) : Bool := bit c 5
def cfgPath (c : Nat) : Bool := bit c 6
def cfgGain (c : Nat) : Nat := c / 2 ^ 7 % 16
def cfgPreset (c : Nat) : Nat := c / 2 ^ 11 % 16
def cfgMinPhase (c : Nat) : Bool := bit c 15
def cfgCoarse (c : Nat) : Bool := bit c 16
def cfgExc (c : Nat) : Nat := c / 2 ^ 17 % 4
def cfgReverse (c : Nat) : Bool := bit c 19
def cfgBurnout (c : Nat) : Nat := c / 2 ^ 20 % 4
def cfgDwell (c : Nat) : Nat := c / 2 ^ 22 % 256

/-- A configuration word from its fields. -/
def mkCfg (neg ratio path gain preset minPhase coarse exc burnout dwell : Nat) : Nat :=
  neg + 2 ^ 5 * ratio + 2 ^ 6 * path + 2 ^ 7 * gain + 2 ^ 11 * preset + 2 ^ 15 * minPhase + 2 ^ 16 * coarse +
    2 ^ 17 * exc + 2 ^ 20 * burnout + 2 ^ 22 * dwell

/-- Taps of the bank a preset names. -/
def State.bankTaps (s : State) (preset : Nat) : Nat :=
  if preset == 5 then s.p K.instBankaTaps else if preset == 6 then s.p K.instBankbTaps else 0

def State.bankDecim (s : State) (preset : Nat) : Nat :=
  if preset == 5 then s.p K.instBankaDecim else s.p K.instBankbDecim

/-- Settling of a preset in µs (R409). -/
def State.settleUs (s : State) (preset : Nat) : Nat :=
  match preset with
  | 0 => 400
  | 1 => 6800
  | 2 => 13200
  | 3 => 20400
  | 4 => 17100
  | _ => 400 + s.bankTaps preset * 100

/-- Output period of a preset in µs (R409). -/
def State.outputUs (s : State) (preset : Nat) : Nat :=
  match preset with
  | 0 => 100
  | 1 => 400
  | 2 => 1000
  | 3 => 20000
  | 4 => 16700
  | _ => 100 * s.bankDecim preset

/-- Time of a conversion in µs (R408). -/
def State.convUs (s : State) (cfg : Nat) : Nat :=
  10 + s.settleUs (cfgPreset cfg) + (cfgDwell cfg - 1) * s.outputUs (cfgPreset cfg)

/-- A configuration of an input keeps to R406, R408, R409, R410 and the ranges of R417. -/
def State.cfgOk (s : State) (input cfg : Nat) : Bool :=
  let preset := cfgPreset cfg
  cfg / 2 ^ 30 == 0 && cfgNeg cfg ≤ 16 && cfgNeg cfg != input && cfgGain cfg ≤ (if cfgPath cfg then 7 else 14) &&
    preset ≤ 6 && (!cfgMinPhase cfg || preset == 1 || preset == 2) && (!cfgRatio cfg || cfgExc cfg != 0) &&
    cfgExc cfg ≤ 2 && (preset < 5 || s.bankTaps preset != 0) && 1 ≤ cfgDwell cfg && s.convUs cfg ≤ 21000

/-! The queue. -/

/-- The front end runs (VIGIL, MAINTAIN, FULL). -/
def State.instRuns (s : State) : Bool := s.clk.mode ≥ 2

/-- A requester's conversion is queued or running (R413). -/
def State.reqBusy (s : State) (req : Nat) : Bool :=
  s.inst.queue.any (fun c => c.req == req) ||
    (match s.inst.running with
     | some c => c.req == req
     | none => false)

/-- The scanned inputs in increasing order. -/
def State.scanned (s : State) : List Nat := (List.range 16).filter (bit (s.p K.instScanMask))

/-- The next input to scan: the next above the last one, else the lowest (R412). -/
def State.nextScan (s : State) : Option Nat :=
  match s.inst.scanAt with
  | some a =>
    match s.scanned.find? (fun i => a < i) with
    | some i => some i
    | none => s.scanned.head?
  | none => s.scanned.head?

/-- An input's conversions go through the fall-back path (R419); an entry at instant 0 tries the main path. -/
def State.onFallback (s : State) (input : Nat) : Bool := s.inst.fallback.any (fun e => e.1 == input && e.2 != 0)

/-- A main-path configuration on the fall-back path: the largest binary gain not above the main gain (R419). Main gains 1, 1.5, 2, 3, …
are two to an octave, so that gain number g gives fall-back gain number g / 2. -/
def fallbackCfg (c : Nat) : Nat := c - 2 ^ 7 * cfgGain c + 2 ^ 6 + 2 ^ 7 * (cfgGain c / 2)

/-- A conversion begins now with the multiplexer's settling (R408). -/
def State.beginConv (s : State) (c : Conv) : State :=
  let fb := !cfgPath c.cfg && s.onFallback c.input
  let c' : Conv :=
    { c with startAt := s.now, given := 0, settleAt := s.now + usT 10, outs := 0, coarse := 0, fallback := fb,
             cfg := if fb then fallbackCfg c.cfg else c.cfg, flags := c.flags + (if fb then 8 else 0) }
  (s.woken [10]).modInst fun x => { x with running := some c' }

/-- The converter takes its next conversion: the oldest of the queue, else the next scanned input (R414). -/
def State.nextConv (s : State) : State :=
  if !s.instRuns then s.modInst fun x => { x with running := none }
  else match s.inst.queue with
    | c :: rest => (s.modInst fun x => { x with queue := rest }).beginConv c
    | [] =>
      match s.nextScan with
      | none => s.modInst fun x => { x with running := none }
      | some i =>
        let cfg := s.p (K.instCfg + i)
        let a := nth {} s.inst.accums i
        let rev := cfgReverse cfg && a.revNext
        (s.modInst fun x =>
          { x with scanAt := some i,
                   accums := modAt (fun a => { a with revNext := cfgReverse cfg && !a.revNext }) x.accums i }).beginConv
          { input := i, req := 0, cfg := cfg, startAt := s.now, given := 0, reversed := rev, fallback := false,
            result := none, flags := 0 }

/-- An idle converter takes its next conversion: a scan that begins or resumes (R412). -/
def State.convGo (s : State) : State := if s.inst.running.isNone then s.nextConv else s

/-- A conversion joins the queue, and begins where the converter is idle (R414). -/
def State.enqueue (s : State) (c : Conv) : State :=
  let s1 := s.modInst fun x => { x with queue := x.queue ++ [c] }
  if s.inst.running.isNone then s1.nextConv else s1

/-- A requester asks for a conversion: merged into its own, or queued (R413, R414). -/
def State.inject (s : State) (req input cfg : Nat) (reversed : Bool) : State :=
  if !s.instRuns || s.reqBusy req then s
  else s.enqueue { input := input, req := req, cfg := cfg, startAt := s.now, given := 0, reversed := reversed,
                   fallback := false, result := none, flags := 0 }

/-- The pump and APD thermistor settings of R413: gain 1, ratiometric, IEX0. -/
def pumpCfg : Nat := mkCfg 16 1 0 0 0 0 0 1 0 1
def apdCfg : Nat := mkCfg 16 1 0 0 1 0 0 1 0 1
/-- Reference coil: PT100 at gain 8 with IEX1, or thermistor as the APD, at preset 2 (R413). -/
def pt100Cfg : Nat := mkCfg 16 1 0 6 2 0 0 2 0 1
def coilThCfg : Nat := mkCfg 16 1 0 0 2 0 0 1 0 1
/-- REFDIV: gain 1, internal reference, preset 2. -/
def refdivCfg : Nat := mkCfg 16 0 0 0 2 0 0 0 0 1

/-- Calibration run num asks for its REFDIV conversion: each run needs its own (R139). -/
def State.injectRefdiv (s : State) (num : Nat) : State :=
  if !s.instRuns then s
  else s.enqueue { input := 16, req := 4, cfg := refdivCfg, startAt := s.now, given := 0, run := num, reversed := false,
                   fallback := false, result := none, flags := 0 }

/-! Thermistors. -/

/-- Temperature in 0.1 mK above 0 °C from resistance r and the 25 °C resistance r25 in one unit, and B:
1/T = 1/298.15 K + ln(r/r25)/B. None where no temperature satisfies it. -/
def ntcTemp (r r25 beta : Nat) : Option Int :=
  let x := lnFx r r25
  let den : Int := (100 * beta * fx1 : Nat) + 29815 * x
  if r = 0 ∨ r25 = 0 ∨ den ≤ 0 then none
  else some (rdivAway ((298150000 * beta * fx1 : Nat) : Int) den.toNat - 2731500)

/-- Resistance in mΩ × 2^23 × gain that a ratiometric code stands for, on excitation exc. -/
def State.ratioRes (s : State) (code : Int) (exc : Nat) : Nat := code.toNat * s.p (K.instRefOhm + exc)

end Sys2Proof.Machine
end

