-- ==== Sys2Proof/Machine/Derived.lean ====
section
/-!
DEFINITION. Quantities that follow from a parameter set: the launch schedule (chapter 03), channels, column groups and
their sets (chapter 09), the regions of memory (chapter 12). They take the set as an argument, so that COMMIT can judge
a snapshot by the same definitions.
-/
namespace Sys2Proof.Machine

/-- A parameter set. -/
abbrev PSet := List (Nat × Nat)

namespace PS

def g (ps : PSet) (k : Nat) : Nat := setGet ps k
def gI (ps : PSet) (k : Nat) : Int := sext 32 (setGet ps k)

/-- Active slots in increasing order (R78). -/
def tones (ps : PSet) : List Nat := (List.range 8).filter (fun k => bit (g ps K.synthToneMask) k)

/-- N, the number of active tones. -/
def nTones (ps : PSet) : Nat := (tones ps).length

/-- The shot period P in ticks (R77). -/
def period (ps : PSet) : Tick := nsT (g ps K.synthShotPeriodNs)

/-- k × P / N in ticks: whole for every N up to 8 (R79, R513). -/
def launchOff (ps : PSet) (pos : Nat) : Tick := pos * period ps / nTones ps

/-- P / N. -/
def stagger (ps : PSet) : Tick := launchOff ps 1

/-- L, DAC samples of the pulse, ties upwards (R72). -/
def pulseSamples (ps : PSet) : Nat := rdiv (g ps K.synthPulseNs * 49152) 10000

/-- Realised pulse duration T (R72). -/
def pulseT (ps : PSet) : Tick := pulseSamples ps * dacT

/-- SYNTH.PULSE_ACTUAL_PS. -/
def pulsePs (ps : PSet) : Nat := rdiv (pulseSamples ps * 625000) 3072

/-- The bin interval: 12, 24 or 48 samples of 2.4576 GS/s, twice as many DAC samples. -/
def binT (ps : PSet) : Tick := 24 * 2 ^ (g ps K.pceSpatialMode) * dacT

/-- The round trip R. -/
def roundTrip (ps : PSet) : Tick := g ps K.pceBins * binT ps

/-- P − R as an exact span, possibly negative. -/
def drydown (ps : PSet) : Int := (period ps : Int) - (roundTrip ps : Int)

/-- SYNTH.DRYDOWN_NS: whole nanoseconds, rounded down. -/
def drydownNs (ps : PSet) : Nat := (period ps - roundTrip ps) / 6881280

/-- Number of column groups. -/
def groups (ps : PSet) : Nat := cdiv (g ps K.pceBins) 64

/-- First bin of channel c, and the bin after its last (R209). -/
def chanBin (ps : PSet) (c : Nat) : Nat := g ps K.chanFirstBin + c * g ps K.chanDecimation

/-- The channel that holds a bin (R209). -/
def binChan (ps : PSet) (b : Nat) : Option Nat :=
  let f := g ps K.chanFirstBin
  if b < f then none
  else
    let c := (b - f) / g ps K.chanDecimation
    if c < g ps K.chanChannels then some c else none

/-- Column groups j and j + 1 are joined: a channel holds bins of both (R211). -/
def joined (ps : PSet) (j : Nat) : Bool :=
  let b := 64 * (j + 1)
  let f := g ps K.chanFirstBin
  let k := g ps K.chanDecimation
  f < b && b < chanBin ps (g ps K.chanChannels) && (b - f) % k != 0

/-- The set of R211 that holds group j is named by its lowest group. -/
def setHead (ps : PSet) : Nat → Nat
  | 0 => 0
  | j + 1 => if joined ps j then setHead ps j else j + 1

/-- The groups of the set that begins at group h; n bounds their number. -/
def setRun (ps : PSet) (h : Nat) : Nat → List Nat
  | 0 => []
  | n + 1 => if joined ps h && h + 1 < groups ps then h :: setRun ps (h + 1) n else [h]

def setGroups (ps : PSet) (h : Nat) : List Nat := setRun ps h (groups ps)

/-- Heads of all sets, in column order. -/
def setHeads (ps : PSet) : List Nat :=
  (List.range (groups ps)).filter (fun j => j == 0 || !joined ps (j - 1))

/-- Home slice of the set with this head: sets are dealt round-robin in column order (R219). -/
def homeSlice (ps : PSet) (h : Nat) : Nat :=
  ((setHeads ps).filter (· < h)).length % (g ps K.chanBandSlices)

/-- Channels made from the columns of a group: those with a bin in it. -/
def groupChans (ps : PSet) (j : Nat) : List Nat :=
  let lo := (binChan ps (max (64 * j) (g ps K.chanFirstBin)))
  let hiBin := min (64 * j + 63) (g ps K.pceBins - 1)
  match lo with
  | none => []
  | some a => (List.range 64).filterMap (fun i =>
      if a + i < g ps K.chanChannels && chanBin ps (a + i) ≤ hiBin then some (a + i) else none)

/-- Channels of a set. -/
def setChans (ps : PSet) (h : Nat) : List Nat := ((setGroups ps h).flatMap (groupChans ps)).eraseDups

/-- Holding bin h_s of thermal section s (R187). -/
def sectionBin (ps : PSet) (sec : Nat) : Nat :=
  g ps K.thermSectionFirstBin + sec * g ps K.thermSectionBins + (g ps K.thermSectionBins - 1) / 2

/-- Channel of a section (R266). -/
def sectionChan (ps : PSet) (sec : Nat) : Option Nat := binChan ps (sectionBin ps sec)

/-- Row interval of a top-note tile in 1/256 ns (R215). -/
def rowPeriod256 (ps : PSet) (cons : Bool) : Nat :=
  rdiv (g ps K.synthShotPeriodNs * 256) (if cons then 1 else nTones ps)

/-- Heart tile time 256 × HEART_DECIM / fs (R289). -/
def heartTile (ps : PSet) : Tick := 256 * g ps K.chanHeartDecim * period ps / nTones ps

/-- The exact interval of heart samples: 2^h × P / N in every mode (R225, R513). -/
def heartStep (ps : PSet) : Tick := g ps K.chanHeartDecim * period ps / nTones ps

/-- h of R225: log2 of CHAN.HEART_DECIM. -/
def heartLog (ps : PSet) : Nat := Nat.log2 (g ps K.chanHeartDecim)

/-! Regions of usable memory (R279), in bytes. -/

def mib : Nat := 1048576
def baseStart : Nat := 1024 * mib
def freshStart (ps : PSet) : Nat := (1024 + g ps K.sillBaseMib) * mib
def freshSlots (ps : PSet) : Nat := g ps K.chanFreshMib * mib / 66560
def heartStart (ps : PSet) : Nat := freshStart ps + g ps K.chanFreshMib * mib
def heartSlots (ps : PSet) : Nat := g ps K.sillHeartMib * mib / 66560
def archiveStart (ps : PSet) : Nat := heartStart ps + g ps K.sillHeartMib * mib

end PS

/-- MEMC.USABLE_MIB: 7/8 of fitted (R349). -/
def State.usableMib (s : State) : Nat := s.memc.fittedMib * 7 / 8

/-- Archive size in MiB under a set (R279); negative where the set leaves none. -/
def State.archiveMibOf (s : State) (ps : PSet) : Int :=
  (s.usableMib : Int) - 1024 - PS.g ps K.sillBaseMib - PS.g ps K.chanFreshMib - PS.g ps K.sillHeartMib

def State.archiveMib (s : State) : Nat := (s.archiveMibOf s.running).toNat

/-- A column group is in consensus (R172). -/
def State.inCons (s : State) (j : Nat) : Bool := s.pce.cons.contains j

/-- Tile time of a column group: 256 rows. -/
def State.tileT (s : State) (j : Nat) : Tick :=
  if s.inCons j then 256 * PS.period s.running else 256 * PS.period s.running / PS.nTones s.running

/-- The band kinds a channel in consensus does not make (R224). -/
def State.kindAbsent (s : State) (c kind : Nat) : Bool :=
  let n := PS.nTones s.running
  s.inCons (PS.chanBin s.running c / 64) && kind ≤ 7 &&
    (if n == 2 ^ Nat.log2 n then decide (8 - Nat.log2 n ≤ kind) else true)

/-- Instant of a consensus row of the group that begins at boundary b (R175). -/
def PS.consInstant (ps : PSet) (b : Tick) : Tick := b + (nTones ps - 1) * period ps / (2 * nTones ps)

/-- E of R181. -/
def PS.evalLen (ps : PSet) : Nat := cdiv 256 (nTones ps)

/-- Number of the evaluation interval that the run's present group belongs to (R181); ps: the set since the last reset of R177. -/
def State.ivlNow (s : State) (ps : PSet) : Nat := s.pce.ivlBase + (s.run.groups - s.pce.ivlGroup) / PS.evalLen ps

/-- Intervals are counted anew from the run's group grp on (R181). -/
def State.ivlRestart (s : State) (ps : PSet) (grp : Nat) : State :=
  s.modPce fun p => { p with ivlBase := s.ivlNow ps + 1, ivlGroup := grp, ivlProg := none }

/-- A bench test is running (R144). -/
def State.bench (s : State) : Bool :=
  match s.recv.selftest with
  | some x => x.kind == 1
  | none => false

/-- The longest tile time of the running set. -/
def State.longestTile (s : State) : Tick :=
  if s.pce.cons.isEmpty then 256 * PS.period s.running / PS.nTones s.running else 256 * PS.period s.running

/-- The DAC sample nearest to an instant, ties to the earlier sample (R79, R83). -/
def nearestDac (t : Tick) : Tick := (t + (dacT / 2 - 1)) / dacT * dacT

/-- The first DAC sample at or after an instant. -/
def dacFrom (t : Tick) : Tick := cdiv t dacT * dacT

/-! The Raman records (R189 to R192). -/

/-- A cell buffer with samples from number a up to b of a record added, w samples a cell; 48-bit two's complement (R189, R190). -/
def addCells (cells w a b : Nat) (xs buf : List Int) : List Int :=
  let ys := List.replicate a 0 ++ ((xs.take b).drop a)
  (List.range cells).map fun c => sext 48 (uns 48 (nth 0 buf c + ((ys.drop (c * w)).take w).sum))

/-- A lane code at either end of its range. -/
def rmnEnd (x : Int) : Bool := decide (x ≤ -8192) || decide (8191 ≤ x)

/-- The cells that samples from number a up to b mark as overranged, w samples a cell (R192). -/
def ovrCells (cells w a b : Nat) (xs : List Int) (marked : List Nat) : List Nat :=
  (idxWhere rmnEnd ((xs.take b).drop a)).foldl
    (fun m i => let c := (a + i) / w; if c < cells && !m.contains c then m ++ [c] else m) marked

/-- The samples of the record in progress that have come by now: RECV.RMN_OVR_COUNT counts them, and the accumulation that the record
belongs to takes them (R189, R190, R192). -/
def State.ramanTake (s : State) : State :=
  match s.therm.record with
  | none => s
  | some r =>
    let n := if s.now < r.start then 0 else (s.now - r.start) / nsT 4
    let ended (xs : List Int) : Nat := (((xs.take n).drop r.taken).filter rmnEnd).length
    let s := (s.count K.recvRmnOvrCount (ended r.rma)).count (K.recvRmnOvrCount + 1) (ended r.rms)
    s.modTherm fun h =>
      { h with record := if max r.rma.length r.rms.length ≤ n then none else some { r with taken := max n r.taken },
               accAs := if r.sums then addCells r.cells r.width r.taken n r.rma h.accAs else h.accAs,
               accS := if r.sums then addCells r.cells r.width r.taken n r.rms h.accS else h.accS,
               accAsOvr := if r.sums then ovrCells r.cells r.width r.taken n r.rma h.accAsOvr else h.accAsOvr,
               accSOvr := if r.sums then ovrCells r.cells r.width r.taken n r.rms h.accSOvr else h.accSOvr }

/-- The accumulation in progress is discarded. -/
def State.ramanDrop (s : State) : State :=
  s.ramanTake.modTherm fun h =>
    { h with records := none, accAs := [], accS := [], accAsOvr := [], accSOvr := [],
             record := h.record.map fun r => { r with sums := false } }

/-- Measuring ends (R191): the accumulation in progress is discarded and counted. -/
def State.ramanAbort (s : State) : State :=
  if s.therm.records.isSome then s.ramanDrop.bump K.thermRamanAbortCount else s

/-- The supplied image of a kind (R245): what the manual gives of it. -/
def suppliedImage (kind : Nat) : Image :=
  { kind := kind, entry := 0, inBase := 0, inCols := 64, hdrBase := 0, stateBase := 0,
    stateBytesSet := if kind == 0 then 8192 else 384, stateLimit := if kind == 0 then 131072 else 122880, finBase := 0,
    finBytes := 0, dataAddr := 0, code := [], data := [], supplied := true }

/-- Zones this device defines. -/
def State.definedZones (s : State) : List Nat := (s.zones.filter (fun e => e.2.desc.isSome)).map (·.1)

/-- First and last bin of a zone's channels (R209, R256). -/
def PS.zoneBins (ps : PSet) (d : ZoneDesc) : Nat × Nat := (chanBin ps d.first, chanBin ps (d.last + 1) - 1)

/-- Column groups that hold a bin of the zone. -/
def PS.zoneGroups (ps : PSet) (d : ZoneDesc) : List Nat :=
  let b := zoneBins ps d
  (List.range (groups ps)).filter (fun j => 64 * j ≤ b.2 && b.1 ≤ 64 * j + 63)

/-- R317: the union of the channels of the defined zones from first to last, as ranges. -/
def State.channelSet (s : State) (first last : Nat) : List (Nat × Nat) :=
  s.zones.filterMap fun e =>
    match e.2.desc with
    | some d => if first ≤ e.1 && e.1 ≤ last then some (d.first, d.last) else none
    | none => none

/-- A channel lies in a channel set. -/
def inSet (cs : List (Nat × Nat)) (c : Nat) : Bool := cs.any (fun r => r.1 ≤ c && c ≤ r.2)

end Sys2Proof.Machine
end

