-- ==== Sys2Proof/Machine/Request.lean ====
section
/-!
DEFINITION. What every request has in common: the fields of its payload, the order of checks of R46 from the class on,
in-flight places (R44), remembered requests and replays (R45).
-/
namespace Sys2Proof.Machine

/-- An unsigned field of the payload at offset off (R50). -/
def payU (q : Req) (off len : Nat) : Nat := fld q.payload off len

/-- Length of the payload. -/
def payLen (q : Req) : Nat := q.payload.length

/-- What its response echoes, for this opcode. -/
def reqId (q : Req) (op : Nat) : ReqId := { mb := q.mb, op := op, tag := q.tag, seq := q.seq, peer := q.peer }

/-- Command classes (R67): bits of a mailbox's class nibble. -/
def cObserve : Nat := 0
def cOperate : Nat := 1
def cConfigure : Nat := 2
def cMaintain : Nat := 3

/-- The mailbox holds a class (R67, R68). The configuration section has every class (R477). -/
def State.holds (s : State) (mb cls : Nat) : Bool := mb == 19 || bit (nth 0 s.prot.classes mb) cls

/-- Set STATUS and REPLAYED apart, a stored response again: bit 3 of the flags is set and the CRC made anew (R45). -/
def replayed (bytes : List Byte) : List Byte :=
  let head := slice bytes 0 6 ++ leBytes 1 (fld bytes 6 1 ||| 8) ++ slice bytes 7 5
  let len := fld bytes 4 2
  let pay := slice bytes 16 len
  pad16 (head ++ leBytes 4 (crc32c (head ++ pay)) ++ pay)

/-- A remembered request of this sequence (R45). -/
def State.repeatOf (s : State) (q : Req) : Option Remembered :=
  if q.mb == 16 || q.mb == 17 then (s.mbox q.mb).remembered.find? (fun e => e.seq == q.seq) else none

/-- Resend for a repeated request (R45): the stored final response, or ACCEPTED while it is in flight. -/
def State.resend (s : State) (q : Req) (op : Nat) (e : Remembered) : State :=
  match e.done with
  | some bytes => s.modAtom fun a => { a with datagrams := a.datagrams ++ [(s.mgmtEnd q.mb q.peer, q.peer, replayed bytes)] }
  | none => s.send (reqId q op) .accepted false true []

/-- Steps 3 and 4 of R46, then body: class and grant, the tag, the 64 in flight (R44). Before MB_READY nothing is served
but the configuration section (R40). -/
def State.gate (s : State) (q : Req) (op cls : Nat) (grant : Bool) (body : State → ReqId → State) : State :=
  let id := reqId q op
  if (!s.sys.mbReady && q.mb != 19) || 19 < q.mb || s.clk.mode == 0 then s
  else match s.repeatOf q with
    | some e => s.resend q op e
    | none =>
      if !s.holds q.mb cls || !(grant || q.mb == 19) then s.refuse id .denied false
      else if (s.mbox q.mb).inflight.contains q.tag then s.refuse id .busy true
      else if 64 ≤ (s.mbox q.mb).inflight.length then s.refuse id .busy false
      else body (s.modMbox q.mb fun b => { b with inflight := q.tag :: b.inflight }) id

/-- Execution begins: mailboxes 16 and 17 remember the request (R45). -/
def State.begins (s : State) (q : ReqId) : State :=
  if q.mb == 16 || q.mb == 17 then
    s.modMbox q.mb fun b =>
      { b with remembered := ({ seq := q.seq, op := q.op, tag := q.tag, done := none } :: b.remembered).take 8 }
  else s

/-- An immediate command's OK with its payload. -/
def State.ok (s : State) (q : ReqId) (payload : List Byte) : State := (s.begins q).final q .ok payload

/-- ACCEPTED of an accepted command. -/
def State.takes (s : State) (q : ReqId) : State := (s.begins q).accept q

end Sys2Proof.Machine
end

