-- ==== Sys2Proof/Machine/Capture.lean ====
section
/-!
DEFINITION. The capture unit (chapter 12): retention of the tiers, the pin budget, the start of a capture, its window
and its seal, and the commands of capture. Tier 0 is the top note (archive), 1 the heart note, 2 the base note.
-/
namespace Sys2Proof.Machine

/-! What each tier holds. -/

/-- Device time just after the last row of a heart tile (R218, R513). -/
def HeartTile.stop (h : HeartTile) : Nat := h.stopTime

/-- Device time just after the last row of a tile (R218, R513). -/
def Tile.stop (t : Tile) : Nat := t.stopTime

/-- Tiles of the fresh ring that the index shows. -/
def State.freshTiles (s : State) : List Tile := s.sill.closed.filter (fun t => !t.dropped)

/-- Tiles whose rows the fresh ring holds: closed, or still being written. -/
def State.heldTiles (s : State) : List Tile :=
  s.freshTiles ++ s.sill.openTiles.filter (fun t => !t.dropped && 0 < t.samples)

/-- Rows that a heart tile holds. -/
def HeartTile.rows (h : HeartTile) : Nat :=
  if h.indexed then h.samples else ((h.cols.map (·.2.length)).max?).getD 0

/-- Device time of the oldest retained sample of a tier (R31, R284), tiles being written among them. -/
def State.oldest (s : State) (tier : Nat) : Option Nat :=
  match tier with
  | 0 => ((s.sill.flacons.map (·.start)) ++ (s.heldTiles.map (·.startTime))).min?
  | 1 => ((s.sill.hearts.filter (fun h => 0 < h.rows)).map (·.start)).min?
  | _ => (s.sill.base.map (·.time)).min?

/-- Device time of the newest retained sample of a tier. -/
def State.newestOf (s : State) (tier : Nat) : Option Nat :=
  match tier with
  | 0 => ((s.sill.flacons.map (·.newest)) ++ (s.heldTiles.map (fun t => s.devRound t.lastTick))).max?
  | 1 => ((s.sill.hearts.filter (fun h => 0 < h.rows)).map
      (fun h => s.devRound (h.startTick + (h.rows - 1) * PS.heartStep s.running))).max?
  | _ => (s.sill.base.map (·.time)).max?

/-- Retained span of a tier in nanoseconds. -/
def State.retention (s : State) (tier : Nat) : Nat :=
  match s.oldest tier, s.newestOf tier with
  | some a, some b => b - a
  | _, _ => 0

/-- Positions of a tier's ring, and the one that its writer comes to next (R281, R282). -/
def State.ringSize (s : State) (tier : Nat) : Nat :=
  max 1 (match tier with
    | 0 => s.archiveMib
    | 1 => PS.heartSlots s.running
    | _ => s.p K.sillBaseMib)
def State.ringHead (s : State) (tier : Nat) : Nat :=
  match tier with
  | 0 => s.sill.segNext
  | 1 => s.sill.heartNext
  | _ => s.sill.baseSeg + 1

/-- The contiguous run of ring positions from the oldest to the newest of some (R284): in ring order from where the writer comes to
next. -/
def State.ringRun (s : State) (tier : Nat) (ps : List Nat) : List Nat :=
  let n := s.ringSize tier
  let head := s.ringHead tier % n
  let ages := ps.map fun p => (p + n - head) % n
  match ages.min?, ages.max? with
  | some a, some b => (List.range (b + 1 - a)).map fun k => (head + a + k) % n
  | _, _ => []

/-- Ring positions of a tier that a window [a, b] pins: from the oldest that holds data of it to the newest (R284, R291). -/
def State.positions (s : State) (tier a b : Nat) : List Nat :=
  s.ringRun tier (match tier with
    | 0 => (s.sill.flacons.filter (fun f => f.start ≤ b && a ≤ f.stop)).map (·.segment)
    | 1 => (s.sill.hearts.filter (fun h => h.indexed && h.start ≤ b && a ≤ h.stop)).map (·.pos)
    | _ => (s.sill.base.filter (fun r => a ≤ r.time && r.time ≤ b)).map (·.seg))

/-- Bytes of one ring position of a tier (R281, R282). -/
def posBytes (tier : Nat) : Nat := if tier == 1 then 66560 else PS.mib

/-- Bytes of a tier's region. -/
def State.regionBytes (s : State) (tier : Nat) : Nat :=
  match tier with
  | 0 => s.archiveMib * PS.mib
  | 1 => s.p K.sillHeartMib * PS.mib
  | _ => s.p K.sillBaseMib * PS.mib

/-- Pin budget of a tier (R288). -/
def State.budget (s : State) (tier : Nat) : Nat := s.regionBytes tier * s.p K.sillPinLimitPct / 100

/-- A ring position is pinned by some capture. -/
def State.pinned (s : State) (tier pos : Nat) : Bool := s.cap.slots.any (fun c => c.pins.contains (tier, pos))

/-- Bytes that captures other than slot i reserve or hold in a tier. -/
def State.othersHold (s : State) (i tier : Nat) : Nat :=
  ((s.cap.slots.zipIdx.filter (fun e => e.2 != i)).map (fun e => nth 0 e.1.bytes tier)).sum

/-- Write rate of a tier over the last second, bytes per second (R289). -/
def State.writeRate (s : State) (tier : Nat) : Nat :=
  ((s.sill.written.filter (fun w => w.1 == tier && s.now - w.2.1 ≤ secT 1)).map (·.2.2)).sum

/-- A writer put n bytes into a tier. -/
def State.wrote (s : State) (tier n : Nat) : State :=
  s.modSill fun x => { x with written := (tier, s.now, n) :: x.written.filter (fun w => s.now - w.2.1 ≤ secT 1) }

/-- s of R289 for a tier. -/
def State.tierSpan (s : State) (tier : Nat) : Tick :=
  match tier with
  | 0 => s.longestTile
  | 1 => PS.heartTile s.running
  | _ => s.p K.chanBaseTiles * s.longestTile

/-- Spans selected by tier bits. -/
def tiersOf (bits : Nat) : List Nat := (List.range 3).filter (bit bits)

/-- Hundredfold margin factor m of R289. -/
def State.marginPct (s : State) (tier : Nat) : Nat := if tier == 1 then 100 else 100 + s.p K.sillPinMarginPct

/-- p of R289: the pre-trigger span limited to the tier's retention. -/
def State.preSpan (s : State) (tier preMs : Nat) : Tick := min (msT preMs) (nsT (s.retention tier))

/-- est of R289 in bytes, rounded up, at a post span of q ms. -/
def State.estimate (s : State) (tier preMs q : Nat) : Nat :=
  let span := s.preSpan tier preMs + msT q + 2 * s.tierSpan tier
  cdiv (s.marginPct tier * s.writeRate tier * span) (100 * secT 1) + 2 * posBytes tier

/-- The tier fits with a post span of q ms (R289). -/
def State.fits (s : State) (i tier preMs q : Nat) : Bool :=
  s.estimate tier preMs q ≤ s.budget tier - s.othersHold i tier && s.othersHold i tier ≤ s.budget tier

/-- Largest post span in ms, up to want, at which the tier fits; the tier fits at 0 (R289). -/
def State.maxPost (s : State) (i tier preMs want : Nat) : Nat :=
  let room := s.budget tier - s.othersHold i tier - 2 * posBytes tier
  let mr := s.marginPct tier * s.writeRate tier
  if mr == 0 then want
  else
    let span := room * 100 * secT 1 / mr
    min want ((span - s.preSpan tier preMs - 2 * s.tierSpan tier) / msT 1)

/-- The post span granted to a request, or none where even 0 does not fit a selected tier (R288, R289). -/
def State.grantPost (s : State) (i tiers preMs want : Nat) : Option Nat :=
  if (tiersOf tiers).all (fun t => s.fits i t preMs 0) then
    some ((tiersOf tiers).foldl (fun q t => min q (s.maxPost i t preMs want)) want)
  else none

/-! Events of the capture unit. -/

/-- A CAPTURE record (R298), which also raises vector 5. -/
def State.captureEvent (s : State) (i cause time sev : Nat) : State :=
  let c := s.capSlot i
  (s.deviceRecordAt time 0x0C sev (cause + 256 * i + 65536 * c.fired) c.seq c.firstCh).raise 5

/-- Both engines keep a flush time (R305): the seventeenth displaces the oldest. -/
def State.flushEngines (s : State) (time : Nat) : State :=
  let dropped := (s.engines.filter (fun e => e.flushes.length ≥ 16)).length
  let put (e : Engine) : Engine :=
    { e with flushes := (if e.flushes.length ≥ 16 then e.flushes.drop 1 else e.flushes) ++ [(time, s.now)] }
  ({ s with engines := s.engines.map put }).count K.flacFlushDropped dropped

/-- A capture's window ends and it enters SEALING (R293): a flush that names the window end goes to both engines. -/
def State.enterSealing (s : State) (i : Nat) : State :=
  (s.modCap i fun c => { c with state := 3 }).flushEngines ((s.capSlot i).windowEnd / 65536)

/-- Positions written later in the window are pinned as they are written (R291), with those between (R284), within the budget that no
other capture holds (R290); where the next one would exceed it, the post phase ends with POST_CUT. start is the first sample's
time. -/
def State.pinWritten (s : State) (tier pos start stop : Nat) : State :=
  (List.range 16).foldl (fun s i =>
    let c := s.capSlot i
    if (c.state == 2 || c.state == 3) && bit c.tiers tier && !c.pins.contains (tier, pos)
        && start ≤ c.trigTime + c.postActual * 1000000 && c.trigTime - c.preMs * 1000000 ≤ stop then
      let run := s.ringRun tier (pos :: (c.pins.filter (fun p => p.1 == tier)).map (·.2))
      let held := run.length * posBytes tier
      if held ≤ nth 0 c.bytes tier || held + s.othersHold i tier ≤ s.budget tier then
        s.modCap i fun c =>
          { c with pins := run.map (fun p => (tier, p)) ++ c.pins.filter (fun p => p.1 != tier),
                   bytes := modAt (fun b => max b held) c.bytes tier }
      else if c.state == 2 then
        let s := s.modCap i fun c =>
          { c with postActual := (start - c.trigTime) / 1000000, flags := setBit c.flags 2 true,
                   windowEnd := max start c.trigTime * 65536 }
        (s.captureEvent i 4 (max start c.trigTime) 3).enterSealing i
      else s
    else s) s

/-- STAR_N is pulled low for a capture whose sources include anything other than STAR (R287). -/
def State.starDrive (s : State) (fired : Nat) : State :=
  if s.pB K.sillStarDrive && setBit fired 4 false != 0 then
    { s with cap := { s.cap with starUntil := some (s.now + usT (s.p K.sillStarPulseUs)),
                                 starIgnore := s.now + usT (s.p K.sillStarPulseUs) + usT 1 } }
  else s

/-- A trigger starts the capture of an ARMED slot (R287, R291); a flush that names the window start goes to both engines (R293). -/
def State.captureStart (s : State) (i trigTime frac fired trigZone trigSeq : Nat) (heldRec : Bool) : State :=
  let vigil := s.clk.mode == 2
  let c := s.capSlot i
  let a := trigTime - c.preMs * 1000000
  let b := trigTime + c.postMs * 1000000
  let sel := tiersOf c.tiers
  let lost (t : Nat) : Bool := vigil && t != 2
  let pins := sel.flatMap (fun t => if lost t then [] else (s.positions t a (min b (max s.dev a))).map (fun p => (t, p)))
  let short (t : Nat) : Bool :=
    match s.oldest t with
    | some o => a < o
    | none => true
  let depth (t : Nat) : Nat :=
    if !sel.contains t || lost t then 0
    else if short t then
      match s.oldest t with
      | some o => (trigTime - o) / 1000000
      | none => 0
    else c.preMs
  let gapsIn := (s.sill.gaps.filter (fun g => sel.contains g.tier && g.start ≤ b && a ≤ g.stop)).length
  let fl := setBit (setBit (setBit (setBit (setBit c.flags 1 (sel.any (fun t => !lost t && short t)))
      5 vigil) 3 (vigil && bit c.tiers 0)) 4 (vigil && bit c.tiers 1)) 8 heldRec
  let seq := (s.cap.seq + 1) % 2 ^ 32
  let endT := (b * 65536) + frac
  let s := { s with cap := { s.cap with seq := seq } }
  let s := s.modCap i fun c =>
    { c with state := 2, fired := fired, trigZone := trigZone, trigTime := trigTime, trigFrac := frac, flags := fl,
             preActual := [depth 0, depth 1, depth 2], postActual := c.postMs, gaps := gapsIn, seq := seq,
             trigSeq := if heldRec then 0 else trigSeq, windowEnd := endT, startedAt := s.now, pins := pins,
             bytes := (c.bytes.zipIdx).map (fun e => max e.1 ((pins.filter (fun p => p.1 == e.2)).length * posBytes e.2)) }
  let s := (((s.bump K.sillCaptures).captureEvent i 1 trigTime 1).starDrive fired).flushEngines a
  if endT ≤ s.dev16 s.now then s.enterSealing i else s

/-- A CAPTURE_RELEASE of slot i, which its mailbox may send, waits in the queue in this STW cycle: the trigger then finds the slot FREE
(R295). -/
def State.releaseDue (s : State) (i : Nat) : Bool :=
  s.pending.any fun c =>
    match c with
    | .captureRelease t q => s.cycles 1 s.now t == 0 && payLen q == 4 && payU q 0 4 == i && s.holds q.mb cOperate
    | _ => false

/-- A trigger from source bit src reaches slot i (R286, R291, R292, R294). A further source of the STW cycle in which the capture
started is listed with it, and STAR_N is pulled low if none before was other than STAR (R287). -/
def State.captureTrigger (s : State) (i src trigTime frac trigZone trigSeq : Nat) (heldRec : Bool) : State :=
  let c := s.capSlot i
  if !bit c.sources src || s.releaseDue i then s
  else if c.state == 1 then s.captureStart i trigTime frac (2 ^ src) trigZone trigSeq heldRec
  else if (c.state == 2 || c.state == 3) && s.thisCycle c.startedAt then
    let s1 := s.modCap i fun c =>
      let c := { c with fired := setBit c.fired src true }
      if src == 5 && !bit c.fired 5 then { c with trigZone := trigZone, trigSeq := trigSeq } else c
    if setBit c.fired 4 false == 0 then s1.starDrive (2 ^ src) else s1
  else if c.state == 2 then
    if c.nested.length < 8 then s.modCap i fun c => { c with nested := c.nested ++ [trigTime] }
    else s.modCap i fun c => { c with nestedExtra := c.nestedExtra.add32 1 }
  else if c.state == 3 && bit (s.p K.sillRearmMask) i then
    let s1 := (s.modCap i fun c =>
      { c with missed := c.missed.add32 1, firstMissed := if c.missed.val == 0 then trigTime else c.firstMissed }).bump
        K.sillMissedTotal
    if c.missed.val == 0 then s1.captureEvent i 3 trigTime 3 else s1
  else s

/-- The same trigger reaches every slot. -/
def State.triggerAll (s : State) (src trigTime frac trigZone trigSeq : Nat) (heldRec : Bool) : State :=
  (List.range 16).foldl (fun s i => s.captureTrigger i src trigTime frac trigZone trigSeq heldRec) s

/-- A record of a zone made by this device triggers the slots armed for it (R286, R297). -/
def State.zoneTrigger (s : State) (r : EventRec) (heldRec : Bool) : State :=
  if 1 ≤ r.kind && r.kind ≤ 8 && s.p K.sillZoneTrigSev ≤ EventRec.sev r then
    (List.range 16).foldl (fun s i =>
      let c := s.capSlot i
      if c.zone == 0xFFFF || c.zone == r.zone then
        s.captureTrigger i 5 r.time 0 r.zone (if heldRec then 0 else r.seq) heldRec
      else s) s
  else s

/-- TRIG_SEQUENCE of a held record once matched or released (R297). -/
def State.trigSeqKnown (s : State) (r : EventRec) (seq : Nat) : State :=
  { s with cap := { s.cap with slots := s.cap.slots.map (fun c =>
      if bit c.flags 8 && c.trigZone == r.zone && c.trigTime == r.time && c.state ≥ 2 then { c with trigSeq := seq }
      else c) } }

/-! The requests and events of capture. -/

/-- Bytes of the capture record (R296). -/
def CapSlot.bytes176 (c : CapSlot) (i : Nat) : List Byte :=
  if c.state == 0 then leBytes 184 i
  else
    leBytes 1 i ++ leBytes 1 c.state ++ leBytes 1 c.sources ++ leBytes 1 c.fired ++ leBytes 2 c.zone ++
    leBytes 2 c.trigZone ++ leBytes 4 c.tiers ++ leBytes 4 c.flags ++ leBytes 4 c.firstCh ++ leBytes 4 c.count ++
    leBytes 4 c.preMs ++ leBytes 4 c.postMs ++ leBytes 8 c.trigTime ++ leBytes 2 c.trigFrac ++ leBytes 2 0 ++
    (c.preActual.flatMap (leBytes 4)) ++ leBytes 4 (if c.state ≥ 2 then c.postActual else 0) ++ leBytes 4 c.gaps ++
    leBytes 8 c.bytes.sum ++ leBytes 8 c.sealTime ++ leBytes 8 c.deadTime ++ leBytes 4 c.missed.val ++
    leBytes 4 c.seq ++ leBytes 8 c.firstMissed ++ leBytes 1 c.nested.length ++ leBytes 3 0 ++
    leBytes 4 c.nestedExtra.val ++
    ((List.range 8).flatMap (fun k => leBytes 8 (nth 0 c.nested k))) ++ leBytes 4 c.trigSeq ++ leBytes 4 0

/-- A slot with its request, ARMED with a granted post span (R288, R289). -/
def State.armed (s : State) (src zone pre post tiers first cnt q : Nat) : CapSlot :=
  { state := 1, sources := src, zone := zone, tiers := tiers, flags := b2n (q < post), firstCh := first,
    count := if cnt == 0 then s.p K.chanChannels - first else cnt, reqCount := cnt, preMs := pre, postMs := q,
    reqPostMs := post,
    bytes := (List.range 3).map (fun t => if bit tiers t then s.estimate t pre q else 0) }

/-- The checks of R288 past step 5, and the span granted. -/
def State.armCheck (s : State) (i pre post tiers first cnt : Nat) : Status × Nat :=
  if (bit tiers 1 && (s.p K.sillHeartMib == 0 || !s.pB K.chanHeartEn)) then (.range, 0)
  else if s.p K.chanChannels < first + cnt then (.range, 0)
  else if (s.capSlot i).state != 0 then (.state, 0)
  else match s.grantPost i tiers pre post with
    | none => (.noSpace, 0)
    | some q => (.ok, q)

/-- The end of SEALING (R293, R294): the reservation becomes what is pinned; the slot is HELD, or re-arms. -/
def State.sealed (s : State) (i : Nat) : State :=
  let c0 := s.capSlot i
  let real := (List.range 3).map (fun t => ((c0.pins.filter (fun p => p.1 == t)).length) * posBytes t)
  let s := s.modCap i fun c => { c with state := 4, bytes := real, sealTime := s.dev }
  if !bit (s.p K.sillRearmMask) i then s.captureEvent i 2 s.dev 1
  else
    let c := s.capSlot i
    match (idxWhere (fun x => x.state == 0) s.cap.slots).head? with
    | some j =>
      let moved := s.modCap j fun _ => c
      let free := moved.modCap i fun _ => {}
      let r := free.armCheck i c.preMs c.reqPostMs c.tiers c.firstCh c.reqCount
      if r.1 == .ok then
        let dead := s.dev16 s.now - c.windowEnd
        let s := free.modCap j fun x => { x with deadTime := dead }
        let s := s.modCap i fun _ => s.armed c.sources c.zone c.preMs c.reqPostMs c.tiers c.firstCh c.reqCount r.2
        s.captureEvent j 2 s.dev 1
      else
        ((s.modCap i fun x => { x with deadTime := 2 ^ 64 - 1, flags := setBit x.flags 7 true }).captureEvent i 2 s.dev
          1).captureEvent i 6 s.dev 3
    | none =>
      ((s.modCap i fun x => { x with deadTime := 2 ^ 64 - 1, flags := setBit x.flags 7 true }).captureEvent i 2 s.dev
        1).captureEvent i 6 s.dev 3

end Sys2Proof.Machine
end

