-- ==== Sys2Proof/Machine/Events.lean ====
section
/-!
DEFINITION. Records of zones: the twin link's reliable frames (R387 to R391), darkness and capabilities (R392), owner and
shadow (R393 to R395), and the making of a zone record (R275 to R277).
-/
namespace Sys2Proof.Machine

/-! The twin link. -/

/-- Digest entry of a zone: [0] defined, [1] OWNER, [7:2] ENABLE [5:0] (R387). -/
def Zone.digest (z : Zone) : Nat :=
  match z.desc with
  | some d => 1 + 2 * d.owner + 4 * (d.enable % 64)
  | none => 0

/-- Payload of a reliable frame (R387). -/
def LinkMsg.payload : LinkMsg → List Byte
  | .confirm recs => recs.flatMap EventRec.bytes
  | .seqTable f ns => leBytes 2 f ++ leBytes 2 ns.length ++ ns.flatMap (leBytes 4)
  | .digest f es => leBytes 2 f ++ leBytes 2 es.length ++ es.flatMap (leBytes 1)
  | .handback z n => leBytes 2 z ++ leBytes 2 0 ++ leBytes 4 n
  | .handbackAck z => leBytes 2 z ++ leBytes 2 0
  | .rejoinDone => []

/-- TYPE of a reliable frame (R387). -/
def LinkMsg.type : LinkMsg → Nat
  | .confirm _ => 2
  | .seqTable _ _ => 3
  | .digest _ _ => 4
  | .handback _ _ => 5
  | .handbackAck _ => 6
  | .rejoinDone => 8

/-- A whole link frame: header, payload, CRC-32C (R387). -/
def State.linkFrame (s : State) (typ : Nat) (resync : Bool) (lseq : Nat) (payload : List Byte) : List Byte :=
  let body := leBytes 1 typ ++ leBytes 1 (s.twinId + 2 * b2n resync) ++ leBytes 2 lseq ++ leBytes 2 s.twin.accepted ++
    leBytes 2 payload.length ++ leBytes 8 s.dev ++ payload
  body ++ leBytes 4 (crc32c body)

/-- A frame leaves on the twin lane: path 3 of the wire, and event 0x0701 of instance 3. -/
def State.linkWire (s : State) (bytes : List Byte) : State :=
  (s.modAtom fun a => { a with wire := some (3, bytes) }).perfEvent 0x0701 3 0xFF 1

/-- Send the oldest waiting reliable frames while fewer than 64 are unacknowledged (R388, R389). n bounds them. -/
def State.linkDrain (s : State) : Nat → State
  | 0 => s
  | n + 1 =>
    match s.twin.sendQ with
    | [] => s
    | m :: rest =>
      if s.twin.unacked.length < 64 then
        let o : LinkOut := { lseq := s.twin.lseq, resync := s.twin.resyncNext, msg := m, sentAt := s.now, resends := 0 }
        let s1 := s.modTwin fun w =>
          { w with unacked := w.unacked ++ [o], lseq := (w.lseq + 1) % 65536, resyncNext := false, sendQ := rest }
        (s1.linkWire (s.linkFrame m.type o.resync o.lseq m.payload)).linkDrain n
      else s

/-- A reliable frame is due (R388, R389). -/
def State.linkSend (s : State) (m : LinkMsg) : State :=
  if s.twin.sendQ.length < 256 then (s.modTwin fun w => { w with sendQ := w.sendQ ++ [m] }).linkDrain 1
  else (s.modTwin fun w => { w with resyncNext := true }).bump K.twinSendDropped

/-- A record for CONFIRM: packed into the newest waiting CONFIRM frame, up to 32 records, else a frame of its own
(R389). -/
def State.linkConfirm (s : State) (r : EventRec) : State :=
  match s.twin.sendQ.reverse with
  | .confirm recs :: older =>
    if recs.length < 32 then s.modTwin fun w => { w with sendQ := older.reverse ++ [.confirm (recs ++ [r])] }
    else s.linkSend (.confirm [r])
  | _ => s.linkSend (.confirm [r])

/-- Zone numbers in runs of at most 1,024 (R387). -/
def zoneRuns : List (Nat × Nat) := [(0, 1024), (1024, 1024), (2048, 1024), (3072, 1024)]

/-- SEQ_TABLE and DIGEST for every zone (R388, R400). -/
def State.sendTables (s : State) : State :=
  zoneRuns.foldl (fun s r =>
    let zs := (List.range r.2).map (· + r.1)
    (s.linkSend (.digest r.1 (zs.map fun z => (s.zone z).digest))).linkSend
      (.seqTable r.1 (zs.map fun z => (s.zone z).nextSeq))) s

/-! Capabilities and darkness (R392). -/

/-- Capability A: shots launch. -/
def State.capA (s : State) : Bool := s.run.state == 1

/-- Capability T: frames with Raman measuring and coil available, the newest at most 2 s old. -/
def State.capT (s : State) : Bool :=
  s.therm.frameFlags % 4 == 3 &&
    (match s.therm.frameAt with
     | some t => s.now - t ≤ secT 2
     | none => false)

/-- A condition of darkness holds for a zone now. -/
def State.darkCond (s : State) (d : ZoneDesc) : Bool :=
  let needA := bit d.enable 0 || bit d.enable 4 || bit d.enable 5
  let needT := bit d.enable 1 || bit d.enable 2 || bit d.enable 3
  (needA && !s.capA) || (needT && !s.capT) || s.twin.leaving || s.twin.forceDark ||
    (match s.prof.breakBin with
     | some b => b ≤ (PS.zoneBins s.running d).2
     | none => false)

/-- Look at every zone's darkness at this instant: a zone becomes dark at once, and the last instant at which a
condition held is kept. -/
def State.refreshDark (s : State) : State :=
  { s with zones := s.zones.map fun e =>
      match e.2.desc with
      | some d => if s.darkCond d then (e.1, { e.2 with dark := true, darkAt := s.now }) else e
      | none => e }

/-- A zone is dark on this device. -/
def State.isDark (s : State) (z : Nat) : Bool :=
  match (s.zone z).desc with
  | some d => s.darkCond d || (s.zone z).dark
  | none => true

/-! Pairing (R387). -/

/-- The peer's digest entry agrees with this device's on OWNER and ENABLE, and both define the zone. -/
def State.digestAgrees (s : State) (z : Nat) : Bool :=
  let own := (s.zone z).digest
  own % 2 == 1 && aget 0 s.twin.peerDigest z == own

/-- Detail of ZONE_UNPAIRED (R404): [0] peer does not define; [1] OWNER differs; [2] ENABLE differs; [3] not PAIRED. -/
def State.unpairDetail (s : State) (z : Nat) : Nat :=
  let own := (s.zone z).digest
  let peer := aget 0 s.twin.peerDigest z
  if s.twin.link != 3 then 8
  else if peer % 2 == 0 then 1
  else 2 * b2n (own / 2 % 2 != peer / 2 % 2) + 4 * b2n (own / 4 != peer / 4)

/-- This device is the configured owner of a zone. -/
def State.ownsZone (s : State) (z : Nat) : Bool :=
  match (s.zone z).desc with
  | some d => d.owner == s.twinId
  | none => false

/-- This device acts as the zone's owner (R387, R393, R396): of every unpaired zone, of a paired zone it owns and has not
lost, and of one it has taken over; of none whose promotion is still to complete. -/
def State.actsFor (s : State) (z : Nat) : Bool :=
  let x := s.zone z
  if !s.pB K.twinEnable then true
  else if x.lossAt.isSome then false
  else if !x.paired then true
  else if s.ownsZone z then !x.given
  else x.taken

/-- A record of the zone is held, not sent: the other device acts, or rejoin holds it (R393, R400 step 2). -/
def State.holdsZone (s : State) (z : Nat) : Bool :=
  !s.actsFor z || (s.twin.link == 2 && s.twin.seqSent && s.digestAgrees z)

/-! Matching (R395). -/

/-- The match key: the record's cause, or the whole of VALUE_A for CLASS. -/
def matchKey (r : EventRec) : Nat :=
  if r.kind == 8 then r.valA
  else if 2 ≤ r.kind && r.kind ≤ 4 then r.valB / 2 ^ 24
  else r.valA / 2 ^ 24

/-- A held and a confirmed record match. -/
def State.matches (s : State) (h c : EventRec) : Bool :=
  h.zone == c.zone && h.kind == c.kind && matchKey h == matchKey c &&
    (h.time - c.time) + (c.time - h.time) ≤ s.p K.twinHoldMs * 1000000

/-- A confirmed record is still kept: for TWIN.HOLD_MS after it arrived (R394). -/
def State.keepsStill (s : State) (k : HeldRec) : Bool := s.now < k.since + msT (s.p K.twinHoldMs)

/-- The first element f accepts, and the list without it. -/
def takeFirst {α : Type} (f : α → Bool) : List α → Option (α × List α)
  | [] => none
  | x :: xs =>
    if f x then some (x, xs)
    else match takeFirst f xs with
      | some (y, ys) => some (y, x :: ys)
      | none => none

/-- Change the first element f accepts. -/
def markFirst {α : Type} (f : α → Bool) (g : α → α) : List α → List α
  | [] => []
  | x :: xs => if f x then g x :: xs else x :: markFirst f g xs

/-! Making a zone record. -/

/-- Send a record of a zone under the zone's next sequence (R276), and confirm it where this device acts for a paired
zone (R393). -/
def State.sendZone (s : State) (r : EventRec) (confirm : Bool) : State :=
  let z := r.zone
  let r := { r with seq := (s.zone z).nextSeq }
  let s1 := s.modZone z fun x =>
    { x with nextSeq := (x.nextSeq + 1) % 2 ^ 32, records := x.records.add32 1, lastTime := r.time }
  let s2 := s1.deliver r
  if confirm && s.pB K.twinEnable && (s.zone z).paired && s.twin.link == 3 && 1 ≤ r.kind && r.kind ≤ 8 then
    s2.linkConfirm r
  else s2

/-- A record of kind 0x01 to 0x08, or a zone's TWIN record, is made (R274 to R276, R387, R393, R399). -/
def State.zoneRecord (s : State) (z kind sev valA valB firstCh time : Nat) : State :=
  let split := s.pB K.twinEnable && (!(s.zone z).paired || s.twin.link != 3)
  let base : EventRec := { time := time, seq := 0, zone := z, kind := kind, flags := recFlags s.twinId split false false sev,
                           valA := valA % 2 ^ 32, valB := valB % 2 ^ 32, firstCh := firstCh % 2 ^ 32 }
  let s := if 1 ≤ kind && kind ≤ 6 then s.bump K.zoneRecords else s
  if kind ≤ 8 && s.holdsZone z then
    let r := { base with flags := recFlags s.twinId false false false sev }
    let s := s.zoneTrigger r true
    match s.twin.kept.find? (fun k => !k.matched && s.keepsStill k && s.matches r k.record) with
    | some k =>
      ((s.modTwin fun w =>
        { w with kept := markFirst (fun x => x == k) (fun x => { x with matched := true }) w.kept }).trigSeqKnown r
          k.record.seq).bump K.twinMatched
    | none => s.modTwin fun w => { w with held := w.held ++ [{ record := r, since := s.now, matched := false }] }
  else
    (s.sendZone base true).zoneTrigger { base with seq := (s.zone z).nextSeq } false

/-- A zone's TWIN record of a change of pairing (R387, R404). Both carry SPLIT. -/
def State.pairRecord (s : State) (z cause det sev : Nat) : State :=
  let fc := match (s.zone z).desc with | some d => d.first | none => 0
  s.sendZone { time := s.dev, seq := 0, zone := z, kind := 0x0B, flags := recFlags s.twinId true false false sev,
               valA := cause, valB := det, firstCh := fc } false

/-- The zone will be paired: ZONE_PAIRED, its last unpaired record. -/
def State.tellPaired (s : State) (z : Nat) : State :=
  if (s.zone z).told then s else (s.pairRecord z 8 0 1).modZone z fun x => { x with told := true }

/-- Re-evaluate the pairing of a zone (R387). A zone that becomes paired on a PAIRED link gives its next sequence
(R400, assumption 9). A zone whose promotion is still to complete waits for it. -/
def State.repair (s : State) (z : Nat) : State :=
  let x := s.zone z
  let agrees := s.digestAgrees z
  if x.desc.isNone then
    s.modZone z fun x => { x with paired := false, told := false, taken := false, given := false, lossAt := none, handing := false }
  else if s.pB K.twinEnable && s.twin.link == 3 && agrees then
    if x.paired then s
    else
      let s := (s.tellPaired z).modZone z fun x => { x with paired := true, lossAt := none }
      s.linkSend (.seqTable z [(s.zone z).nextSeq])
  else if s.twin.link == 2 && agrees && (x.lossAt.isSome || !x.paired) then s
  else if x.lossAt.isSome && s.twin.link != 3 && s.pB K.twinEnable then s
  else
    let t := x.told || x.paired
    let s := s.modZone z fun x => { x with paired := false, told := false, taken := false, given := false, lossAt := none, handing := false }
    if t then s.pairRecord z 7 (s.unpairDetail z) 3 else s

end Sys2Proof.Machine
end

