-- ==== Sys2Proof/Machine/Watch.lean ====
section
/-!
DEFINITION. Zone watchers (chapter 11): the state machine of a criterion, the evaluations of acoustic bands,
temperatures, fibre break and loss step, and suspension at the end of a run.
-/
namespace Sys2Proof.Machine

def State.crit (s : State) (z i : Nat) : Crit := nth {} (s.zone z).crits i

/-- Six criteria, as many as ENABLE has bits. -/
def critsOf (cs : List Crit) : List Crit := (List.range 6).map (fun i => nth {} cs i)

def State.modCrit (s : State) (z i : Nat) (f : Crit → Crit) : State :=
  s.modZone z fun x => { x with crits := modAt f (critsOf x.crits) i }

/-- Raise the record of criterion i with a cause from its last evaluation (R275). -/
def State.critRecord (s : State) (z i cause sev : Nat) : State :=
  let c := s.crit z i
  if 1 ≤ i && i ≤ 3 then s.zoneRecord z (i + 1) sev c.valA (c.valB % 2 ^ 24 + cause * 2 ^ 24) c.firstCh c.time
  else s.zoneRecord z (i + 1) sev (c.valA % 2 ^ 24 + cause * 2 ^ 24) c.valB c.firstCh c.time

/-- HOLDOFF has run its time (R261). -/
def State.holdoffOver (s : State) (d : ZoneDesc) (c : Crit) : Bool :=
  c.st == .holdoff && c.since + msT (10 * d.holdoff) ≤ s.now

/-- One evaluation of criterion i of zone z, not absent (R261): its fields are kept, and the machine moves. -/
def State.critEval (s : State) (z i : Nat) (d : ZoneDesc) (raise clear : Bool) (assertN clearN : Nat)
    (time valA valB firstCh : Nat) : State :=
  let s := s.modCrit z i fun c =>
    let c := if s.holdoffOver d c then { c with st := .idle, cnt := 0 } else c
    { c with time := time, valA := valA, valB := valB, firstCh := firstCh }
  let c := s.crit z i
  let sev := d.severity / 16 ^ i % 16
  match c.st with
  | .idle =>
    if raise then
      if assertN ≤ 1 then (s.modCrit z i fun c => { c with st := .active, cnt := 0 }).critRecord z i 1 sev
      else s.modCrit z i fun c => { c with st := .pending, cnt := 1 }
    else s
  | .pending =>
    if raise then
      if assertN ≤ c.cnt + 1 then (s.modCrit z i fun c => { c with st := .active, cnt := 0 }).critRecord z i 1 sev
      else s.modCrit z i fun c => { c with cnt := c.cnt + 1 }
    else s.modCrit z i fun c => { c with st := .idle, cnt := 0 }
  | .active =>
    if clear then
      if clearN ≤ c.cnt + 1 then
        (s.modCrit z i fun c =>
          { c with st := if d.holdoff == 0 then .idle else .holdoff, cnt := 0, since := s.now }).critRecord z i 2 1
      else s.modCrit z i fun c => { c with cnt := c.cnt + 1 }
    else s.modCrit z i fun c => { c with cnt := 0 }
  | .holdoff => s

/-- An absent evaluation (R262). -/
def State.absentEval (s : State) (z : Nat) : State :=
  (s.modZone z fun x => { x with absent := x.absent.add32 1 }).bump K.zoneAbsentEvals

/-! Acoustic bands (R264, R265). -/

/-- Set of the column groups that holds the first bin of a channel. -/
def PS.chanSetHead (ps : PSet) (c : Nat) : Nat := setHead ps (chanBin ps c / 64)

/-- The base interval of a set: CHAN.BASE_TILES tiles. -/
def State.baseInterval (s : State) (h : Nat) : Tick := s.p K.chanBaseTiles * s.tileT h

/-- Newest reductions of the set of a channel, unless its interval ended more than two of its set's intervals before the instant at_
(R264). -/
def State.newestFor (s : State) (c : Nat) (at_ : Tick) : Option (Nat × Tick × List Reduction) :=
  let h := PS.chanSetHead s.running c
  match s.sill.newest.find? (fun e => e.1 == h) with
  | some e => if at_ - e.2.2.1 ≤ 2 * s.baseInterval h then some e.2 else none
  | none => none

/-- End of the newest interval of a set. -/
def State.newestEnd (s : State) (h : Nat) : Tick :=
  match s.sill.newest.find? (fun e => e.1 == h) with
  | some e => e.2.2.1
  | none => s.now

/-- Watched band values of one channel, at the end of the interval that is evaluated. -/
def State.bandVals (s : State) (d : ZoneDesc) (c : Nat) : List Reduction :=
  match s.newestFor c (s.newestEnd (PS.chanSetHead s.running d.first)) with
  | some e => e.2.2.filter (fun r => r.channel == c && r.kind ≤ 7 && bit d.bandMask r.kind)
  | none => []

/-- Evaluate ACOUSTIC_BAND of a zone at interval time t. -/
def State.acousticEval (s : State) (z : Nat) (d : ZoneDesc) (t : Nat) : State :=
  let chans := (List.range (d.last + 1 - d.first)).map (· + d.first)
  let vals := chans.map (fun c => (c, s.bandVals d c))
  let all := vals.flatMap (·.2)
  if all.isEmpty then s.absentEval z
  else
    let qual (x : Int) : Nat := (vals.filter (fun e => e.2.any (fun r => x ≤ (r.value : Int)))).length
    let at0 := qual d.acLevel
    let low := qual ((d.acLevel : Int) - d.acHyst)
    let best := all.foldl (fun (b : Option Reduction) r =>
      match b with
      | none => some r
      | some q => if q.value < r.value then some r else some q) none
    let bands := (List.range 8).foldl
      (fun m k => m + (if all.any (fun r => r.kind == k && d.acLevel ≤ r.value) then 2 ^ k else 0)) 0
    -- PREDICTED, SATURATED and CONSENSUS are those of the channels counted in VALUE_A (R275)
    let counted := vals.filter (fun e => e.2.any (fun r => d.acLevel ≤ r.value))
    let seen := counted.flatMap (·.2)
    let cons := counted.any (fun e => s.inCons (PS.chanBin s.running e.1 / 64))
    let b := match best with | some r => (r.value, r.kind, r.channel) | none => (0, 0, d.first)
    let valA := bands + 256 * min at0 65535
    let valB := b.1 + 2 ^ 16 * b.2.1 + 2 ^ 24 * b2n (seen.any (·.predicted)) + 2 ^ 25 * b2n (seen.any (·.saturated)) +
      2 ^ 26 * b2n cons
    (s.modZone z fun x => { x with acCount := at0 }).critEval z 0 d (d.acMin ≤ at0) (low < d.acMin) d.acAssert d.acClear
      t valA valB b.2.2

/-- Every zone whose FIRST_CHANNEL lies in the set is evaluated when the set completes an interval (R264). -/
def State.acousticSet (s : State) (h t : Nat) : State :=
  s.definedZones.foldl (fun s z =>
    match (s.zone z).desc with
    | some d =>
      if bit d.enable 0 && PS.chanSetHead s.running d.first == h then s.acousticEval z d t else s
    | none => s) s

/-! Temperatures (R266 to R268). -/

def State.section (s : State) (i : Nat) : Section := aget {} s.therm.sections i

/-- TEMP of a section, 0.1 mK: its state rounded to nearest (R204). -/
def Section.temp (x : Section) : Option Int :=
  if bit x.flags 5 then none else x.state.map (fun v => rdivAway v 65536)

/-- Sections of a zone, with their temperatures and rates (R266). -/
def State.zoneSections (s : State) (d : ZoneDesc) : List (Nat × Int × Int) :=
  s.therm.sections.filterMap fun e =>
    match Section.temp e.2, PS.sectionChan s.running e.1 with
    | some t, some c => if d.first ≤ c && c ≤ d.last then some (e.1, t, e.2.rate) else none
    | _, _ => none

/-- The element with the largest quantity, the lowest section on a tie (R267). -/
def deciding (xs : List (Nat × Int)) : Option (Nat × Int) :=
  xs.foldl (fun b e =>
    match b with
    | none => some e
    | some q => if q.2 < e.2 then some e else some q) none

/-- One temperature criterion: quantities q per section, each n times its value, level and clear level (R267). -/
def State.tempCrit (s : State) (z i : Nat) (d : ZoneDesc) (n : Nat) (q : List (Nat × Int)) (level low : Int) (time : Nat) :
    State :=
  if !bit d.enable i then s
  else
    let hits := (q.filter (fun e => n * level ≤ e.2)).length
    let lows := (q.filter (fun e => n * low ≤ e.2)).length
    match deciding q with
    | none => s.absentEval z
    | some e =>
      let ch := match PS.sectionChan s.running e.1 with | some c => c | none => d.first
      s.critEval z i d (d.tMin ≤ hits) (lows < d.tMin) d.tAssert d.tClear time (uns 32 (rdivAway e.2 n))
        (min hits 65535 + 2 ^ 16 * ((s.section e.1).flags % 256)) ch

/-- Evaluate the temperature criteria of a zone on the newest frame. The differences from the mean are compared exactly;
T_MEAN and a record's T − T_mean are each rounded to the nearest 0.1 mK. -/
def State.tempEval (s : State) (z : Nat) (d : ZoneDesc) (time : Nat) : State :=
  let xs := s.zoneSections d
  if xs.isEmpty then
    [1, 2, 3].foldl (fun s i => if bit d.enable i then s.absentEval z else s) s
  else
    let n := xs.length
    let sum := (xs.map (·.2.1)).sum
    let ts := xs.map (fun e => (e.1, e.2.1))
    let rs := xs.map (fun e => (e.1, e.2.2))
    let ds := xs.map (fun e => (e.1, n * e.2.1 - sum))
    let s := s.modZone z fun x =>
      { x with tMax := (deciding ts).map (·.2), riseMax := (deciding rs).map (·.2), diffMax := (deciding ds).map (fun e => rdivAway e.2 n),
               tMean := some (rdivAway sum n) }
    let s := s.tempCrit z 1 d 1 ts d.tAbs (d.tAbs - 10 * d.tHyst) time
    let s := s.tempCrit z 2 d 1 rs d.tRise (d.tRise - d.tHyst) time
    s.tempCrit z 3 d n ds d.tDiff (d.tDiff - 10 * d.tHyst) time

/-- Evaluate the temperature criteria of every zone. -/
def State.tempAll (s : State) (time : Nat) : State :=
  s.definedZones.foldl (fun s z =>
    match (s.zone z).desc with
    | some d => s.tempEval z d time
    | none => s) s

/-! Fibre break (R269, R270). -/

/-- e of R269. -/
def State.profEnd (s : State) : Nat :=
  (if s.p K.zoneFibreEndBin == 0 then s.p K.pceBins else s.p K.zoneFibreEndBin) / 64

/-- The highest live point below e, and the break bin if a break exists (R270). -/
def State.breakOf (s : State) (p : List Nat) : Option Nat × Option Nat :=
  let e := s.profEnd
  let live := (List.range e).filter (fun j => s.p K.zoneBreakFloor ≤ nth 0 p j)
  let jl := live.getLast?
  let next := match jl with | some j => j + 1 | none => 0
  (jl, if next < e then some (64 * next) else none)

/-- The channel that holds a bin, or 0xFFFF_FFFF (R275). -/
def State.binChanOr (s : State) (b : Nat) : Nat :=
  match PS.binChan s.running b with
  | some c => c
  | none => 0xFFFFFFFF

/-- A device-level FIBRE_BREAK record (R270, R275). -/
def State.breakRecord (s : State) (bin cause sev pjl time : Nat) : State :=
  (s.deviceRecordAt time 5 sev (pjl % 65536 + cause * 2 ^ 24) bin (s.binChanOr bin)).bump K.zoneRecords

/-- The debounce of R270 on one profile. -/
def State.breakStep (s : State) (time : Nat) (p : List Nat) : State :=
  let r := s.breakOf p
  let pjl := match r.1 with | some j => nth 0 p j | none => 0
  let n := s.p K.zoneBreakGroups
  let s := s.modProf fun x => { x with pjl := pjl }
  match s.prof.breakBin, r.2 with
  | some old, some new =>
    if old == new then s.modProf fun x => { x with clearCnt := 0 }
    else
      let s := s.breakRecord old 2 1 pjl time
      (s.modProf fun x => { x with breakBin := some new, cand := none, candCnt := 0, clearCnt := 0 }).breakRecord new 1 15
        pjl time
  | some old, none =>
    let cnt := s.prof.clearCnt + 1
    if n ≤ cnt then
      (s.modProf fun x => { x with breakBin := none, clearCnt := 0, cand := none, candCnt := 0 }).breakRecord old 2 1 pjl time
    else s.modProf fun x => { x with clearCnt := cnt }
  | none, some new =>
    let cnt := s.prof.candCnt + 1
    if n ≤ cnt then
      (s.modProf fun x => { x with breakBin := some new, cand := none, candCnt := 0, clearCnt := 0 }).breakRecord new 1 15
        pjl time
    else s.modProf fun x => { x with cand := some new, candCnt := cnt }
  | none, none => s.modProf fun x => { x with cand := none, candCnt := 0 }

/-- FIBRE_BREAK of every zone on the device-level break (R270); oldBin is the break bin before this profile. -/
def State.breakZones (s : State) (oldBin : Option Nat) (time : Nat) : State :=
  s.definedZones.foldl (fun s z =>
    match (s.zone z).desc with
    | some d =>
      if !bit d.enable 4 then s
      else
        let b := PS.zoneBins s.running d
        let hit := match s.prof.breakBin with
          | some x => b.1 ≤ x && x ≤ b.2
          | none => false
        let bin := match s.prof.breakBin, oldBin with
          | some x, _ => x
          | none, some x => x
          | none, none => 0xFFFFFFFF
        s.critEval z 4 d hit (!hit) 1 1 time (s.prof.pjl % 65536) bin (s.binChanOr bin)
    | none => s) s

/-! Loss step (R271). -/

/-- Step s(j) in 1/256 dB from references and means in 2^-20 of that unit, rounded toward zero. -/
def lossStep (ref m : List Int) (j : Nat) : Int :=
  Int.tdiv ((nth 0 ref (j + 1) - nth 0 m (j + 1)) - (nth 0 ref (j - 1) - nth 0 m (j - 1))) (2 * 2 ^ 20)

/-- LOSS_STEP of every zone on an evaluation. -/
def State.lossZones (s : State) (ref m : List Int) (time : Nat) : State :=
  let e := s.profEnd
  s.definedZones.foldl (fun s z =>
    match (s.zone z).desc with
    | some d =>
      if !bit d.enable 5 then s
      else
        let b := PS.zoneBins s.running d
        let js := (List.range e).filter (fun j => 1 ≤ j && j + 1 < e && 64 * j ≤ b.2 && b.1 ≤ 64 * j + 63)
        match deciding (js.map (fun j => (j, lossStep ref m j))) with
        | none => s.absentEval z
        | some best =>
          let s := s.modZone z fun x => { x with lossMax := satU 16 best.2 }
          let ch := match PS.binChan s.running (64 * best.1) with | some c => c | none => d.first
          s.critEval z 5 d ((d.loss : Int) ≤ best.2) (4 * best.2 < 3 * (d.loss : Int)) 2 2 time (uns 16 best.2) (64 * best.1) ch
    | none => s) s

/-- Take one profile into the loss evaluation; after 2^a of them, evaluate. -/
def State.lossTake (s : State) (time : Nat) (p : List Nat) : State :=
  let a := s.p K.zoneLossAvgLog2
  let sum := (p.zipIdx).map (fun e => e.1 + nth 0 s.prof.lossSum e.2)
  if s.prof.lossCnt + 1 < 2 ^ a then
    s.modProf fun x => { x with lossCnt := x.lossCnt + 1, lossSum := sum }
  else
    let m : List Int := sum.map (fun v => ((v * 2 ^ (20 - a) : Nat) : Int))
    let ref := if s.prof.lossRef.isEmpty then m
      else (m.zipIdx).map (fun e =>
        let r := nth e.1 s.prof.lossRef e.2
        r + (e.1 - r) / (2 ^ s.p K.zoneLossRefLog2 : Int))
    (s.modProf fun x => { x with lossCnt := 0, lossSum := [], lossRef := ref }).lossZones ref m time

/-- A complete profile decides break and loss (R269 to R272). -/
def State.profileDone (s : State) (time : Nat) (p : List Nat) : State :=
  let old := s.prof.breakBin
  let s := s.refreshDark.modProf fun x => { x with p := p, time := time }
  (((s.breakStep time p).breakZones old time).lossTake time p).refreshDark

/-! Suspension (R273). -/

/-- A criterion leaves its state with a record of this cause if it was ACTIVE. -/
def State.critDrop (s : State) (z i cause : Nat) : State :=
  let act := (s.crit z i).st == .active
  let s := s.modCrit z i fun c => { c with st := .idle, cnt := 0 }
  if act then s.critRecord z i cause 1 else s

/-- The end of a run suspends the criteria that need shots, and the device-level break. -/
def State.suspendAll (s : State) : State :=
  let s := s.definedZones.foldl (fun s z => [0, 4, 5].foldl (fun s i => s.critDrop z i 4) s) s
  match s.prof.breakBin with
  | some b =>
    (s.modProf fun x => { x with breakBin := none, cand := none, candCnt := 0, clearCnt := 0 }).breakRecord b 4 1 s.prof.pjl
      s.prof.time
  | none => s.modProf fun x => { x with cand := none, candCnt := 0, clearCnt := 0 }

end Sys2Proof.Machine
end

