-- ==== Sys2Proof/Machine/Emit.lean ====
section
/-!
DEFINITION. Emitter drive (chapter 04): which channels are lit, ramps and their order, the power loop, derating, the
wavelength loop, identity records, and the commands of the drive.
-/
namespace Sys2Proof.Machine

/-! Records and conditions. -/

/-- A record is VALID. -/
def State.modValid (s : State) (pos : Nat) : Bool := (s.modl pos).state == 2

/-- A field of a cached record. -/
def State.recF (s : State) (pos off len : Nat) : Nat := fld (s.modl pos).cache off len

/-- Positions of the records a channel needs (R101). -/
def chanNeeds (c : Nat) : List Nat := if c < 4 then [0, 1, 2] else if c == 4 then [3] else []

def State.chanValid (s : State) (c : Nat) : Bool := (chanNeeds c).all s.modValid

/-- The power mode lets the channel be lit (R116). -/
def State.modeLights (s : State) (c : Nat) : Bool := if c == 4 then s.clk.mode ≥ 2 else s.clk.mode ≥ 3

/-- The channel may not carry current: R102's conditions other than the enable bit, and R111. -/
def State.forcedDark (s : State) (c : Nat) : Bool :=
  s.ilk.latched || !s.chanValid c || !s.modeLights c || ((c == 2 || c == 3) && s.emit.pumpFailed)

def State.enabled (s : State) (c : Nat) : Bool := bit (s.p K.emitEnable) c

/-- The channel is lit (R102). -/
def State.lit (s : State) (c : Nat) : Bool := s.enabled c && !s.forcedDark c

/-- Maximum current in µA of a channel's record, where it has one that is VALID (R103). -/
def State.maxUa (s : State) (c : Nat) : Option Nat :=
  let at_ (pos off : Nat) : Option Nat := if s.modValid pos then some (s.recF pos off 2) else none
  match c with
  | 0 => at_ 0 36
  | 1 => at_ 1 32
  | 2 => at_ 1 34
  | 3 => at_ 1 36
  | 4 => at_ 3 32
  | _ => none

/-- Maximum code of a channel (R103); 65,535 without a VALID record. -/
def State.maxCode (s : State) (c : Nat) : Nat :=
  match s.maxUa c with
  | some ua => ua * 65535 / 2500
  | none => 65535

def State.setpoint (s : State) (c : Nat) : Nat := s.p (K.emitSetpoint + c)

/-! Events. -/

/-- Severity of an EMITTER cause (R121). -/
def emitterSev (cause : Nat) : Nat :=
  match cause with
  | 1 => 12
  | 2 | 3 | 11 => 8
  | 5 | 7 => 4
  | 8 | 9 => 6
  | _ => 1

/-- An EMITTER record (R121). -/
def State.emitterAt (s : State) (time cause ch cls det : Nat) : State :=
  s.deviceRecordAt time 0x0A (emitterSev cause) (cause + 256 * ch + 65536 * cls) det 0

def State.emitter (s : State) (cause ch cls det : Nat) : State := s.emitterAt s.dev cause ch cls det

/-! Derating (R109). -/

/-- Tk, 0.1 mK. -/
def State.knee (s : State) : Int :=
  let own := s.pI K.emitKneeC
  if s.modValid 1 then min own (sext 32 (s.recF 1 44 4)) else own

/-- The cap that derating puts on a base code, at the last pump temperature. -/
def State.derated (s : State) (base : Nat) : Nat :=
  match s.emit.pumpTemp with
  | some t =>
    let above := (t - s.knee).toNat
    rdiv (base * (100000000 - s.p K.emitDeratePctPerK * above)) 100000000
  | none => base

/-- Derating applies now. -/
def State.deratingNow (s : State) : Bool :=
  match s.emit.pumpTemp with
  | some t => s.knee < t
  | none => false

/-- Cap of a channel over a base code: derating on the pumps, none elsewhere. -/
def State.capCode (s : State) (c base : Nat) : Nat := if c == 2 || c == 3 then s.derated base else base

/-! Ramps (R104 to R106). -/

/-- Linear value of a ramp at instant t, to nearest (R104). -/
def Ramp.at (r : Ramp) (t : Tick) : Nat :=
  if r.start + r.dur ≤ t then r.target
  else
    let el := t - r.start
    if r.fromCode ≤ r.target then r.fromCode + rdiv ((r.target - r.fromCode) * el) r.dur
    else rdiv (r.fromCode * r.dur - (r.fromCode - r.target) * el) r.dur

/-- c_set of R109: the ramp value of a channel that ramps, what one that waits holds, else the setpoint. -/
def State.capBase (s : State) (c : Nat) : Nat :=
  let x := s.ch c
  match x.ramp with
  | some r => r.at s.now
  | none => if x.waiting.isSome then x.hold else s.setpoint c

/-- EMIT.DERATE_CAP (R109). -/
def State.derateCap (s : State) : Nat :=
  if s.deratingNow then min (s.derated (s.capBase 2)) (s.derated (s.capBase 3)) else 0xFFFF

/-- A loop opens or freezes at now: what R108 times no longer holds. -/
def EmitCh.untimed (now : Tick) (x : EmitCh) : EmitCh :=
  { x with clampSince := none, lowSince := none, clampClear := some (x.clampClear.getD now),
           lostClear := some (x.lostClear.getD now) }

/-- Channel c's loop opens; the other pump's freezes with it (R107, R108). -/
def State.loopOpen (s : State) (c : Nat) : State :=
  let s1 := s.modCh c fun x => { x.untimed s.now with loopClosed := false, closeAt := none }
  if c == 2 || c == 3 then s1.modCh (5 - c) (EmitCh.untimed s.now) else s1

/-- A ramp starts from the code being driven (R104, R105). -/
def State.rampTo (s : State) (c target : Nat) : State :=
  let d := msT (s.p (K.emitRampMs + c))
  let s := (if c == 4 then s.ramanAbort else s).loopOpen c
  s.modCh c fun x =>
    { x with ramp := some { fromCode := x.code, target := target, start := s.now, dur := d }, waiting := none, waitOn := [] }

/-- Code 0 at once: ramp, loop and integrator are reset (R114). -/
def darkCh (now : Tick) (x : EmitCh) : EmitCh :=
  { x.untimed now with code := 0, ramp := none, waiting := none, waitOn := [], hold := 0, loopClosed := false, closeAt := none,
                       integ := 0, risen := false }

/-- A channel's ramp runs or waits. -/
def EmitCh.busy (x : EmitCh) : Bool := x.ramp.isSome || x.waiting.isSome

/-- Waiting ramps whose predecessors have ended start (R106). -/
def State.releaseRamps (s : State) : State :=
  (List.range 6).foldl (fun s c =>
    let x := s.ch c
    match x.waiting with
    | some target =>
      if x.waitOn.all (fun d => !(s.ch d).busy) then s.rampTo c (if target == 0 then 0 else s.setpoint c) else s
    | none => s) s

/-- The channels of cs go to code 0 at once; a ramp that waited for one of theirs starts (R106, R114). -/
def State.dark (s : State) (cs : List Nat) : State :=
  (cs.foldl (fun s c => s.modCh c (darkCh s.now)) (if cs.contains 4 then s.ramanAbort else s)).releaseRamps

/-- Channels that must end their ramps before c starts, on the way up and down (R106). -/
def orderUp (c : Nat) : List Nat := if c == 1 then [0] else if c == 2 || c == 3 then [0, 1] else []
def orderDown (c : Nat) : List Nat := if c == 1 then [2, 3] else if c == 0 then [1, 2, 3] else []

/-- The channels of cs ramp in the order of R106, to their setpoints or to 0. DESIGN CHOICE (log 113): a channel waits for those of its
predecessors that ramp in the same write, E2 and E3 for E0 where E1 does not, and one that ramped holds its code while it waits. -/
def State.rampSet (s : State) (cs : List Nat) (up : Bool) : State :=
  let put (s : State) (c : Nat) : State :=
    let preds := ((if up then orderUp c else orderDown c)).filter cs.contains
    (s.loopOpen c).modCh c fun x =>
      { x with ramp := if preds.isEmpty then x.ramp else none, waiting := some (if up then 1 else 0), waitOn := preds,
               hold := match x.ramp with | some r => r.at s.now | none => x.code }
  (cs.foldl put (if cs.contains 4 then s.ramanAbort else s)).releaseRamps

/-- Every channel that is enabled and may be lit, and has not risen, rises on its ramp (R98, R114, R116). -/
def State.riseAll (s : State) : State :=
  s.rampSet ((List.range 6).filter (fun c => s.lit c && !(s.ch c).risen && !(s.ch c).busy)) true

/-- A write of EMIT.ENABLE takes effect (R103 to R106): old is the mask before it. -/
def State.enableWrite (s : State) (old : Nat) : State :=
  let new := s.p K.emitEnable
  let up := (List.range 6).filter (fun c => bit new c && !bit old c && !s.forcedDark c)
  let down := (List.range 6).filter (fun c => bit old c && !bit new c && !s.forcedDark c &&
    ((s.ch c).code != 0 || (s.ch c).busy || (s.ch c).risen))
  -- a channel disabled while START waits no longer counts (R89): the wait for the others is judged from here on
  let s := if s.run.state == 3 && (List.range 4).any (fun c => bit old c && !bit new c) then
      s.modRun fun r => { r with rampsDone := some s.now } else s
  (s.rampSet down false).rampSet up true

/-- A write of EMIT.SETPOINTc takes effect (R104, R105): old is the setpoint before it. DESIGN CHOICE (log 113): during a ramp any write,
one of the present value too, is a new target. -/
def State.setpointWrite (s : State) (c old : Nat) : State :=
  let new := s.setpoint c
  let x := s.ch c
  if !s.lit c || x.waiting.isSome then s
  else if x.ramp.isSome then s.rampTo c new
  else if !x.risen then s
  else if s.p K.emitStepMax < (new - old) + (old - new) then s.rampTo c new
  else if x.loopClosed then s.modCh c fun x => { x with integ := new * 65536 }
  else s

/-- A write of EMIT.LOOP_MODE takes effect: a loop switched on closes 10 ms after the last ramp, one switched off
leaves its channel at the setpoint. -/
def State.loopModeWrite (s : State) (old : Nat) : State :=
  let new := s.p K.emitLoopMode
  (List.range 5).foldl (fun s c =>
    if bit new c && !bit old c then
      s.modCh c fun x =>
        { x with closeAt := if x.risen && x.ramp.isNone then some (max s.now (x.rampEndAt + msT 10)) else none }
    else if bit old c && !bit new c then s.loopOpen c
    else s) s

/-! Power loop (R107). -/

/-- The monitor photodiode of a channel. -/
def mpdOf (c : Nat) : Nat := if c == 4 then 3 else if c == 3 then 2 else c

/-- The target current of photodiode m in nA. -/
def State.mpdTarget (s : State) (m : Nat) : Nat :=
  let own := s.p (K.emitMpdTarget + m)
  if own != 0 then own
  else match m with
    | 0 => s.recF 0 40 4
    | 1 => s.recF 1 48 4
    | 2 => s.recF 1 52 4
    | _ => s.recF 3 36 4

/-- The most the loop may drive: the cap and the record maximum (R107). -/
def State.loopLimit (s : State) (c : Nat) : Nat :=
  if c == 2 || c == 3 then min (s.derated (s.setpoint c)) (s.maxCode c) else s.maxCode c

/-- An integrator after one step of R107: code × (1 + g × ln(target/measured)), in 1/65,536 code. -/
def loopNext (integ gain target measured : Nat) : Nat :=
  ((integ : Int) + rdivI ((integ * gain : Nat) * lnFx target measured) (2 ^ 64)).toNat

/-- The current the logarithmic front end reports: it covers 1 nA to 2 mA. -/
def mpdClamp (na : Nat) : Nat := min (max na 1) 2000000

/-- The channels that a photodiode's loop drives now: none while one of its channels ramps, waits or has its loop still to close
(R107: E2 and E3 share a loop). -/
def State.loopChans (s : State) (m : Nat) : List Nat :=
  let cs := (List.range 5).filter (fun c => mpdOf c == m)
  if cs.any (fun c => (s.ch c).busy || (s.lit c && !(s.ch c).loopClosed)) then [] else cs.filter s.lit

/-- The loop of photodiode m at a measured current (R107): one common factor, the smallest that keeps every channel it
drives at its limit. -/
def State.loopRun (s : State) (m measured : Nat) : State :=
  let cs := s.loopChans m
  let target := s.mpdTarget m
  let want (c : Nat) : Nat := loopNext (s.ch c).integ (s.p K.emitLoopGain) target measured
  let above := cs.filter (fun c => s.loopLimit c * 65536 ≤ want c)
  -- the channel that must be cut most: smallest limit / want
  let tight := above.foldl (fun b c =>
    match b with
    | none => some c
    | some d => if s.loopLimit c * want d < s.loopLimit d * want c then some c else some d) (none : Option Nat)
  cs.foldl (fun s c =>
    let w := want c
    let v := match tight with
      | some d => if want d == 0 then 0 else min (w * (s.loopLimit d * 65536) / want d) (s.loopLimit c * 65536)
      | none => w
    let at_ := tight == some c || v == s.loopLimit c * 65536
    let low := measured * 100 < target * (100 - s.p K.emitLoopTolPct)
    s.modCh c fun x =>
      -- a cause may be raised again once its condition has been clear for 1 s up to this step
      let still (r : Bool) (a : Option Tick) : Bool :=
        r && !(match a with | some a => decide (a + secT 1 ≤ s.now) | none => false)
      { x with integ := v,
               clampSince := if at_ then some (x.clampSince.getD s.now) else none,
               clampClear := if at_ then none else some (x.clampClear.getD s.now), clampRaised := still x.clampRaised x.clampClear,
               lowSince := if low then some (x.lowSince.getD s.now) else none,
               lostClear := if low then none else some (x.lostClear.getD s.now), lostRaised := still x.lostRaised x.lostClear }) s

/-- The code a channel drives at this update (R100, R102, R104, R107, R109). -/
def State.updateCode (s : State) (c : Nat) : State :=
  if s.forcedDark c then s.modCh c (darkCh s.now)
  else
    s.modCh c fun x =>
      match x.ramp with
      | some r => { x with code := s.capCode c (r.at s.now) }
      | none =>
        if x.waiting.isSome then { x with code := s.capCode c x.hold }
        else if !s.enabled c || !x.risen then { x with code := 0 }
        else if x.loopClosed then { x with code := min (rdiv x.integ 65536) (s.loopLimit c) }
        else { x with code := s.capCode c (s.setpoint c) }

/-- Pumps to 0 without a ramp, on a failed thermistor (R111). -/
def State.pumpFail (s : State) : State :=
  if s.emit.pumpFailed then s.modEmit fun e => { e with pumpGoodSince := none }
  else ((s.modEmit fun e => { e with pumpFailed := true, pumpGoodSince := none }).dark [2, 3]).emitter 11 0xFF 0 0

/-- A good pump thermistor conversion is taken (R109, R110, R111). -/
def State.pumpTake (s : State) (t : Int) : State :=
  let s := s.modEmit fun e =>
    { e with pumpTemp := some t, pumpGood := s.now,
             pumpGoodSince := match e.pumpGoodSince with
               | some a => if e.pumpGood + msT 100 < s.now then some s.now else some a
               | none => some s.now }
  if s.knee < t && !s.emit.derating then
    (s.modEmit fun e => { e with derating := true }).emitter 5 0xFF 0 s.derateCap
  else if t ≤ s.knee - 10000 && s.emit.derating then
    (s.modEmit fun e => { e with derating := false }).emitter 6 0xFF 0 0
  else s

/-- A good pump thermistor conversion arrives. Where the 100 ms of R111 ran out first, the thermistor has failed; in the very cycle of
that, the conversion is discarded and counted late (R482, R483). -/
def State.pumpReading (s : State) (t : Int) : State :=
  let due := s.emit.pumpGood + msT 100
  if s.emit.pumpFailed || s.now < due then s.pumpTake t
  else if s.thisCycle due then s.pumpFail.lateOnce
  else s.pumpFail.pumpTake t

/-- The wavelength loop's target ratio; 0: none (R112). -/
def State.wlTarget (s : State) : Nat :=
  let own := s.p K.emitWlTarget
  if own != 0 then own else if s.modValid 0 then s.recF 0 38 2 else 0

/-- The wavelength loop runs: MAINTAIN or FULL, EMIT.WL_MODE 1 and a target to compare with (R112, R113). -/
def State.wlRuns (s : State) : Bool := s.clk.mode ≥ 3 && s.p K.emitWlMode == 1 && s.wlTarget != 0

/-- Wavelength lock lost, or the loop stops (R112, R113; DEDUCED, log 115: it is no longer within tolerance of anything). -/
def State.wlDrop (s : State) : State :=
  let s1 := s.modEmit fun e => { e with wlSince := none, wlLocked := false }
  if s.emit.wlLocked then s1.emitter 9 0xFF 0 s.emit.wlRatio else s1

/-! Commands. -/

/-- The duty that TEC pair 1 drives, signed 1/65,536: EMIT.TEC1_DUTY in VIGIL, MAINTAIN and FULL, both outputs low in STANDBY and OFF
(R113). -/
def State.tec1 (s : State) : Int := if s.clk.mode ≥ 2 then s.pI K.emitTec1Duty else 0

/-- EMIT_UPDATE (R100). -/
def execEmitUpdate (t : Tick) (s : State) : Host.Outcome State Fault Refusal :=
  .next (((List.range 6).foldl State.updateCode (s.advance t)).releaseRamps)

/-- RAMP_END (R104, R106, R107). -/
def execRampEnd (t : Tick) (ch : Nat) (s : State) : Host.Outcome State Fault Refusal :=
  let s := s.advance t
  .next (match (s.ch ch).ramp with
    | some r =>
      if r.start + r.dur ≤ s.now then
        let up := s.enabled ch
        (s.modCh ch fun x =>
          { x with code := s.capCode ch r.target, ramp := none, risen := up, rampEndAt := r.start + r.dur,
                   closeAt := if up && bit (s.p K.emitLoopMode) ch then some (r.start + r.dur + msT 10)
                              else none }).releaseRamps
      else s
    | none => s)

/-- POWER_LOOP (R107, R108). -/
def execPowerLoop (t : Tick) (mpd : List Nat) (s : State) : Host.Outcome State Fault Refusal :=
  let s := (s.advance t).modEmit fun e => { e with mpd := (List.range 4).map (fun m => mpdClamp (nth 0 mpd m)) }
  .next ((List.range 4).foldl (fun s m => s.loopRun m (nth 0 s.emit.mpd m)) s)

/-- LOOP_CLOSE (R107). DESIGN CHOICE (log 114): the loop starts from the code being driven. -/
def execLoopClose (t : Tick) (ch : Nat) (s : State) : Host.Outcome State Fault Refusal :=
  let s := s.advance t
  let x := s.ch ch
  .next (match x.closeAt with
    | some a =>
      if a ≤ s.now && x.ramp.isNone && s.lit ch && bit (s.p K.emitLoopMode) ch then
        s.modCh ch fun x => { x with loopClosed := true, closeAt := none, integ := x.code * 65536 }
      else s
    | none => s)

/-- POWER_CLAMP (R108). -/
def execPowerClamp (t : Tick) (ch : Nat) (s : State) : Host.Outcome State Fault Refusal :=
  let s := s.advance t
  let x := s.ch ch
  .next (match x.clampSince with
    | some a =>
      if a + msT 100 ≤ s.now && !x.clampRaised && (s.loopChans (mpdOf ch)).contains ch then
        (s.modCh ch fun x => { x with clampRaised := true, clampClear := none }).emitter 7 ch 0 x.code
      else s
    | none => s)

/-- POWER_LOST (R108). -/
def execPowerLost (t : Tick) (ch : Nat) (s : State) : Host.Outcome State Fault Refusal :=
  let s := s.advance t
  let x := s.ch ch
  .next (match x.lowSince with
    | some a =>
      if a + msT 100 ≤ s.now && !x.lostRaised && (s.loopChans (mpdOf ch)).contains ch then
        (s.modCh ch fun x => { x with lostRaised := true, lostClear := none }).emitter 8 ch 0 (nth 0 s.emit.mpd (mpdOf ch))
      else s
    | none => s)

/-- PUMP_TH_REQUEST (R109, R413): needs the amplifier record's constants. -/
def execPumpThRequest (t : Tick) (s : State) : Host.Outcome State Fault Refusal :=
  let s := s.advance t
  .next (if s.modValid 1 then s.inject 1 (s.p K.emitPumpThAin) pumpCfg false else s)

/-- THERMISTOR_FAULT (R111). -/
def execThermistorFault (t : Tick) (s : State) : Host.Outcome State Fault Refusal :=
  let s := s.advance t
  .next (if s.modValid 1 && s.instRuns && !s.emit.pumpFailed && s.emit.pumpGood + msT 100 ≤ s.now then s.pumpFail else s)

/-- PUMP_RETURN (R111). -/
def execPumpReturn (t : Tick) (s : State) : Host.Outcome State Fault Refusal :=
  let s := s.advance t
  .next (match s.emit.pumpGoodSince with
    | some a =>
      if s.emit.pumpFailed && a + secT 1 ≤ s.now && s.now < s.emit.pumpGood + msT 100 then
        let s := s.modEmit fun e => { e with pumpFailed := false }
        s.rampSet ([2, 3].filter s.lit) true
      else s
    | none => s)

/-- WL_LOOP (R112, R113). The gains of the loop are not in the manual: the duty is a free value within
TEC0_DUTY_MAX, and so is the integrator (assumption 4). -/
def execWlLoop (t : Tick) (wla wlb : Nat) (s : State) : Host.Outcome State Fault Refusal :=
  let s := s.advance t
  let target := s.wlTarget
  .next (
    if !s.wlRuns then s.wlDrop
    else
      let r := if wla + wlb == 0 then s.freeNat % 65536 else min 65535 (rdiv (wla * 65536) (wla + wlb))
      let top := if s.modValid 0 then s.recF 0 44 2 else 0
      let s := s.tookFree
      let duty : Int := (s.freeNat % (2 * top + 1) : Nat) - (top : Int)
      let s := s.tookFree
      let s := (s.modEmit fun e => { e with wlRatio := r, tec0 := duty, wlInteg := sext 64 s.freeNat }).tookFree
      if (r - target) + (target - r) ≤ s.p K.emitWlLockTol then
        s.modEmit fun e => { e with wlSince := match e.wlSince with | some a => some a | none => some s.now }
      else s.wlDrop)

/-- WL_LOCK (R112). -/
def execWlLock (t : Tick) (s : State) : Host.Outcome State Fault Refusal :=
  let s := s.advance t
  .next (match s.emit.wlSince with
    | some a =>
      if a + secT 1 ≤ s.now && !s.emit.wlLocked && s.wlRuns then
        (s.modEmit fun e => { e with wlLocked := true }).emitter 10 0xFF 0 s.emit.wlRatio
      else s
    | none => s)

end Sys2Proof.Machine
end

