-- ==== Sys2Proof/Machine/Launch.lean ====
section
/-!
DEFINITION. The launches and gate edges to come (R78, R79, R83, R88, R89): from the running set and, beyond the next boundary,
from the set that takes effect there (R20).
-/
namespace Sys2Proof.Machine

/-! The set that comes (R20). -/

/-- The key reaches the running set only through COMMIT (R57). -/
def commitKey (k : Nat) : Bool :=
  match paramRow k with
  | some r => r.kind == .commit
  | none => false

/-- A set with its COMMIT keys taken from a snapshot (R57, R58). -/
def mergeSet (running snap : PSet) : PSet :=
  (snap.filter (fun e => commitKey e.1)).foldl (fun acc e => aput e.1 e.2 acc) (running.filter (fun e => !commitKey e.1))

/-! Gates (R83). -/

/-- Add a high interval, newest first; it merges with the newest where they overlap or lie less than gap apart. -/
def addGate (gap : Tick) (g : Tick × Tick) (gs : List (Tick × Tick)) : List (Tick × Tick) :=
  match gs with
  | h :: rest => if g.1 < h.2 + gap then (min g.1 h.1, max g.2 h.2) :: rest else (g :: gs).take 16
  | [] => [g]

/-- The interlock cuts every interval at instant t (R95). -/
def cutGates (t : Tick) (gs : List (Tick × Tick)) : List (Tick × Tick) :=
  gs.filterMap fun g => if t ≤ g.1 then none else some (g.1, min g.2 t)

/-- Gate interval of a pulse launched at l (R83). -/
def gateOf (ps : PSet) (l : Tick) (lead lag : Nat) : Tick × Tick :=
  (nearestDac (l - nsT lead), nearestDac (l + PS.pulseT ps + nsT lag))

/-! The present group. -/

/-- Position of a slot in the running set (R78). -/
def State.posOf (s : State) (slot : Nat) : Option Nat := (PS.tones s.running).idxOf? slot

/-- Commanded launch of position pos of the present group (R79). -/
def State.launchAt (s : State) (pos : Nat) : Tick := s.run.boundary + PS.launchOff s.running pos

/-- The slot's tone is displaced in the group of this shot number (R88). -/
def State.displaced (s : State) (slot shot : Nat) : Bool :=
  s.p K.synthRamanMode == 2 && s.p K.synthRamanSlot == slot && shot % s.p K.synthRamanK == 0

/-- Every tone of the group has launched. -/
def State.allLaunched (s : State) : Bool := (PS.tones s.running).all (fun k => (s.slot k).launched)

/-- The first shot group's boundary: the first DAC sample at least 100 µs after each enabled ramp of E0 to E3; none
while a ramp has still to end (R89). -/
def State.firstBoundary (s : State) : Option Tick :=
  let cs := (List.range 4).filter s.enabled
  if cs.any (fun c => !(s.ch c).risen || (s.ch c).busy) then none
  else some (dacFrom (cs.foldl (fun (t : Tick) c => max t ((s.ch c).rampEndAt + usT 100)) (s.run.rampsDone.getD s.now)))

/-- The set that the shot group after the present one takes: a COMMIT loaded before its boundary takes effect there (R20). -/
def State.nextSet (s : State) : PSet :=
  match s.commits with
  | c :: _ => if c.loaded && c.loadedAt < s.run.boundary + PS.period s.running then mergeSet s.running c.snap else s.running
  | [] => s.running

/-- Launches to come of the present and the next shot group, or of a run's first group while START waits: slot, commanded launch and
set, displaced ones left out (R20, R78, R79, R83, R88). -/
def State.comingLaunches (s : State) : List (Nat × Tick × PSet) :=
  let group (ps : PSet) (b : Tick) (shot : Nat) : List (Nat × Tick × PSet) :=
    (PS.tones ps).zipIdx.filterMap fun e =>
      if PS.g ps K.synthRamanMode == 2 && PS.g ps K.synthRamanSlot == e.1 && shot % PS.g ps K.synthRamanK == 0 then none
      else some (e.1, b + PS.launchOff ps e.2, ps)
  if s.run.state == 1 then
    (group s.running s.run.boundary s.run.shot).filter (fun e => !(s.slot e.1).launched) ++
      (if s.run.stopMode.isSome then []
       else group s.nextSet (s.run.boundary + PS.period s.running) ((s.run.shot + 1) % 2 ^ 32))
  else if s.run.state == 3 then
    match s.firstBoundary with
    | some t0 => group s.running t0 s.run.nextShot
    | none => []
  else []

/-- The gate intervals of the launches to come (R83): MODGATE, then SOAGATE. -/
def State.comingGates (s : State) : List (Tick × Tick) × List (Tick × Tick) :=
  let xs := s.comingLaunches
  (xs.map (fun e => gateOf e.2.2 e.2.1 (PS.g e.2.2 K.synthModLeadNs) (PS.g e.2.2 K.synthModLagNs)),
   xs.map (fun e => gateOf e.2.2 e.2.1 (PS.g e.2.2 K.synthSoaLeadNs) (PS.g e.2.2 K.synthSoaLagNs)))

/-- A gate is high now (R83): in a recorded interval, in the lead of a launch to come, or between the two where they merge, less than
gap apart. -/
def State.gateHigh (s : State) (gap : Tick) (past coming : List (Tick × Tick)) : Bool :=
  let near (c : Tick × Tick) : Bool := match past with | h :: _ => h.1 ≤ s.now && c.1 < h.2 + gap | [] => false
  !s.ilk.latched && (past.any (fun g => g.1 ≤ s.now && s.now < g.2) || coming.any (fun c => c.1 ≤ s.now || near c))

/-- MODGATE and SOAGATE now. -/
def State.modHigh (s : State) : Bool := s.gateHigh (nsT 10) s.run.modgate s.comingGates.1
def State.soaHigh (s : State) : Bool := s.gateHigh 0 s.run.soagate s.comingGates.2

/-- Launches to come no longer do: a gate that has risen for one falls now. -/
def State.dropGates (s : State) : State :=
  let cut (gap : Tick) (coming past : List (Tick × Tick)) : List (Tick × Tick) :=
    (coming.filter (fun c => decide (c.1 < s.now))).foldl (fun gs c => addGate gap (c.1, s.now) gs) past
  s.modRun fun r =>
    { r with modgate := cut (nsT 10) s.comingGates.1 r.modgate, soagate := cut 0 s.comingGates.2 r.soagate }

/-- A pulse is in progress. -/
def State.pulsing (s : State) : Bool :=
  (PS.tones s.running).any fun k =>
    let x := s.slot k
    x.launched && !s.displaced k s.run.shot && s.now < x.launch + PS.pulseT s.running

end Sys2Proof.Machine
end

