-- ==== Sys2Proof/Machine/Synth.lean ====
section
/-!
DEFINITION. Signals: the pulse of R71 to R73 as the reference of the compressor (R153, R156, R157) and as DAC codes (R74 to R76, R79,
R130), the pilots (R129, R130), the channeliser (R123, R128, R131), and the arithmetic of compression and decimation (R153 to R159).
-/
namespace Sys2Proof.Machine

/-! The pulse and the reference. -/

/-- Compressed samples are 24 DAC samples apart: 4.8828125 ns. -/
def sampleT : Tick := 24 * dacT

/-- Lref. -/
def PS.refLen (ps : PSet) : Nat := cdiv (pulseSamples ps) 24

/-- Valid outputs of a block (R155). -/
def PS.blockOut (ps : PSet) : Nat := 4097 - refLen ps

/-- Envelope of DAC sample n in 2^-48 (R73). -/
def PS.envelope (ps : PSet) (n : Nat) : Nat :=
  let l := pulseSamples ps
  let m := rdiv (l * g ps K.synthTaperPct) 100
  let edge (k : Nat) : Nat :=
    -- 0.5 × (1 − cos(π (k + 0.5) / m)); π (2k + 1)/(2m) is (2k + 1)/(4m) turns
    (((fx1 : Int) - (cosSin ((2 * k + 1) * 2 ^ 64 / (4 * m))).1) / 2).toNat
  if n < m then edge n else if l - m ≤ n then edge (l - 1 - n) else fx1

/-- F[k] of R156 in 2^-48, k = 1 to 4. -/
def taylorF : List Int := [96925882767134, -4276980901848, 1204236540957, -206757908540]

/-- Taylor weight of reference sample m in 2^-48 (R156); 1 without weighting. -/
def PS.weight (ps : PSet) (m : Nat) : Int :=
  if g ps K.pceWeighting == 0 then fx1
  else
    let len := refLen ps
    (fx1 : Int) + 2 * ((taylorF.zipIdx).map (fun f =>
      -- cos(2π k x), x = (2m − (len − 1)) / (2 len)
      let turns := uns 64 (((f.2 + 1 : Nat) : Int) * (2 * (m : Int) - ((len : Int) - 1)) * 2 ^ 64 / (2 * (len : Int)))
      f.1 * (cosSin turns).1 / 2 ^ 48)).sum

/-- Amplitude of reference sample m before scaling, in 2^-48. -/
def PS.refAmp (ps : PSet) (m : Nat) : Nat := (((envelope ps (24 * m) : Nat) : Int) * weight ps m / 2 ^ 48).toNat

/-- Baseband phase of DAC sample n in 2^-64 turns: B n (n − L) / (2 L fs) (R71, R72). -/
def PS.chirpTurns (ps : PSet) (n : Nat) : Nat :=
  let l := pulseSamples ps
  uns 64 (((g ps K.synthChirpBwKhz * n : Nat) : Int) * ((n : Int) - l) * 2 ^ 64 / (2 * (l : Int) * 4915200))

/-- The quantised, weighted reference: 16-bit I and Q, largest magnitude 32,767 (R157). -/
def PS.reference (ps : PSet) : List Cplx :=
  let amps := (List.range (refLen ps)).map (refAmp ps)
  let top := (amps.max?).getD 1
  (amps.zipIdx).map fun a =>
    let cs := cosSin (chirpTurns ps (24 * a.2))
    (rdivEven ((a.1 : Int) * cs.1 * 32767) (top * fx1), rdivEven ((a.1 : Int) * cs.2 * 32767) (top * fx1))

/-! The two figures of the reference (R156). -/

/-- Envelope at n / 78,125 DAC samples, in 2^-48: R73 at a real instant, 0 outside the pulse. -/
def PS.envelopeAt (ps : PSet) (n : Int) : Nat :=
  let l := pulseSamples ps
  let m := rdiv (l * g ps K.synthTaperPct) 100
  let one : Int := 78125
  let edge (k : Int) : Nat :=
    (((fx1 : Int) - (cosSin (uns 64 ((2 * k + one) * 2 ^ 64 / (4 * (m : Int) * one)))).1) / 2).toNat
  if n < 0 || (l : Int) * one ≤ n then 0
  else if n < (m : Int) * one then edge n
  else if ((l : Int) - m) * one ≤ n then edge (((l : Int) - 1) * one - n)
  else fx1

/-- Baseband phase at n / 78,125 DAC samples, in 2^-64 turns (R71, R72). -/
def PS.chirpAt (ps : PSet) (n : Int) : Nat :=
  let l : Int := pulseSamples ps
  uns 64 ((g ps K.synthChirpBwKhz : Int) * n * (n - 78125 * l) * 2 ^ 64 / (2 * l * 4915200 * 78125 * 78125))

/-- Squared response of the reference to the realised pulse at a delay of tau ps (R156). -/
def PS.response (ps : PSet) (h : List Cplx) (tau : Int) : Nat :=
  let y := (h.zipIdx).foldl (fun (acc : Int × Int) (e : Cplx × Nat) =>
    let n : Int := 24 * (78125 * (e.2 : Int) + 16 * tau)
    let w : Int := envelopeAt ps n
    let cs := cosSin (chirpAt ps n)
    (acc.1 + w * (cs.1 * e.1.1 + cs.2 * e.1.2) / (fx1 : Int), acc.2 + w * (cs.2 * e.1.1 - cs.1 * e.1.2) / (fx1 : Int))) (0, 0)
  mag2 y

/-- The responses at the steps of 1 ps, in order of delay. -/
def PS.responses (ps : PSet) : List Nat :=
  let h := reference ps
  let span := refLen ps * 78125 / 16
  (List.range (2 * span + 1)).map fun (i : Nat) => response ps h ((i : Int) - span)

/-- The responses from the peak outward on each side. -/
def sides (r : List Nat) : Nat × List Nat × List Nat :=
  let peak := (r.max?).getD 0
  let i := (r.idxOf? peak).getD 0
  (peak, r.drop (i + 1), (r.take i).reverse)

/-- Steps to the first response at or below the peak × 10^(−3/20). -/
def halfWidth (peak : Nat) (xs : List Nat) : Nat := (xs.takeWhile (fun x => peak ^ 10 < x ^ 10 * 1000)).length + 1

/-- What lies beyond the first minimum on one side. -/
def beyondMin : List Nat → List Nat
  | a :: b :: r => if a < b then a :: b :: r else beyondMin (b :: r)
  | _ => []

/-- The largest local maximum of a list. -/
def localMax : List Nat → Nat
  | a :: b :: c :: r => max (if a ≤ b && c ≤ b then b else 0) (localMax (b :: c :: r))
  | _ => 0

/-- PCE.REF_MAINLOBE_PS. -/
def PS.mainlobePs (ps : PSet) : Nat :=
  let s := sides (responses ps)
  halfWidth s.1 s.2.1 + halfWidth s.1 s.2.2

/-- PCE.REF_PSL_MDB: 20 × log10 of the ratio is 10 × log10 of the ratio of squares. -/
def PS.pslMdb (ps : PSet) : Int :=
  let s := sides (responses ps)
  let side := max (localMax (beyondMin s.2.1)) (localMax (beyondMin s.2.2))
  if side == 0 || s.1 == 0 then 0 else rdivAway (lnFx side s.1 * 10000) ln10Fx

/-! I/Q corrections (R131, R135; assumption 103). -/

/-- A sample whose Q is scaled by a gain (mdB) and turned toward I by a phase (microradians). -/
def iqCorrect (gain phase : Int) (v : Cplx) : Cplx :=
  let cs := cosSin (turnsOf phase)
  (v.1, gainFx gain * ((v.2 * cs.1 + v.1 * cs.2) / fx1) / fx1)

/-- A sample times a complex gain: mdB and microradians. -/
def gainCorrect (gain phase : Int) (v : Cplx) : Cplx :=
  let cs := cosSin (turnsOf phase)
  (gainFx gain * ((v.1 * cs.1 - v.2 * cs.2) / fx1) / fx1, gainFx gain * ((v.1 * cs.2 + v.2 * cs.1) / fx1) / fx1)

/-! The synthesiser (R71 to R76). Samples are in 2^-40 DAC code. -/

/-- Centre of slot k in kHz. -/
def slotKhz (k : Nat) : Int := 256000 * (k : Int) - 896000

/-- Start word of the double accumulator: the frequency of the first step from sample 0 of R71's phase, f_k − B/2 + B/(2L), in
4.9152 GHz / 2^40 (assumption 98). -/
def PS.startWord (ps : PSet) (k : Nat) : Nat :=
  let l : Int := pulseSamples ps
  let b : Int := g ps K.synthChirpBwKhz
  uns 40 (rdivI ((2 * l * slotKhz k - l * b + b) * 2 ^ 40) (2 * pulseSamples ps * 4915200))

/-- Chirp-increment word, B/L. -/
def PS.chirpWord (ps : PSet) : Nat := rdiv (g ps K.synthChirpBwKhz * 2 ^ 40) (pulseSamples ps * 4915200)

/-- Phase word of sample n, 32 bits, 2^-32 turn: 0 at the launch (R71). -/
def PS.phaseWord (ps : PSet) (k n : Nat) : Nat := (n * startWord ps k + chirpWord ps * (n * (n - 1) / 2)) % 2 ^ 40 / 2 ^ 8

/-- Cosine and sine from the upper 18 bits of a phase word, 18 bits each (full scale 131,071, assumption 98). -/
def sine18 (w : Nat) : Cplx :=
  let cs := cosSin (w / 2 ^ 14 * 2 ^ 46)
  (rdivI (cs.1 * 131071) fx1, rdivI (cs.2 * 131071) fx1)

/-- Sample n of slot k's pulse: scaled by w(n) × AMPk / 65,536, full scale 8,192 codes. -/
def PS.pulseSample (ps : PSet) (k n : Nat) : Cplx :=
  let c := sine18 (phaseWord ps k n)
  let a : Int := g ps (K.synthAmp + k) * envelope ps n * 32
  (c.1 * a / (131071 * 65536), c.2 * a / (131071 * 65536))

/-- Frequency of the guard-band boundary b (0 to 6) in kHz. -/
def boundaryKhz (b : Nat) : Int := 256000 * (b : Int) - 768000

/-- The transmit pilots at DAC sample n: b − 3.84 MHz for the seven boundaries, each at −60 dBFS (R130). Their phases are the
part's own. -/
def txPilots (n : Nat) : Cplx :=
  (List.range 7).foldl (fun (acc : Cplx) b =>
    let cs := cosSin (uns 64 ((boundaryKhz b - 3840) * n * 2 ^ 64 / 4915200 + Config.pilotPhase (7 + b)))
    (acc.1 + cs.1 * 32 / 1000, acc.2 + cs.2 * 32 / 1000)) (0, 0)

/-- A receive pilot is added at boundary b + 1.28 MHz (R129): what the generator adds to each coherent lane's I and Q at converter
sample n, in 2^-48 of full scale, −60 dBFS each. -/
def rxPilots (n : Nat) : Cplx :=
  (List.range 7).foldl (fun (acc : Cplx) b =>
    let cs := cosSin (uns 64 ((boundaryKhz b + 1280) * n * 2 ^ 64 / 2457600 + Config.pilotPhase b))
    (acc.1 + cs.1 / 1000, acc.2 + cs.2 / 1000)) (0, 0)

/-- The transmit pilots are on (R130, R146). -/
def State.txPilotsOn (s : State) : Bool := s.domainRuns 3 && s.pB K.calTxPilotEn

/-- The receive pilots are on, and with them the tracker runs (R129, R146): the SMP domain runs on a locked SPLL. -/
def State.rxPilotsOn (s : State) : Bool := s.domainRuns 2 && nth false s.clk.locked 0 && s.pB K.calTrackEn

/-- Steps 5 and 6 of "Building the samples" under the corrections c: codes of SYI and SYQ, and how many of the two saturated
(R75, R131, R135). -/
def dacRound (c : Corr) (v : Cplx) : (Int × Int) × Nat :=
  let cal (i : Nat) : Int := if c.coef2 = 0 then 0 else Config.txCal c.coef2 i
  let v := iqCorrect (c.tx.1 + cal 0) (c.tx.2 + cal 1) v
  let a := rdivI (v.1 + cal 2) (2 ^ 40)
  let b := rdivI (v.2 + cal 3) (2 ^ 40)
  ((satI 14 a, satI 14 b), b2n (a != satI 14 a) + b2n (b != satI 14 b))

/-- DAC sample n where slot's pulse stands at its sample i, none: no pulse. -/
def State.dacSample (s : State) (ps : PSet) (n : Nat) (pulse : Option (Nat × Nat)) : (Int × Int) × Nat :=
  let p : Cplx := match pulse with | some (k, i) => PS.pulseSample ps k i | none => (0, 0)
  let q : Cplx := if s.txPilotsOn then txPilots n else (0, 0)
  dacRound s.recv.corr (p.1 + q.1, p.2 + q.2)

/-- The pulse of slot k launched at l: number of its first DAC sample, the one nearest l (R79), its codes, and the lane samples that
clipped (R75). -/
def State.pulseCodes (s : State) (ps : PSet) (k : Nat) (l : Tick) : Nat × List (Int × Int) × Nat :=
  let n0 := nearestDac l / dacT
  let xs := (List.range (PS.pulseSamples ps)).map (fun i => s.dacSample ps (n0 + i) (some (k, i)))
  (n0, xs.map (·.1), (xs.map (·.2)).sum)

/-- Codes of SYI and SYQ at an instant: the last pulse launched while it lasts, else the pilots alone, else 0 (R76). -/
def State.dacCode (s : State) (t : Tick) : Int × Int :=
  let n := t / dacT
  let idle : Int × Int := if s.txPilotsOn then (s.dacSample s.running n none).1 else (0, 0)
  match s.run.wave with
  | some (n0, xs) => if n0 ≤ n && n < n0 + xs.length then nth idle xs (n - n0) else idle
  | none => idle

/-- Currents of an output pair at a code, in femtoampere: I_P and I_N (R76). 20 mA / 16,384 is 1,220,703,125 fA. -/
def dacLegs (c : Int) : Nat × Nat :=
  let p := (1220703125 * (c + 8192)).toNat
  (p, 20000000000000 - p)

/-! The channeliser (R123, R128, R131). Converter sample m lies 2m DAC samples after instant 0; stream sample u lies at input 12u. -/

/-- The codes at converter sample m; 0 where none has come (assumption 100). -/
def Recv.laneCodes (r : Recv) (m : Nat) : LaneCodes :=
  let base := r.convAt - r.conv.length
  if base ≤ m && m < r.convAt then nth { xi := 0, xq := 0, yi := 0, yq := 0 } r.conv (m - base)
  else { xi := 0, xq := 0, yi := 0, yq := 0 }

/-- The complex sample of polarisation p (0 X, 1 Y) in 2^-20 code; swap exchanges I and Q (R123). -/
def laneSample (c : LaneCodes) (p : Nat) (swap : Bool) : Cplx :=
  let v : Cplx := if p = 0 then (c.xi, c.xq) else (c.yi, c.yq)
  let v : Cplx := if swap then (v.2, v.1) else v
  (v.1 * 2 ^ 20, v.2 * 2 ^ 20)

/-- The set and corrections of the shot group that a sample of slot k at instant t belongs to: of the newest shot launched by then,
else those in force (R20, R131). -/
def State.slotSet (s : State) (k : Nat) (t : Tick) : PSet × Corr :=
  match ((nth [] s.pce.jobs k).filter (fun j => j.launch ≤ t)).getLast? with
  | some j => (j.ps, j.corr)
  | none => (s.running, s.recv.corr)

/-- Tap m of the slot filter of 384, symmetric. -/
def slotTap (m : Nat) : Int := Config.slotTap (min m (383 - m))

/-- Polarisation p is enabled (R124). -/
def PS.polOn (ps : PSet) (p : Nat) : Bool := g ps K.recvLaneEnable / 4 ^ p % 4 == 3

/-- Stream sample u of slot k and polarisation p, and how many of its two components saturated (R128, R131, R135): I/Q correction,
mixing by the 32-bit oscillator, complex gain, and the filter, whose gain at the slot centre is 32. -/
def State.chanSample (s : State) (k p u : Nat) : Cplx × Nat :=
  let (ps, c) := s.slotSet k (u * sampleT)
  if !PS.polOn ps p then ((0, 0), 0)
  else
    let x : RxCorr := nth {} c.rx (8 * p + k)
    let cal (i : Nat) : Int := if c.coef1 = 0 then 0 else Config.rxCal c.coef1 p k i
    let word := uns 32 (rdivI (slotKhz k * 2 ^ 32) 2457600)
    let sum := (List.range 384).foldl (fun (acc : Cplx) i =>
      if 12 * u + 191 < i then acc
      else
        let m := 12 * u + 191 - i
        let v := iqCorrect (x.iqGain + cal 2) (x.iqPhase + cal 3)
          (laneSample (s.recv.laneCodes m) p (bit (PS.g ps K.recvIqSwap) p))
        -- exp(−j2π word m / 2^32)
        let cs := cosSin ((2 ^ 32 - word * m % 2 ^ 32) % 2 ^ 32 * 2 ^ 32)
        let t := slotTap i
        (acc.1 + t * ((v.1 * cs.1 - v.2 * cs.2) / fx1), acc.2 + t * ((v.1 * cs.2 + v.2 * cs.1) / fx1))) (0, 0)
    let y := gainCorrect (x.gain + cal 0) (x.phase + cal 1) sum
    let norm := ((List.range 384).map slotTap).sum.natAbs * 2 ^ 20
    let a := rdivAway (32 * y.1) norm
    let b := rdivAway (32 * y.2) norm
    ((satI 18 a, satI 18 b), b2n (a != satI 18 a) + b2n (b != satI 18 b))

/-- Sample u of slot k's stream, X and Y; 0 where it is not kept. -/
def Recv.stream (r : Recv) (k u : Nat) : Cplx × Cplx :=
  let xs := nth [] r.streams k
  let base := r.slotAt - xs.length
  if base ≤ u && u < r.slotAt then nth ((0, 0), (0, 0)) xs (u - base) else ((0, 0), (0, 0))

/-! Compression. -/

/-- Periodic interpolation kernel of 4,096 points at offset d, in 2^-48: what exp(−j2πfr) over the transform points does in
time. d is in 1/320,000 sample (R158). -/
def kernel (d : Int) : Int :=
  if d % (4096 * 320000) = 0 then fx1
  else
    -- sin(πx) / (4096 tan(πx/4096)), x = d/320,000: half a turn per sample
    let s := (cosSin (uns 64 (d * 2 ^ 63 / 320000))).2
    let cs := cosSin (uns 64 (d * 2 ^ 63 / (320000 * 4096)))
    if cs.2 = 0 then 0 else Int.tdiv (s * cs.1) (4096 * cs.2)

/-- The reference delayed by r units of 1/65,536 ns (R158), 4,096 points in 2^-16: the sum over its samples is formed exactly and
rounded once. -/
def delayed (h : List Cplx) (r : Int) : List Cplx :=
  if r = 0 then h.map (fun c => (c.1 * 65536, c.2 * 65536))
  else (List.range 4096).map fun (m : Nat) =>
    let s := (h.zipIdx).foldl (fun (acc : Cplx) (e : Cplx × Nat) =>
      let k := kernel (((m : Int) - e.2) * 320000 - r)
      (acc.1 + e.1.1 * k, acc.2 + e.1.2 * k)) (0, 0)
    (rdivEven (s.1 * 65536) fx1, rdivEven (s.2 * 65536) fx1)

/-- The whole-sample and the remaining part of a launch offset (R158). -/
def originSplit (o : Int) : Int × Int :=
  let q := rdivI o 320000
  (q, o - q * 320000)

/-- Last compressed sample inside the segment (R150), for a segment that starts q samples after the stream's sample nearest the
launch, which lies d ticks after that sample. -/
def PS.segEnd (ps : PSet) (q d : Int) : Nat :=
  ((((roundTrip ps + nsT 500 : Nat) : Int) + d - q * (sampleT : Nat)) / (sampleT : Nat)).toNat

/-- PCE.TRUNC_FIRST_BIN (R151): the first bin whose window ends after the segment. -/
def PS.truncFirst (ps : PSet) : Nat :=
  let d := 2 ^ g ps K.pceSpatialMode
  let full := segEnd ps 0 0 + 1 - (refLen ps - 1)
  min (g ps K.pceBins) (cdiv full d)

/-- Saturate a component to 20 bits; the flag says that it did. -/
def sat20 (x : Int) : Int × Nat := (satI 20 x, b2n (x != satI 20 x))

/-- One compressed sample in 2^-6 LSB, before it is rounded: 4 × Σ x(n + m) h*(m) / Σ |h(m)|, h and the norm in 2^-16. -/
def correlate (xs h : List Cplx) (norm : Nat) : Int × Int :=
  let s := (xs.zip h).foldl (fun (acc : Cplx) e =>
    (acc.1 + e.1.1 * e.2.1 + e.1.2 * e.2.2, acc.2 + e.1.2 * e.2.1 - e.1.1 * e.2.2)) (0, 0)
  (rdivEven (256 * s.1) norm, rdivEven (256 * s.2) norm)

/-- What the transforms add to a component, in 2^-6 LSB: a FREE VALUE whose size stays 20 dB below the rounding noise of a
channeliser sample, 4/√12 LSB (R157; assumption 106). -/
def fftNoise (n : Nat) : Int := (Config.free n % 15 : Nat) - 7

/-- The outputs of one block of one polarisation (R153 to R158), each rounded once to the output LSB, to even. Answers the samples
and how many components saturated. -/
def compress (ps : PSet) (r : Int) (first count fresh : Nat) (stop : Nat) (xs : List Cplx) : List Cplx × Nat :=
  let h0 := PS.reference ps
  let norm := (h0.map (fun c => isqrtR ((c.1 * c.1 + c.2 * c.2).toNat * 2 ^ 32))).sum
  let h := delayed h0 r
  let seg := (xs.zipIdx).map (fun e => if first + e.2 ≤ stop then e.1 else (0, 0))
  let outs := (List.range count).map fun n =>
    let y := correlate (seg.drop n ++ seg.take n) h norm
    let a := sat20 (rdivEven (y.1 + fftNoise (fresh + 2 * n)) 64)
    let b := sat20 (rdivEven (y.2 + fftNoise (fresh + 2 * n + 1)) 64)
    ((a.1, b.1), a.2 + b.2)
  (outs.map (·.1), (outs.map (·.2)).sum)

/-! Decimation (R159). -/

/-- Tap of the half-band filter at distance d from its middle, in 2^-20: symmetric, zero at even distances, one half in the middle,
and one in all (R159; assumption 107). -/
def halfTap (d : Nat) : Int :=
  if d = 0 then 2 ^ 19
  else if d % 2 = 0 then 0
  else if d < 15 then Config.halfBand (d / 2)
  else 2 ^ 18 - ((List.range 7).map Config.halfBand).sum

/-- One half-band output around input 2n. -/
def halfBand (f : Int → Cplx) (n : Int) : Cplx :=
  let s := (List.range 31).foldl (fun (acc : Cplx) (i : Nat) =>
    let v := f (2 * n + i - 15)
    let t := halfTap (i - 15 + (15 - i))
    (acc.1 + t * v.1, acc.2 + t * v.2)) (0, 0)
  (satI 20 (rdivEven s.1 (2 ^ 20)), satI 20 (rdivEven s.2 (2 ^ 20)))

/-- Bin b of a compressed line (R159). Samples beyond the segment, 0 to last, are taken as zero by either filter. -/
def binOf (mode : Nat) (line : Array Cplx) (last b : Nat) : Cplx :=
  let raw (n : Int) : Cplx := if n < 0 then (0, 0) else line.getD n.toNat (0, 0)
  match mode with
  | 0 => raw b
  | 1 => halfBand raw b
  | _ => halfBand (fun n => if n < 0 ∨ (last : Int) < 2 * n then (0, 0) else halfBand raw n) b

/-- Compressed samples that a shot needs in all. -/
def PS.samplesNeeded (ps : PSet) (q d : Int) : Nat :=
  let b := g ps K.pceBins
  let want := match g ps K.pceSpatialMode with
    | 0 => b
    | 1 => 2 * b + 14
    | _ => 4 * b + 42
  min want (segEnd ps q d + 1)

/-- Bins whose value is decided once c samples are there, out of all. -/
def PS.binsReady (ps : PSet) (c need : Nat) : Nat :=
  let b := g ps K.pceBins
  if need ≤ c then b
  else match g ps K.pceSpatialMode with
    | 0 => min b c
    | 1 => min b ((c - 15 + 1) / 2)
    | _ => min b ((c - 45 + 3) / 4)

end Sys2Proof.Machine
end

