-- ==== Sys2Proof/Machine/Recv.lean ====
section
/-!
DEFINITION. Reception converters (chapter 05): APD bias, pilot tracking, placing of calibration and blotter steps,
calibration runs, self-test, and their commands.
-/
namespace Sys2Proof.Machine

/-! APD bias (R126, R127). m is 0 for RMA, 1 for RMS; biases in 1/10,000 mV. -/

/-- V_br25 + TC × (T − 25 °C) of an APD. -/
def State.apdBreakdown (s : State) (m : Nat) (t : Int) : Int :=
  (s.recF 3 (40 + 4 * m) 2 : Nat) * 100000 + (s.recF 3 (42 + 4 * m) 2 : Nat) * (t - 250000)

/-- The cap of R127. -/
def State.apdCap (s : State) (m : Nat) (t : Int) : Int := s.apdBreakdown m t - 10000000

/-- Both caps are above 0 V. -/
def State.apdCapsOk (s : State) (t : Int) : Bool := 0 < s.apdCap 0 t && 0 < s.apdCap 1 t

/-- The bench test holds both APD controls at 0 V: its Raman item is in progress (R143). -/
def State.apdHeld (s : State) : Bool :=
  match s.recv.selftest with
  | some x => (match x.items with | (item, _) :: _ => item == 0x010B | [] => false)
  | none => false

/-- The bias commanded on an APD in whole mV, after every limit (R126, R127). -/
def State.apdWant (s : State) (m : Nat) : Nat :=
  if s.p K.recvApdMode == 0 || !s.modValid 3 || s.emit.apdCut || !s.instRuns || s.apdHeld then 0
  else match s.emit.apdTemp with
    | none => 0
    | some t =>
      let want : Int := if s.p K.recvApdMode == 1 then s.apdBreakdown m t - (s.p K.recvApdMarginMv : Nat) * 10000
        else (s.p (K.recvApdFixedMv + m) : Nat) * 10000
      let mv := rdivI (min want (s.apdCap m t)) 10000
      min mv.toNat (2500 * s.p K.recvApdGain / 100)

/-- Set both outputs. -/
def State.apdApply (s : State) : State := s.modEmit fun e => { e with apdBias := [s.apdWant 0, s.apdWant 1] }

/-- The bias is cut (R127). -/
def State.apdDrop (s : State) : State :=
  if s.emit.apdCut then s.apdApply
  else ((s.ramanAbort.modEmit fun e => { e with apdCut := true }).apdApply).health 8 0 0 2

/-- A good APD thermistor conversion. -/
def State.apdReading (s : State) (t : Int) : State :=
  let s := s.modEmit fun e => { e with apdTemp := some t, apdGood := s.now, apdBreak := false }
  if !s.modValid 3 then s.apdApply
  else if s.apdCapsOk t then (s.modEmit fun e => { e with apdCut := false }).apdApply
  else s.apdDrop

/-- A conversion that reported BREAK. -/
def State.apdBroken (s : State) : State := (s.modEmit fun e => { e with apdBreak := true }).apdDrop

/-- APD_BIAS_UPDATE (R126): once per second the bias is set and a thermistor conversion is asked for. -/
def execApdBiasUpdate (t : Tick) (s : State) : Host.Outcome State Fault Refusal :=
  let s := s.advance t
  let due := match s.emit.apdSetAt with | some a => decide (a + secT 1 ≤ s.now) | none => true
  .next (
    if due then ((s.modEmit fun e => { e with apdSetAt := some s.now }).apdApply).inject 2 (s.p K.recvApdThAin) apdCfg false
    else s)

/-- APD_BIAS_CUT (R127). -/
def execApdBiasCut (t : Tick) (s : State) : Host.Outcome State Fault Refusal :=
  let s := s.advance t
  .next (if s.instRuns && !s.emit.apdCut && s.emit.apdGood + secT 3 ≤ s.now then s.apdDrop else s)

/-! Step spans (R133). -/

/-- Intervals in which MODGATE or SOAGATE is high for the tones of one group, in launch order, on
the DAC sample grid. -/
def gateSpans (ps : PSet) (boundary : Tick) (shot : Nat) : List (Int × Int) :=
  let displaced (k : Nat) : Bool :=
    PS.g ps K.synthRamanMode == 2 && PS.g ps K.synthRamanSlot == k && shot % PS.g ps K.synthRamanK == 0
  (PS.tones ps).zipIdx.filterMap fun e =>
    if displaced e.1 then none
    else
      let l := boundary + PS.launchOff ps e.2
      let lead := nsT (max (PS.g ps K.synthModLeadNs) (PS.g ps K.synthSoaLeadNs))
      let lag := nsT (max (PS.g ps K.synthModLagNs) (PS.g ps K.synthSoaLagNs))
      some ((nearestDac (l - lead) : Nat), (nearestDac (l + PS.pulseT ps + lag) : Nat))

/-- The earliest start at or after lo of a span of len ticks clear of every interval, each taken early ticks longer at its
front. -/
def clearFrom (spans : List (Int × Int)) (early len : Int) (lo : Int) : Int :=
  spans.foldl (fun x i => if i.1 - early < x + len && x < i.2 then i.2 else x) lo

/-- Where a step of a slot is placed in the current group, if it can be (R133). -/
def State.stepSpan (s : State) (slot : Nat) : Option Tick :=
  let ps := s.running
  let p : Int := (PS.period ps : Nat)
  let b := s.run.boundary
  let next := if s.run.stopMode.isSome then [] else gateSpans ps (b + PS.period ps) ((s.run.shot + 1) % 2 ^ 32)
  let spans := gateSpans ps b s.run.shot ++ next
  let len : Int := (nsT 3000 : Nat)
  match (PS.tones ps).idxOf? slot with
  | some pos =>
    let l : Int := (b + PS.launchOff ps pos : Nat)
    let st := clearFrom spans 0 len (l + (PS.roundTrip ps : Nat) + (nsT 500 : Nat))
    if st ≤ l + p - (nsT 3500 : Nat) then some st.toNat else none
  | none =>
    let last (gs : List (Tick × Tick)) : Nat := match gs with | h :: _ => h.2 | [] => 0
    let st := clearFrom spans (nsT 500 : Nat) len (max b (max (last s.run.modgate) (last s.run.soagate)) : Nat)
    if st + len ≤ (b : Int) + p then some st.toNat else none

/-- Shots launch. -/
def State.shots (s : State) : Bool := s.run.state == 1

/-- While no shots launch, a paced span of 3,000 ns that ends now found both gates low throughout (R133). -/
def State.gatesQuiet (s : State) : Bool :=
  (s.run.modgate ++ s.run.soagate).all (fun g => g.2 + nsT 3000 ≤ s.now) && !s.modHigh && !s.soaHigh

/-! Corrections (R131, R135). -/

/-- Corrections of the tracker that wait take effect. -/
def State.corrEffect (s : State) : State :=
  match s.recv.corrNext with
  | some c => s.modRecv fun r => { r with corr := { r.corr with rx := c.1, tx := c.2 }, corrNext := none }
  | none => s

/-- Value at the centre of slot k of what is known at the receive pilots 0 to 6: linear between the two either side, slots 0 and 7 from
their two nearest (R129, R131). -/
def pilotAt (xs : List Int) (k : Nat) : Int :=
  let a : Nat := min (k - 1) 5
  -- how far the slot's centre lies after pilot a, in 1/200 of the distance between pilots
  let f : Int := if k = 0 then -101 else if k = 7 then 299 else 99
  rdivI (200 * nth 0 xs a + f * (nth 0 xs (a + 1) - nth 0 xs a)) 200

/-- The receive corrections that the tracker's estimates give polarisation p in slot k (R131; assumption 103): the lanes' mean gain and
phase and their difference, taken back. rx: of each lane, gain and phase at each pilot. -/
def rxCorrOf (rx : List (List (Int × Int))) (p k : Nat) : RxCorr :=
  let i (f : Int × Int → Int) : Int := pilotAt ((nth [] rx (2 * p)).map f) k
  let q (f : Int × Int → Int) : Int := pilotAt ((nth [] rx (2 * p + 1)).map f) k
  { gain := -rdivI (i (·.1) + q (·.1)) 2, phase := -rdivI (i (·.2) + q (·.2)) 2,
    iqGain := i (·.1) - q (·.1), iqPhase := i (·.2) - q (·.2) }

/-- The receive corrections of both polarisations; those of one that is not enabled stay as they are (R124). -/
def State.rxCorrs (s : State) (rx : List (List (Int × Int))) : List RxCorr :=
  (List.range 16).map fun n =>
    if PS.polOn s.running (n / 8) then rxCorrOf rx (n / 8) (n % 8) else nth {} s.recv.corr.rx n

/-- The tracker stops: what it has missed so far counts no more (R132). -/
def State.trackStop (s : State) : State := s.modRecv fun r => { r with pilotMiss := List.replicate 7 none }

/-! Calibration runs (R133 to R142). -/

/-- Steps of a run. -/
def CalRun.steps (c : CalRun) : Nat := 1600 * c.scopes.length

/-- Slot of the next step to be placed. -/
def CalRun.slot (c : CalRun) : Nat := (c.done + c.placed.length) % 8

/-- Runs may happen (R137). -/
def State.calAllowed (s : State) : Bool :=
  s.clk.mode ≥ 3 && ((nsT 4000 : Nat) : Int) ≤ PS.drydown s.running


/-- Scopes of a request's scope field (R135). -/
def calScopes (scope : Nat) : List Nat := if scope == 0 then [1, 2] else [scope]

/-- A run starts: CAL.LAST_TEMP is taken and REFDIV requested (R136, R139). -/
def State.calStart (s : State) (reason : Nat) (scopes : List Nat) (attached : List ReqId) : State :=
  let c : CalRun := { reason := reason, scopes := scopes, done := 0, waits := 0, attached := attached, placed := [],
                      refCode := none, refBad := false, lastStep := none, paced := s.now, fail := 0, num := s.recv.runs + 1 }
  (s.modRecv fun r => { r with cal := some c, lastTemp := r.dieTemp, runs := r.runs + 1 }).injectRefdiv c.num

/-- An automatic cause arises (R136 to R138, R144). -/
def State.calCause (s : State) (reason : Nat) : State :=
  if !s.pB K.calAuto then s
  else if s.bench then
    s.modRecv fun r => { r with waiting := if r.waiting.contains reason then r.waiting else reason :: r.waiting }
  else if s.recv.cal.isSome then s
  else if s.calAllowed && (nth false s.clk.locked 0 || 3 ≤ reason) then
    (s.modRecv fun r => { r with pending := none }).calStart reason [1, 2] []
  else if reason ≤ 2 then s.modRecv fun r => { r with pending := some (match r.pending with | some p => min p reason | none => reason) }
  else s

/-- A pending STARTUP or RESUME starts if it now can (R137). -/
def State.calTry (s : State) : State :=
  match s.recv.pending with
  | some r => if s.clk.mode ≥ 3 then s.calCause r else s
  | none => s

/-- Final response to every request attached to a run (R142). -/
def State.calAnswer (s : State) (c : CalRun) (st : Status) (result fail time : Nat) : State :=
  c.attached.foldl (fun s q =>
    if st == .ok then
      s.final q .ok (leBytes 1 result ++ leBytes 1 c.reason ++ leBytes 2 fail ++ leBytes 8 time)
    else s.final q st []) s

/-- A passed run's coefficients take effect at device time time (R135, R142). The tracker's corrections of its scopes, which count from the last passing run
(R132), begin again from none (assumption 104). -/
def State.calApply (s : State) (c : CalRun) (time : Nat) : State :=
  let rx := c.scopes.contains 1
  let tx := c.scopes.contains 2
  let s1 := s.modRecv fun r =>
    { r with corr := { coef1 := if rx then c.num else r.corr.coef1, coef2 := if tx then c.num else r.corr.coef2,
                       rx := if rx then [] else r.corr.rx, tx := if tx then (0, 0) else r.corr.tx },
             corrNext := none, coefNext := none }
  s1.calAnswer c .ok 0 0xFF00 time

/-- Coefficients that wait for a boundary take effect. -/
def State.calEffect (s : State) (time : Nat) : State :=
  match s.recv.coefNext with
  | some c => s.calApply c time
  | none => s

/-- The run ends with a result (R142). fail is the u16 fail reason. -/
def State.calFinish (s : State) (c : CalRun) (fail : Nat) : State :=
  let pass := fail == 0xFF00
  let s := if pass then s.calEffect s.dev else s
  let s := s.modRecv fun r =>
    { r with cal := none, lastResult := b2n (!pass), lastReason := c.reason, lastFail := fail, lastTime := s.dev,
             lastDone := c.done, lastSteps := c.steps, passed := r.passed || pass,
             trackHeld := if pass then false else r.trackHeld,
             retryAt := if !pass && c.reason != 3 then some (s.now + secT (s.p K.calRetryS)) else r.retryAt }
  if pass then
    -- R476: the STARTUP calibration of the boot under way is done
    let s := if c.reason == 1 && s.sys.bootStage == 14 then s.modSys fun y => { y with bootStage := 15 } else s
    if s.shots then s.modRecv fun r => { r with coefNext := some c } else s.calApply c s.dev
  else (s.health 4 0 fail 1).calAnswer c .ok 1 fail s.dev

/-- The run is ended by another event (R140): attached requests are ABORTED. -/
def State.calAbort (s : State) (keep : Bool) : State :=
  match s.recv.cal with
  | some c =>
    let s := s.modRecv fun r =>
      { r with cal := none, lastDone := c.done, lastSteps := c.steps, lastReason := c.reason,
               pending := if keep && c.reason ≤ 2 then some c.reason else r.pending }
    s.calAnswer c .aborted 0 0 0
  | none => s

/-- A fail reason of R142 with slot and lane (0xF: none). -/
def calFail (reason slot lane : Nat) : Nat := reason + 256 * (slot % 16) + 4096 * (lane % 16)

/-- At a shot-group boundary: place the run's next step in the group, or count a wait (R134). -/
def State.calPlace (s : State) : State :=
  match s.recv.cal with
  | none => s
  | some c =>
    if c.steps ≤ c.done + c.placed.length then s
    else match s.stepSpan c.slot with
      | some x => s.modRecv fun r => { r with cal := some { c with placed := c.placed ++ [x], waits := 0 } }
      | none =>
        let s := s.bump K.calPostponed
        if 64 ≤ c.waits + 1 then s.calFinish c (calFail 1 c.slot 15)
        else s.modRecv fun r => { r with cal := some { c with waits := c.waits + 1 } }

/-- Keys whose change restarts or ends a run (R140). -/
def calKeys : List Nat :=
  [K.synthToneMask, K.synthShotPeriodNs, K.synthChirpBwKhz, K.synthPulseNs, K.synthTaperPct, K.pceSpatialMode, K.pceBins]

/-- A COMMIT has taken effect: old is the set it replaced (R137, R140). -/
def State.calCommit (s : State) (old : PSet) : State :=
  if !calKeys.any (fun k => setGet old k != s.p k) then s
  else
    let s := if PS.drydown s.running < ((nsT 4000 : Nat) : Int) then s.calAbort true
      else s.modRecv fun r =>
        { r with cal := r.cal.map (fun c => { c with done := 0, waits := 0, placed := [], lastStep := none, fail := 0 }) }
    s.calTry

/-- The enabled lanes (R124). -/
def State.lanes (s : State) : List Nat := (List.range 4).filter (bit (s.p K.recvLaneEnable))

/-- Judgement of a run whose steps are all done (R139, R142), the enabled lanes on: the first fail reason in code order, with the lowest
lane that shows it. -/
def calJudge (c : CalRun) (x : CalResid) (lanes : List Nat) : Nat :=
  let rx := c.scopes.contains 1
  let tx := c.scopes.contains 2
  let refOk := match c.refCode with
    | some v => !c.refBad && 3288335 ≤ v && v ≤ 3422551
    | none => false
  let lane (l : Nat) : Resid := nth { gain := 0, ripple := 0, phase := 0, skew := 0, image := 60000, slot := 15 } x.rx l
  let flat (r : Resid) : Bool := 50 < r.gain || 100 < r.ripple || 500 < r.phase
  let rxBad (f : Resid → Bool) : Option Nat := if rx then lanes.find? (fun l => f (lane l)) else none
  if c.fail != 0 then c.fail
  else match rxBad (fun r => r.image < 60000), rxBad flat, rxBad (fun r => 2 < r.skew) with
    | some l, _, _ => calFail 3 (lane l).slot l
    | none, some l, _ => calFail 4 (lane l).slot l
    | none, none, skew =>
      if tx && x.tx.image < 60000 then calFail 5 x.tx.slot 15
      else if tx && flat x.tx then calFail 6 x.tx.slot 15
      else match skew with
        | some l => calFail 7 (lane l).slot l
        | none => if refOk then 0xFF00 else calFail 8 15 15

/-- The result of run num's REFDIV conversion arrives (R139); that of a run already ended is discarded (R134, R140). -/
def State.refdivArrived (s : State) (num : Nat) (code : Option Int) : State :=
  s.modRecv fun r =>
    { r with cal := r.cal.map (fun c =>
        if c.num == num then { c with refCode := some (code.getD 0), refBad := code.isNone } else c) }

/-- TRACKER_UPDATE (R124, R129 to R132). The tracker runs in MAINTAIN and FULL (assumption 104). -/
def execTrackerUpdate (t : Tick) (rx : List (List (Int × Int))) (tx : Int × Int) (found : Nat) (s : State) :
    Host.Outcome State Fault Refusal :=
  let s := s.advance t
  .next (
    if !s.rxPilotsOn || s.clk.mode < 3 then s
    else
      let s := s.modRecv fun r =>
        { r with pilotMiss := (List.range 7).map (fun b =>
                   if bit found b then none else match nth none r.pilotMiss b with | some a => some a | none => some s.now),
                 pilotRaised := (List.range 7).map (fun b => nth false r.pilotRaised b && !bit found b) }
      let lim : Int := (s.p K.calTrackLimitMdb : Nat)
      let far := s.lanes.any (fun l => (nth [] rx l).any (fun e =>
        lim < (e.1.natAbs : Int) || lim * 1000000 < (e.2.natAbs : Int) * 8686))
      if s.recv.trackHeld then s
      else if far then (s.modRecv fun r => { r with trackHeld := true, corrNext := none }).calCause 5
      else
        let cs := (s.rxCorrs rx, if s.txPilotsOn then (-tx.1, -tx.2) else s.recv.corr.tx)
        let s := s.modRecv fun r => { r with corrNext := some cs }
        if s.shots then s else s.corrEffect)

/-- PILOT_LOST (R132). -/
def execPilotLost (t : Tick) (boundary : Nat) (s : State) : Host.Outcome State Fault Refusal :=
  let s := s.advance t
  .next (match nth none s.recv.pilotMiss boundary with
    | some a =>
      if a + msT 100 ≤ s.now && !nth false s.recv.pilotRaised boundary && s.rxPilotsOn && 3 ≤ s.clk.mode then
        ((s.modRecv fun r =>
          { r with trackHeld := true, corrNext := none,
                   pilotRaised := modAt (fun _ => true) r.pilotRaised boundary }).health 5 boundary 0 0xFF).calCause 5
      else s
    | none => s)

/-- CAL_TEMP_CHECK (R136). -/
def execCalTempCheck (t : Tick) (temp : Int) (s : State) : Host.Outcome State Fault Refusal :=
  let s := (s.advance t).modRecv fun r => { r with dieTemp := temp }
  .next (if (s.p K.calTempDelta : Int) < ((temp - s.recv.lastTemp).natAbs : Int) && s.clk.mode ≥ 3 then s.calCause 4 else s)

/-- CAL_RETRY (R136). -/
def execCalRetry (t : Tick) (s : State) : Host.Outcome State Fault Refusal :=
  let s := s.advance t
  .next (match s.recv.retryAt with
    | some a => if a ≤ s.now then (s.modRecv fun r => { r with retryAt := none }).calCause 6 else s
    | none => s)

/-- What a step reports for slot (R142), the enabled lanes on: a stimulus more than 3 dB from its expected level, or a receive pilot
lost; 0: no failure. -/
def State.stepFail (s : State) (slot : Nat) (level : List Int) : Nat :=
  match s.lanes.find? (fun l => 3000 < (nth 0 level l).natAbs) with
  | some l => calFail 2 slot l
  | none => if s.rxPilotsOn && s.recv.pilotRaised.any id then calFail 9 15 15 else 0

/-- CAL_STEP (R133 to R135, R142): the oldest placed step runs, or while no shots launch the next one 50 µs after the last. -/
def execCalStep (t : Tick) (level : List Int) (s : State) : Host.Outcome State Fault Refusal :=
  let s := s.advance t
  .next (match s.recv.cal with
    | none => s
    | some c =>
      let fail := if c.fail == 0 then s.stepFail (c.done % 8) level else c.fail
      let step (c : CalRun) : State :=
        ((s.modRecv fun r =>
          { r with cal := some { c with done := c.done + 1, lastStep := some s.now, fail := fail } })).perfEvent 0x0302 0xFF 0xFF 1
      match c.placed with
      | x :: rest => if x + nsT 3000 ≤ s.now then step { c with placed := rest } else s
      | [] =>
        if !s.shots && s.gatesQuiet && c.done < c.steps && c.paced + usT 50 ≤ s.now then
          step { c with paced := s.now, waits := 0 }
        else s)

/-- CAL_RUN_END (R139, R142): every step is done and the REFDIV result has arrived. -/
def execCalRunEnd (t : Tick) (resid : CalResid) (s : State) : Host.Outcome State Fault Refusal :=
  let s := s.advance t
  .next (match s.recv.cal with
    | none => s
    | some c => if c.steps ≤ c.done && c.refCode.isSome then s.calFinish c (calJudge c resid s.lanes) else s)

/-- REFDIV_TIMEOUT (R139). -/
def execRefdivTimeout (t : Tick) (s : State) : Host.Outcome State Fault Refusal :=
  let s := s.advance t
  .next (match s.recv.cal with
    | none => s
    | some c =>
      match c.lastStep with
      | some a =>
        if c.steps ≤ c.done && c.refCode.isNone && a + msT 500 ≤ s.now then s.calFinish c (calFail 8 15 15) else s
      | none => s)

/-! Self-test (R143, R144). -/

/-- Items of a test over these slots. -/
def State.testItems (s : State) (kind : Nat) (slots : List Nat) : List (Nat × Nat) :=
  let one := s.p K.recvLaneEnable != 0xF
  let checks := (if one then [0, 1, 2, 3, 4] else [0, 1, 2, 3, 4, 5])
  (slots.flatMap fun k =>
    (checks.map fun c => (k * 16 + c, 16)) ++
    (if kind == 1 then [(k * 16 + 8, 16), (k * 16 + 9, 1), (k * 16 + 10, 1)] else [])) ++
  (if kind == 1 then [(0x010B, 1), (0x010D, 1)] else [])

/-- The test ends with its response (R143), and causes that waited for a bench test arise (R144). -/
def State.testFinish (s : State) (x : SelfTest) (failed : Option Nat) : State :=
  let s := s.modRecv fun r => { r with selftest := none }
  let s := s.final x.who .ok (leBytes 1 (b2n failed.isSome) ++ leBytes 1 0 ++ leBytes 2 (failed.getD 0xFFFF) ++ leBytes 4 x.ran)
  match s.recv.waiting.min? with
  | some r => (s.modRecv fun y => { y with waiting := [] }).calCause r
  | none => s

/-- Entry to VIGIL ends a test (R144). -/
def State.testAbort (s : State) : State :=
  match s.recv.selftest with
  | some x => (s.modRecv fun r => { r with selftest := none, waiting := [] }).final x.who .aborted []
  | none => s

/-- The item that step n of those still to run belongs to. -/
def stepItem : List (Nat × Nat) → Nat → Option Nat
  | [], _ => none
  | (item, left) :: rest, n => if n < left then some item else stepItem rest (n - left)

/-- At a shot-group boundary, after the calibration step: place the live test's next step, or count a wait (R134). -/
def State.testPlace (s : State) (calSlot : Option Nat) : State :=
  match s.recv.selftest with
  | none => s
  | some x =>
    match stepItem x.items x.placed.length with
    | none => s
    | some item =>
      if x.kind != 0 then s
      else
        let slot := item / 16
        let place := if calSlot == some slot then none else s.stepSpan slot
        match place with
        | some p => s.modRecv fun r => { r with selftest := some { x with placed := x.placed ++ [p], waits := 0 } }
        | none =>
          if 64 ≤ x.waits + 1 then s.testFinish x (some item)
          else s.modRecv fun r => { r with selftest := some { x with waits := x.waits + 1 } }

/-- The pass condition of one step of an item on what it measured (R143); check 4 is judged over its 16 steps. -/
def State.blotterPass (s : State) (item : Nat) (m : Blotter) : Bool :=
  if item == 0x010B then m.raman.all (fun x => x.natAbs ≤ 20000)
  else if item == 0x010D then m.stamp.natAbs ≤ 50
  else match item % 16 with
    | 0 => m.level.natAbs ≤ 3000
    | 1 => m.peak.natAbs ≤ 50
    | 2 => m.width * 100 ≤ 105 * PS.mainlobePs s.running
    | 3 => (m.psl - PS.pslMdb s.running).natAbs ≤ 1000
    | 4 => true
    | 5 => m.xy.natAbs ≤ 500
    | 8 => m.leak.all (fun x => 85000 ≤ x)
    | 9 => s.lanes.all (fun l => bit m.ovr l)
    | _ => m.level.natAbs ≤ 3000 && 1 ≤ m.clips

/-- Phases stable to 0.01 rad rms about their mean (R143). -/
def phaseStable (xs : List Int) : Bool :=
  let n : Int := xs.length
  n * (xs.map (fun x => x * x)).sum - xs.sum * xs.sum ≤ n * n * 100000000

/-- BLOTTER_STEP (R133, R134, R143): one step of the current item. -/
def execBlotterStep (t : Tick) (m : Blotter) (s : State) : Host.Outcome State Fault Refusal :=
  let s := s.advance t
  .next (match s.recv.selftest with
    | none => s
    | some x =>
      match x.items with
      | [] => s
      | (item, left) :: rest =>
        let step (x : SelfTest) : State :=
          let phases := m.phase :: x.phases
          let last := decide (left ≤ 1)
          let pass := s.blotterPass item m && (!(last && item < 0x0100 && item % 16 == 4) || phaseStable phases)
          let failed := if pass then x.failed else match x.failed with | some f => some f | none => some item
          let y := if last then { x with items := rest, ran := x.ran + 1, failed := failed, waits := 0, phases := [] }
            else { x with items := (item, left - 1) :: rest, failed := failed, phases := phases }
          let s := (s.modRecv fun r => { r with selftest := some y }).perfEvent 0x0302 0xFF 0xFF 1
          if x.kind == 1 then s.apdApply else s
        match x.placed with
        | p :: more => if p + nsT 3000 ≤ s.now then step { x with placed := more } else s
        | [] => if !s.shots && s.gatesQuiet && x.paced + usT 50 ≤ s.now then step { x with paced := s.now } else s)

/-- SELFTEST_END (R143). -/
def execSelftestEnd (t : Tick) (s : State) : Host.Outcome State Fault Refusal :=
  let s := s.advance t
  .next (match s.recv.selftest with
    | some x => if x.items.isEmpty then s.testFinish x x.failed else s
    | none => s)

/-! Requests. -/

/-- CAL_REQUEST (R136 to R138, R144). -/
def State.calRequest (s : State) (q : Req) : State :=
  s.gate q 0x0020 cOperate true fun s id =>
    if payLen q != 4 || payU q 1 3 != 0 || 2 < payU q 0 1 then s.final id .range []
    else if !s.calAllowed || s.bench then s.final id .state []
    else
      let s := s.takes id
      let want := calScopes (payU q 0 1)
      match s.recv.cal with
      | none => s.calStart 3 want [id]
      | some c =>
        s.modRecv fun r =>
          { r with cal := some { c with scopes := c.scopes ++ want.filter (fun x => !c.scopes.contains x),
                                        attached := c.attached ++ [id] } }

/-- CAL_REQUEST. -/
def execCalRequest (t : Tick) (q : Req) (s : State) : Host.Outcome State Fault Refusal :=
  .next ((s.advance t).calRequest q)

/-- CAL_STATUS (R142). -/
def State.calStatus (s : State) (q : Req) : State :=
  s.gate q 0x0021 cObserve true fun s id =>
    if payLen q != 0 then s.final id .range []
    else
      let r := s.recv
      let (run, reason, done, steps) := match r.cal with
        | some c => (1, c.reason, c.done, c.steps)
        | none => (0, r.lastReason, r.lastDone, r.lastSteps)
      s.ok id (leBytes 1 run ++ leBytes 1 r.lastResult ++ leBytes 1 reason ++ leBytes 1 0 ++ leBytes 8 r.lastTime ++
        leBytes 2 done ++ leBytes 2 steps)

/-- CAL_STATUS. -/
def execCalStatus (t : Tick) (q : Req) (s : State) : Host.Outcome State Fault Refusal :=
  .next ((s.advance t).calStatus q)

/-- SELFTEST (R51, R143, R144). -/
def State.selftest (s : State) (q : Req) : State :=
  s.gate q 0x0022 cOperate (q.payload.isEmpty || payU q 0 1 != 1 || s.holds q.mb cMaintain) fun s id =>
    if payLen q != 4 || payU q 1 3 != 0 || 1 < payU q 0 1 then s.final id .range []
    else
      let kind := payU q 0 1
      if kind == 1 && s.run.state != 0 then s.final id .state []
      else if s.clk.mode < 3 then s.final id .state []
      else if kind == 1 && s.recv.cal.isSome then s.final id .state []
      else if s.recv.selftest.isSome then s.final id .busy []
      else
        let slots := if s.shots then PS.tones s.running else List.range 8
        (s.takes id).modRecv fun r =>
          { r with selftest := some { who := id, kind := kind, items := s.testItems kind slots, ran := 0, failed := none,
                                      waits := 0, placed := [], paced := s.now, phases := [] } }

/-- SELFTEST. -/
def execSelftest (t : Tick) (q : Req) (s : State) : Host.Outcome State Fault Refusal :=
  .next ((s.advance t).selftest q)

end Sys2Proof.Machine
end

