-- ==== Sys2Proof/Machine/Pce.lean ====
section
/-!
DEFINITION. The shots of the pulse-compression engine: diversity, gauge differencing and unwrapping (chapter 06), the stitcher (chapter 07), the
amplitude profile in the making (R269), and rows on their way into the acquisition elastic buffer (R26, R217).
-/
namespace Sys2Proof.Machine

/-! One bin (R160 to R165, R173 to R180). -/

/-- a of R164. -/
def amplitude (p : Nat) : Nat :=
  if p = 0 then 0 else satU 15 (rdivI (2560 * lnFx p 1) ln10Fx)

/-- Power average update (R160). -/
def pbarNext (old : Option Nat) (p : Nat) (a : Nat) : Nat :=
  match old with
  | none => p
  | some v => ((v : Int) + ((p : Int) - v) / (2 ^ a : Int)).toNat

/-- Unit phasor of y × conj(z), in 2^-40; 0 for 0 (R161). -/
def unitPhasor (y z : Cplx) : Cplx :=
  let re := y.1 * z.1 + y.2 * z.2
  let im := y.2 * z.1 - y.1 * z.2
  let m := isqrtR ((re * re + im * im).toNat * 2 ^ 32)
  if m = 0 then (0, 0) else (rdivEven (re * 2 ^ 56) m, rdivEven (im * 2 ^ 56) m)

/-- Weight of X in 1/65,536 (R161): exact with s_x and s_y as rationals. -/
def weightX (px pxg py pyg : Nat) : Nat :=
  -- s = p pg / (p + pg); w = sx / (sx + sy)
  let nx := px * pxg * (py + pyg)
  let ny := py * pyg * (px + pxg)
  if px + pxg = 0 ∧ py + pyg = 0 then 32768
  else if px + pxg = 0 then (if py * pyg = 0 then 32768 else 0)
  else if py + pyg = 0 then (if px * pxg = 0 then 32768 else 65536)
  else if nx + ny = 0 then 32768
  else rdiv (nx * 65536) (nx + ny)

/-- wrap() of R165 and R175: into [−2^19, 2^19). -/
def wrap20 (x : Int) : Int := sext 20 (uns 20 x)

/-- θ' (R175). -/
def thetaR (t : Int) : Int := (t + 32768) / 65536

/-- What a shot brings to one bin: phase (none: D is 0, a free value is taken), coherence, amplitude, amplitude of b − G. -/
structure BinIn where
  phase : Int
  coh   : Nat
  amp   : Nat
  ampG  : Nat
  deriving DecidableEq, Repr

/-- q of R173. -/
def score (ps : PSet) (x : BinIn) : Nat :=
  let m := min x.amp x.ampG
  let fl := PS.g ps K.stitchAmpFloor
  let gv := if m ≤ fl then 0 else min ((m - fl) * 65536 / PS.g ps K.stitchAmpSpan) 65535
  x.coh * gv / 65536

/-- alpha24 (R176). -/
def PS.alpha24 (ps : PSet) : Nat := rdiv (g ps K.synthShotPeriodNs * 16777216) (g ps K.stitchTrackTauMs * 1000000)

def binTone (x : BinState) (k : Nat) : BinTone := nth {} x.tones k

def modTone (x : BinState) (k : Nat) (f : BinTone → BinTone) : BinState :=
  { x with tones := modAt f ((List.range 8).map (binTone x)) k }

/-- Offsets after an accepted shot of tone k (R176). -/
def offsetUpdate (ps : PSet) (x : BinState) (k q : Nat) (e : Int) : BinState :=
  let acc := (binTone x k).accepted
  let n := min (acc + 1) 65535
  let a := max (PS.alpha24 ps) (16777216 / n)
  let d := ((a * q : Nat) : Int) * e / 2 ^ 24
  let x := modTone x k fun t => { t with theta := t.theta + d, accepted := acc + 1 }
  let cut := Int.tdiv d (PS.nTones ps : Nat)
  (PS.tones ps).foldl (fun x j => modTone x j fun t => { t with theta := sext 48 (uns 48 (t.theta - cut)) }) x

/-- Slope in use (R179). -/
def BinState.slopeUsed (x : BinState) (ps : PSet) : Int :=
  if PS.g ps K.stitchPredictRun ≤ x.predRun then 0 else (x.slope + 128) / 256

/-- Change the bin's counts of interval ivl (R181): of its newest interval, of the one before it, or of a new one. -/
def BinState.tally (x : BinState) (ivl : Nat) (f : BinIvl → BinIvl) : BinState :=
  if x.cur.num == ivl then { x with cur := f x.cur }
  else if x.old.num == ivl then { x with old := f x.old }
  else { x with cur := f { num := ivl }, old := x.cur }

/-- The bin's counts of interval ivl. -/
def BinState.counts (x : BinState) (ivl : Nat) : BinIvl :=
  if x.cur.num == ivl then x.cur else if x.old.num == ivl then x.old else {}

/-- A predicted sample (R178): the bin's newest sample and slope; with no sample yet, a FREE VALUE. -/
def predict (ps : PSet) (x : BinState) (ivl fresh : Nat) : BinState × Int :=
  let v := match x.sLast with
    | some v => v + x.slopeUsed ps
    | none => sext 32 (Config.free fresh)
  let x := x.tally ivl fun c => { c with samples := c.samples + 1, predicted := c.predicted + 1 }
  ({ x with sLast := some (sext 32 (uns 32 v)), predRun := x.predRun + 1 }, v)

/-- A sample that is not predicted (R179). -/
def stitched (ps : PSet) (x : BinState) (ivl : Nat) (v : Int) : BinState :=
  let m := match x.sLast with
    | some l => x.slope + (sext 32 (uns 32 (v - l)) * 256 - x.slope) / (2 ^ PS.g ps K.stitchSlopeLog2 : Int)
    | none => x.slope
  let x := x.tally ivl fun c => { c with samples := c.samples + 1 }
  { x with sLast := some (sext 32 (uns 32 v)), slope := m, predRun := 0 }

def bumpAt (xs : List Nat) (k n : Nat) : List Nat := modAt (· + n) ((List.range 8).map (nth 0 xs)) k

/-- Consensus value of a group (R175): tones as (slot, q, Φ − θ', amplitude); a FREE VALUE where every weight is 0. -/
def consensusStep (g : List (Nat × Nat × Int × Nat)) (last : Int) (floor fresh : Nat) : Option Int :=
  let ok := g.filter (fun e => floor ≤ e.2.1)
  let den := (ok.map (·.2.1)).sum
  if ok.isEmpty then none
  else if den == 0 then some (sext 32 (Config.free fresh))
  else some (last + rdivAway ((ok.map (fun e => (e.2.1 : Int) * wrap20 (e.2.2.1 - last))).sum) den)

/-- What one shot does in one bin: the new bin state, the sample it gives (none in consensus before the group's last tone),
its amplitude, whether it is predicted, and whether its increment counts under R166. -/
structure BinOut where
  st   : BinState
  sample : Option (Int × Nat × Bool)
  slip : Bool
  deriving DecidableEq, Repr

/-- A shot of slot k in a bin that is not an edge bin. skip: it belongs to the rest of a shot group whose samples are not stored after
a change to consensus (R214); it is unwrapped as in interleave and gives no sample, so that the first consensus sample takes the last
interleave sample as its own last (R180). -/
def binShot (j : ShotJob) (k : Nat) (cons lastTone skip : Bool) (slipWarn fresh : Nat) (x : BinState) (i : BinIn) : BinOut :=
  let ps := j.ps
  let t := binTone x k
  let cons := cons && !skip
  let floor := PS.g ps K.stitchFadeFloor
  let q := if j.displaced then 0 else score ps i
  let faded := j.displaced || q < floor
  let ref? : Option Int := match t.phi with
    | none => none
    | some p => if cons then some (sext 32 p) else some (match x.sLast with | some v => v + thetaR t.theta | none => sext 32 p)
  let inc := match ref? with | some r => wrap20 (i.phase - r) | none => 0
  let phi : Int := match ref? with | some r => r + inc | none => i.phase
  let slip := !j.displaced && ref?.isSome && slipWarn * 16 ≤ inc.natAbs
  let x := if j.displaced then x else modTone x k fun t => { t with phi := some (uns 32 phi) }
  -- s(g − 1) of a bin that has no sample yet is a FREE VALUE
  let before := x.sLast.getD (sext 32 (Config.free fresh))
  let sRef := if cons then some before else x.sLast
  let base := phi - thetaR t.theta
  let x := if j.displaced then x
    else x.tally j.ivl fun c =>
      { c with counted := bumpAt c.counted k 1, faded := bumpAt c.faded k (b2n faded), qSum := bumpAt c.qSum k q }
  let learn (x : BinState) : BinState :=
    if faded then x else offsetUpdate ps x k q (match sRef with | some r => wrap20 (base - r) | none => 0)
  if skip then { st := learn x, sample := none, slip := slip }
  else if !cons then
    if faded then
      let y := predict ps x j.ivl fresh
      { st := y.1, sample := some (y.2, i.amp, true), slip := slip }
    else { st := learn (stitched ps x j.ivl base), sample := some (base, i.amp, false), slip := slip }
  else
    let x := { learn x with group := x.group ++ (if j.displaced then [] else [(k, q, base, i.amp)]) }
    if !lastTone then { st := x, sample := none, slip := slip }
    else
      let best := x.group.foldl (fun (b : Option (Nat × Nat)) e =>
        match b with
        | none => some (e.2.1, e.2.2.2)
        | some v => if v.1 < e.2.1 then some (e.2.1, e.2.2.2) else some v) none
      let amp := match best with | some v => v.2 | none => i.amp
      match consensusStep x.group before floor fresh with
      | some v => { st := { stitched ps x j.ivl v with group := [] }, sample := some (v, amp, false), slip := slip }
      | none =>
        let y := predict ps x j.ivl fresh
        { st := { y.1 with group := [] }, sample := some (y.2, amp, true), slip := slip }

/-- The word of a top-note sample (R168); phase in 2π/2^20. -/
def sampleWord (phase : Int) (amp : Nat) (pred : Bool) : Nat :=
  uns 16 (rdivEven phase 16) + 65536 * amp + 2 ^ 31 * b2n pred

/-! A shot across bins, as a walk with accumulators. -/

/-- What the walk over bins carries. -/
structure Walk where
  bins : List (Nat × BinState)
  /-- samples of the row in the making -/
  row  : List Nat
  slips : Nat
  pred : Nat
  ampSum : Nat
  ampCnt : Nat
  fresh : Nat
  predTotal : Nat
  slipTotal : Nat
  deriving Repr

/-- A bin's state in an epoch of R167. -/
def binAt (bins : List (Nat × BinState)) (epoch b : Nat) : BinState :=
  let x := aget {} bins b
  if x.epoch == epoch then x else { epoch := epoch }

/-- One bin of a shot of slot k. y gives the two polarisations of a bin. -/
def walkBin (j : ShotJob) (k : Nat) (cons lastTone skip : Bool) (slipWarn : Nat) (y : Nat → Cplx × Cplx) (w : Walk)
    (b : Nat) : Walk :=
  let ps := j.ps
  let gauge := PS.g ps K.pceGauge
  let lanes := PS.g ps K.recvLaneEnable
  let useX := lanes % 4 == 3
  let useY := lanes / 4 == 3
  let v := y b
  let p (y : Cplx × Cplx) : Nat := (if useX then mag2 y.1 else 0) + (if useY then mag2 y.2 else 0)
  let amp := amplitude (p v)
  let div := PS.g ps K.pceDivLog2
  let x := binAt w.bins j.epoch b
  let x := if j.displaced then x
    else modTone x k fun t =>
      { t with pbarX := if useX then some (pbarNext t.pbarX (mag2 v.1) div) else t.pbarX,
               pbarY := if useY then some (pbarNext t.pbarY (mag2 v.2) div) else t.pbarY }
  let prof := if j.displaced then w else { w with ampSum := w.ampSum + amp, ampCnt := w.ampCnt + 1 }
  if b < gauge then
    let word := sampleWord 0 amp true
    let x := { x with group := if lastTone then [] else x.group ++ (if j.displaced then [] else [(k, 0, 0, amp)]) }
    let first := match (binAt w.bins j.epoch b).group.head? with | some e => e.2.2.2 | none => amp
    let put := if skip || (cons && !lastTone) then w.row
      else w.row ++ [if cons then sampleWord 0 first true else word]
    { w with bins := aput b x w.bins, row := put }
  else
    let u := y (b - gauge)
    let z := binAt w.bins j.epoch (b - gauge)
    let px := (binTone x k).pbarX.getD 0
    let py := (binTone x k).pbarY.getD 0
    let gx := (binTone z k).pbarX.getD 0
    let gy := (binTone z k).pbarY.getD 0
    let wx := if useX && useY then weightX px gx py gy else if useX then 65536 else 0
    let a := unitPhasor v.1 u.1
    let c := unitPhasor v.2 u.2
    let re := (wx : Int) * a.1 + (65536 - (wx : Int)) * c.1
    let im := (wx : Int) * a.2 + (65536 - (wx : Int)) * c.2
    let zero := re == 0 && im == 0
    let phase : Int := if zero then sext 20 (Config.free w.fresh) else rdivEven (atan2x im re * 2 ^ 20) (2 * piX)
    let coh := min 65535 (rdiv (isqrtR ((re * re + im * im).toNat)) (2 ^ 40))
    let o := binShot j k cons lastTone skip slipWarn (w.fresh + 1) x
      { phase := phase, coh := coh, amp := amp, ampG := amplitude (p u) }
    let pr := match o.sample with | some s => b2n s.2.2 | none => 0
    let row := match o.sample with
      | some s => w.row ++ [sampleWord s.1 s.2.1 s.2.2]
      | none => w.row
    { prof with bins := aput b o.st w.bins, row := row, slips := w.slips + b2n o.slip, pred := w.pred + pr,
                fresh := w.fresh + 2, predTotal := w.predTotal + pr, slipTotal := w.slipTotal + b2n o.slip }

/-! Column groups changing mode (R172, R180, R183, R214). -/

/-- A zone holds its column groups in consensus. -/
def State.groupWants (s : State) (j : Nat) : Bool :=
  s.zones.any fun e =>
    match e.2.desc with
    | some d =>
      let b := PS.zoneBins s.running d
      e.2.effCons && 64 * j ≤ b.2 && b.1 ≤ 64 * j + 63
    | none => false

/-- The set of R211 that holds group j, in consensus if any member is. -/
def State.setWants (s : State) (j : Nat) : Bool :=
  (PS.setGroups s.running (PS.setHead s.running j)).any s.groupWants

/-- Slopes at a change of mode: multiplied by N on entry, divided by N on return, to nearest (R180). -/
def slopeChange (n : Nat) (toCons : Bool) (x : BinState) : BinState :=
  { x with slope := if toCons then x.slope * (n : Int) else rdivAway x.slope n, group := [] }

/-- The effective mode of a zone has taken effect at device time time (R185): no column group of it waits any more. -/
def State.modeTaken (s : State) (z time : Nat) : State :=
  s.modZone z fun x => { x with lastChange := time, changing := false }

/-- A zone's column groups wait to change their mode (R183). -/
def State.modePending (s : State) (d : ZoneDesc) : Bool :=
  let js := PS.zoneGroups s.running d
  s.pce.modeNext.any (fun e => js.contains e.1)

/-- A column group changes mode at the tile boundary at device time time; skip is the shot group whose remaining samples are not
stored, and how many. -/
def State.switchGroup (s : State) (j : Nat) (toCons : Bool) (time : Nat) (skip : Option (Nat × Nat)) : State :=
  let n := PS.nTones s.running
  let s := s.modPce fun p =>
    { p with cons := if toCons then (if p.cons.contains j then p.cons else j :: p.cons) else p.cons.filter (· != j),
             modeNext := p.modeNext.filter (fun e => e.1 != j),
             bins := p.bins.map (fun e => if e.1 / 64 == j then (e.1, slopeChange n toCons e.2) else e),
             skipShot := match skip with | some v => aput j v.1 p.skipShot | none => p.skipShot }
  let s := s.modSill fun x =>
    { x with modeChanged := if x.modeChanged.contains j then x.modeChanged else j :: x.modeChanged,
             skipNext := match skip with | some v => aput j v.2 x.skipNext | none => x.skipNext }
  s.definedZones.foldl (fun s z =>
    match (s.zone z).desc with
    | some d =>
      let b := PS.zoneBins s.running d
      if (s.zone z).changing && 64 * j ≤ b.2 && b.1 ≤ 64 * j + 63 then
        if s.modePending d then s.modZone z fun x => { x with lastChange := time } else s.modeTaken z time
      else s
    | none => s) s

/-- The number of the tile with which group j could change its mode: the next one, or the present one where no row of it is made. -/
def State.nextTile (s : State) (j : Nat) : Nat := aget 0 s.pce.tileNo j + b2n (aget 0 s.pce.rowCnt j != 0)

/-- The zones' effective modes have changed: each group whose mode under R172 differs changes with the first tile that no member of
its set has begun, the same for every member (R183, R211). A zone none of whose groups changes has its mode in effect at once. -/
def State.planModes (s : State) : State :=
  let ps := s.running
  let changes := (List.range (PS.groups ps)).filterMap fun j =>
    if s.setWants j != s.inCons j then
      let set := PS.setGroups ps (PS.setHead ps j)
      some (j, s.setWants j, (set.map s.nextTile).foldl max 0)
    else none
  let s := s.modPce fun p => { p with modeNext := changes }
  s.definedZones.foldl (fun s z =>
    match (s.zone z).desc with
    | some d => if (s.zone z).changing && !s.modePending d then s.modeTaken z s.dev else s
    | none => s) s

/-- Before a shot reaches a column group: a change that waits takes effect where no row of the tile it begins with is made
(R183), at the instant of that row. A change to consensus within a shot group leaves its remaining samples out (R214). -/
def State.modeDue (s : State) (j : Nat) (x : ShotJob) : State :=
  match s.pce.modeNext.find? (fun e => e.1 == j) with
  | some (_, cons, tile) =>
    if aget 0 s.pce.rowCnt j == 0 && tile ≤ aget 0 s.pce.tileNo j then
      let first := if cons then PS.consInstant x.ps (if x.pos == 0 then x.boundary else x.boundary + PS.period x.ps) else x.launch
      s.switchGroup j cons (s.devRound first) (if cons && x.pos != 0 then some (x.shot, PS.nTones s.running - x.pos) else none)
    else s
  | none => s

/-! Rows into the elastic buffer (R26, R217). -/

/-- Bytes of rows waiting. -/
def State.elasticBytes (s : State) : Nat := 256 * s.sill.elastic.length

/-- The exact interval between the rows of a tile (R214, R513). -/
def Row.step (r : Row) : Tick := if r.cons then PS.period r.ps else PS.stagger r.ps

/-- Device time just after a row (R218, R513). -/
def State.rowEnd (s : State) (r : Row) : Nat := s.devRound (r.instant + r.step)

/-- Rows of a row's group, epoch and mode are of one series of tiles. -/
def Tile.joins (t : Tile) (r : Row) : Bool := t.group == r.group && t.epoch == r.epoch && t.cons == r.cons && t.samples < 256

/-- The row belongs to the open tile. -/
def Tile.takes (t : Tile) (r : Row) : Bool := t.joins r && !t.dropped

/-- A row's tile drops (R217): its waiting rows go, and its later rows are discarded as they arrive. Rows that wait for the tile
before it stay. A tile that has not opened yet opens dropped, without a slot. -/
def State.dropTile (s : State) (r : Row) : State :=
  let mine (x : Row) : Bool := x.group == r.group && x.epoch == r.epoch && x.cons == r.cons
  let waiting := s.sill.elastic.filter mine
  let written := match s.sill.openTiles.find? (fun t => t.takes r) with | some t => t.samples | none => 0
  -- rows that wait and fall into an earlier tile than the row that found no room
  let stay := (written + waiting.length) / 256 * 256 - written
  let lost := waiting.drop stay
  let head := lost.head?.getD r
  let own := written != 0 && written + waiting.length < 256
  let fresh (t : Tile) : Tile :=
    { t with dropped := true, samples := t.samples + lost.length + 1, lastTick := r.instant, stopTime := s.rowEnd r }
  let new : Tile :=
    { group := r.group, pos := 0, startTick := head.instant, startTime := s.devRound head.instant, firstShot := head.shot,
      columns := r.samples.length, samples := lost.length + 1, cons := r.cons, epoch := r.epoch,
      toneMask := PS.g r.ps K.synthToneMask, skipped := 0,
      period256 := PS.rowPeriod256 r.ps r.cons, subst := 0, ovr := 0, slip := 0, predicted := 0,
      seq := 0, flags := 0, slotOf := [], dropped := true, step := r.step, lastTick := r.instant, stopTime := s.rowEnd r,
      closedAt := 0,
      read := false, settled := false }
  let keep (acc : List Row × Nat) (x : Row) : List Row × Nat :=
    if mine x then (if acc.2 < stay then (acc.1 ++ [x], acc.2 + 1) else (acc.1, acc.2 + 1)) else (acc.1 ++ [x], acc.2)
  let s := s.modSill fun x =>
    { x with elastic := (x.elastic.foldl keep ([], 0)).1,
             openTiles := if own then x.openTiles.map (fun t => if t.takes r then fresh t else t) else x.openTiles ++ [new] }
  let quiet := match s.sill.lastDrop with | some a => decide (a + secT 1 < s.now) | none => true
  let s := (s.modSill fun x => { x with lastDrop := some s.now }).bump K.chanDroppedTiles
  if quiet then s.health 10 0 0 1 else s

/-- A row arrives at the elastic buffer. -/
def State.rowArrives (s : State) (r : Row) : State :=
  let gone (t : Tile) : Bool := t.joins r && t.dropped
  if s.sill.openTiles.any gone then
    s.modSill fun x =>
      { x with openTiles := x.openTiles.map (fun t =>
          if gone t then { t with samples := t.samples + 1, lastTick := r.instant, stopTime := s.rowEnd r } else t) }
  else if 262144 < s.elasticBytes + 256 then s.dropTile r
  else
    let s := s.modSill fun x => { x with elastic := x.elastic ++ [r] }
    let peak := (s.ctr K.chanElasticPeak).val
    if peak < s.elasticBytes then s.count K.chanElasticPeak (s.elasticBytes - peak) else s

/-- A column group's row is made: it counts toward the group's tile, at whose end a waiting change takes effect
(R183, R214). A row of a tile that closed early at a boundary counts toward no other. -/
def State.rowMade (s : State) (r : Row) (pos : Nat) : State :=
  let c := aget 0 s.pce.rowCnt r.group + 1
  let s := s.rowArrives r
  if r.epoch != s.pce.tileEpoch then s
  else if c < 256 then s.modPce fun p => { p with rowCnt := aput r.group c p.rowCnt }
  else
    let tile := aget 0 s.pce.tileNo r.group + 1
    let s := s.modPce fun p => { p with rowCnt := aput r.group 0 p.rowCnt, tileNo := aput r.group tile p.tileNo }
    match s.pce.modeNext.find? (fun e => e.1 == r.group) with
    | some (_, cons, at_) =>
      let left := PS.nTones r.ps - 1 - pos
      if at_ ≤ tile then
        s.switchGroup r.group cons (s.rowEnd r) (if cons && !r.cons && left != 0 then some (r.shot, left) else none)
      else s
    | none => s

/-- Key of a shot group's part of the amplitude profile in a column group (R269). -/
def profKey (shot grp : Nat) : Nat := 4096 * shot + grp

/-- The bins lo to hi − 1 of one column group, for a shot of slot k. -/
def State.walkGroup (s : State) (j : ShotJob) (k grp lo hi : Nat) (y : Nat → Cplx × Cplx) : State :=
  let s := if lo == 64 * grp && j.tileEpoch == s.pce.tileEpoch then s.modeDue grp j else s
  let cons := s.inCons grp
  let skip := s.pce.skipShot.contains (grp, j.shot)
  let lastTone := j.pos + 1 == PS.nTones j.ps
  let w0 : Walk := { bins := s.pce.bins, row := nth [] s.pce.part k, slips := nth 0 s.pce.partSlips k, pred := 0,
                     ampSum := 0, ampCnt := 0, fresh := s.fresh, predTotal := 0, slipTotal := 0 }
  let w := ((List.range (hi - lo)).map (· + lo)).foldl (walkBin j k cons lastTone skip (s.p K.pceSlipWarn) y) w0
  let s := { s with fresh := w.fresh }
  let s := s.modPce fun p =>
    { p with bins := w.bins, part := modAt (fun _ => w.row) p.part k, partSlips := modAt (fun _ => w.slips) p.partSlips k,
             profSum := if w.ampCnt == 0 then p.profSum else aput (profKey j.shot grp) (aget 0 p.profSum (profKey j.shot grp) + w.ampSum) p.profSum,
             profCnt := if w.ampCnt == 0 then p.profCnt else aput (profKey j.shot grp) (aget 0 p.profCnt (profKey j.shot grp) + w.ampCnt) p.profCnt }
  let s := ((s.count K.stitchPredictedCount w.predTotal).count K.pceSlipCount w.slipTotal).perfEvent 0x0402 0xFF 0xFF w.predTotal
  let s := s.perfEvent 0x0403 0xFF 0xFF w.slipTotal
  let full := hi == min (64 * grp + 64) (PS.g j.ps K.pceBins)
  if !full then s
  else
    let seen : ConsRow := match s.pce.consRows.find? (fun e => e.1 == grp) with
      | some e => if e.2.epoch == j.epoch && e.2.shot == j.shot && cons then e.2
        else { epoch := j.epoch, shot := j.shot, slips := 0, subst := 0, ovr := 0 }
      | none => { epoch := j.epoch, shot := j.shot, slips := 0, subst := 0, ovr := 0 }
    let all : ConsRow :=
      { seen with slips := seen.slips + w.slips, subst := seen.subst + b2n j.subst, ovr := seen.ovr + b2n j.ovr }
    let row : Row :=
      { group := grp, slot := if cons then 8 else k, shot := j.shot,
        instant := if cons then PS.consInstant j.ps j.boundary else j.launch,
        samples := w.row, cons := cons, subst := all.subst, ovr := all.ovr, slips := all.slips,
        predicted := ((w.row.zipIdx).filter (fun e => PS.g j.ps K.pceGauge ≤ 64 * grp + e.2 && e.1 ≥ 2 ^ 31)).length,
        epoch := j.tileEpoch, ps := j.ps }
    let s := if cons then s.modPce fun p => { p with consRows := aput grp all p.consRows } else s
    let s := s.modPce fun p => { p with part := modAt (fun _ => []) p.part k, partSlips := modAt (fun _ => 0) p.partSlips k }
    if w.row.isEmpty || skip then s else s.rowMade row j.pos

/-- The bins lo to hi − 1 of a shot, column group by column group. n bounds the groups. -/
def State.walkShot (s : State) (j : ShotJob) (k lo hi : Nat) (y : Nat → Cplx × Cplx) : Nat → State
  | 0 => s
  | n + 1 =>
    if hi ≤ lo then s
    else
      let stop := min hi (64 * (lo / 64) + 64)
      (s.walkGroup j k (lo / 64) lo stop y).walkShot j k stop hi y n

/-- A shot group's last bin of its last tone has been stitched: its profile is complete (R269). -/
def State.groupStitched (s : State) (j : ShotJob) : State :=
  let p := (List.range (PS.groups j.ps)).map (fun g =>
    rdiv (aget 0 s.pce.profSum (profKey j.shot g)) (aget 0 s.pce.profCnt (profKey j.shot g)))
  let rest (xs : List (Nat × Nat)) : List (Nat × Nat) := xs.filter (fun e => e.1 / 4096 != j.shot)
  let s := s.modPce fun x => { x with profSum := rest x.profSum, profCnt := rest x.profCnt }
  s.modProf fun x => { x with ready := x.ready ++ [(s.devRound j.boundary, p)] }

/-- A shot has made its bins up to ready: of the last tone of an interval's last group, they decide which zones' intervals are
complete (R181, R182). -/
def State.ivlStep (s : State) (j : ShotJob) (ready : Nat) : State :=
  if j.ivlLast && j.pos + 1 == PS.nTones j.ps && j.epoch == s.pce.resets then
    s.modPce fun p => { p with ivlProg := some (j.ivl, ready, s.devRound (j.boundary + PS.period j.ps)) }
  else s

/-! Overrange samples (R125). -/

/-- Row of a tile made at instant t, if it holds one. -/
def Tile.rowAt (x : Tile) (ps : PSet) (t : Tick) : Option Nat :=
  let step := if x.cons then PS.period ps else PS.stagger ps
  if x.startTick ≤ t && t ≤ x.lastTick && step != 0 then some ((t - x.startTick) / step) else none

/-- A shot is marked as overranged: its rows already made, or in the making, count it too. -/
def State.ovrMark (s : State) (k i : Nat) (j : ShotJob) : State :=
  let s := s.modPce fun p =>
    { p with jobs := modAt (fun js => modAt (fun (x : ShotJob) => { x with ovr := true }) js i) p.jobs k,
             consRows := p.consRows.map fun (e : Nat × ConsRow) =>
               if e.2.epoch == j.epoch && e.2.shot == j.shot && 64 * e.1 < j.bins then (e.1, { e.2 with ovr := e.2.ovr + 1 })
               else e }
  let at_ (cons : Bool) : Tick := if cons then PS.consInstant j.ps j.boundary else j.launch
  let mark (r : Row) : Row := if 64 * r.group < j.bins && r.instant == at_ r.cons then { r with ovr := r.ovr + 1 } else r
  let markT (t : Tile) : Tile :=
    match t.rowAt j.ps (at_ t.cons) with
    | some n =>
      if 64 * t.group < j.bins && t.epoch == j.tileEpoch then
        { t with ovr := t.ovr + 1, marks := modAt (fun (m : RowMark) => { m with ovr := m.ovr + 1 }) t.marks n }
      else t
    | none => t
  s.modSill fun x => { x with elastic := x.elastic.map mark, openTiles := x.openTiles.map markT }

/-- Converter samples at which an enabled lane overranged: counted per lane; the shots in whose return they fall, and the lane's
group, are marked. Those of a bench test are not counted. first: number of the first of these samples. -/
def State.overrange (s : State) (first : Nat) (codes : List LaneCodes) : State :=
  if s.bench then s
  else
    let lanes := (List.range 4).filter (bit (s.p K.recvLaneEnable))
    let full (l : Nat) (c : LaneCodes) : Bool :=
      let v := nth 0 [c.xi, c.xq, c.yi, c.yq] l
      v ≤ -2048 || 2047 ≤ v
    let hits (l : Nat) : Nat := (codes.filter (full l)).length
    let s := lanes.foldl (fun (s : State) l =>
      if hits l == 0 then s
      else ((s.count (K.recvOvrCount + l) (hits l)).perfEvent 0x0201 l 0xFF (hits l)).modRecv fun r =>
        { r with laneOvr := modAt (fun _ => true) r.laneOvr l }) s
    let ticks := (idxWhere (fun c => lanes.any (fun l => full l c)) codes).map (fun i => (first + i) * (2 * dacT))
    if ticks.isEmpty then s
    else
      (s.pce.jobs.zipIdx.flatMap (fun (e : List ShotJob × Nat) => e.1.zipIdx.map (fun j => (e.2, j.2, j.1)))).foldl
        (fun (s : State) (e : Nat × Nat × ShotJob) =>
          let j := e.2.2
          if !j.ovr && ticks.any (fun t => j.launch ≤ t && t < j.launch + PS.roundTrip j.ps) then s.ovrMark e.1 e.2.1 j else s) s

/-! Samples into the channeliser and blocks (R123, R128, R155). -/

/-- The stream sample nearest the commanded launch, ties to the earlier, and how far the moved origin lies after it: the launch
offset and the launch's own distance from that sample, in 1/65,536 ns (R79, R158; assumption 105). -/
def ShotJob.origin0 (j : ShotJob) : Nat × Int × Int :=
  let u := (j.launch + (sampleT / 2 - 1)) / sampleT
  let d : Int := (j.launch : Int) - (u * sampleT : Nat)
  (u, d, rdivI (j.origin * 105 + d) 105)

/-- The oldest stream sample of slot k that is still wanted. -/
def State.streamFrom (s : State) (k : Nat) : Nat :=
  let back := s.recv.slotAt - 4096
  match nth [] s.pce.jobs k with
  | j :: _ => min back (j.origin0.1 + (nth [] s.pce.lines k).length - 512)
  | [] => back

/-- Converter samples from number start on reach the channeliser (R123, R125, R128): those that came before are left out, and the
filters start from zeros after a gap. Every output that their inputs complete joins the streams. -/
def State.takeCodes (s : State) (start : Nat) (codes : List LaneCodes) : State :=
  let r := s.recv
  let clip (v : Int) : Int := clampI (-2048) 2047 v
  let new := (codes.drop (r.convAt - start)).map fun (c : LaneCodes) =>
    ({ xi := clip c.xi, xq := clip c.xq, yi := clip c.yi, yq := clip c.yq } : LaneCodes)
  if new.isEmpty || !s.domainRuns 2 then s
  else
    let first := max start r.convAt
    let gap := decide (r.convAt < first)
    let stop := first + new.length
    let lo := if gap then max r.slotAt (cdiv (first - 191) 12) else r.slotAt
    let hi := max lo (if stop < 192 then 0 else (stop - 192) / 12 + 1)
    let s := (s.modRecv fun r => { r with convAt := stop, conv := (if gap then [] else r.conv) ++ new }).overrange first new
    let outs (k : Nat) : List ((Cplx × Nat) × (Cplx × Nat)) :=
      ((List.range (hi - lo)).map (· + lo)).map (fun u => (s.chanSample k 0 u, s.chanSample k 1 u))
    let all := (List.range 8).map outs
    let sat := (all.map (fun xs => (xs.map (fun e => e.1.2 + e.2.2)).sum)).sum
    let s := (s.count K.recvChanSatCount sat).modRecv fun r =>
      { r with slotAt := hi, conv := r.conv.drop (r.conv.length - (stop - (12 * hi - 192))),
               streams := (r.streams.zip all).map (fun e =>
                 (if r.slotAt < lo then [] else e.1) ++ e.2.map (fun v => (v.1.1, v.2.1))) }
    s.modRecv fun r =>
      { r with streams := r.streams.zipIdx.map (fun e => e.1.drop (e.1.length - (hi - s.streamFrom e.2))) }

/-- The jobs of a slot after a block: the oldest has made its bins up to ready, or is over. -/
def stepJobs (over_ : Bool) (ready : Nat) : List ShotJob → List ShotJob
  | h :: rest => if over_ then rest else { h with bins := ready } :: rest
  | [] => []

/-- The slot's oldest shot j has its next block in the streams (R155): its 4,096 inputs, or its segment up to the end, and they have
left the channeliser, 650 ns after they reached the receiver (R128, R169); and its origin is known (R84). -/
def State.blockDue (s : State) (k : Nat) (j : ShotJob) : Bool :=
  let x := s.slot k
  let (u, d, o) := j.origin0
  let q := (originSplit o).1
  let first := (nth [] s.pce.lines k).length
  let last : Int := (u : Int) + q + (min (first + 4095) (PS.segEnd j.ps q d) : Nat)
  !(x.window && x.shot == j.shot) && s.domainRuns 4 && last < (s.recv.slotAt : Int) &&
    last * (sampleT : Nat) + (nsT 650 : Nat) ≤ (s.now : Int)

/-- The next block of the slot's oldest shot (R125, R128, R150 to R169, R173 to R180). -/
def State.pceBlock (s : State) (k : Nat) (j : ShotJob) : State :=
  let ps := j.ps
  let (u, d, o) := j.origin0
  let (q, r) := originSplit o
  let line := nth [] s.pce.lines k
  let first := line.length
  let need := PS.samplesNeeded ps q d
  let stop := PS.segEnd ps q d
  let count := min (PS.blockOut ps) (need - first)
  let xs := (List.range 4096).map (fun i => s.recv.stream k ((u : Int) + q + (first + i : Nat)).toNat)
  let x := compress ps r first count s.fresh stop (xs.map (·.1))
  let y := compress ps r first count (s.fresh + 2 * count) stop (xs.map (·.2))
  let s := { s with fresh := s.fresh + 4 * count }
  let useX := PS.polOn ps 0
  let useY := PS.polOn ps 1
  let s := s.count K.pceSatCount ((if useX then x.2 else 0) + (if useY then y.2 else 0))
  let s := if useX then s.perfEvent 0x0401 (2 * k) 0xFF 1 else s
  let s := if useY then s.perfEvent 0x0401 (2 * k + 1) 0xFF 1 else s
  let line := line ++ x.1.zip y.1
  let ax := (line.map (·.1)).toArray
  let ay := (line.map (·.2)).toArray
  let mode := PS.g ps K.pceSpatialMode
  let at_ (n : Nat) : Cplx × Cplx := (binOf mode ax stop n, binOf mode ay stop n)
  let ready := PS.binsReady ps line.length need
  let s := (s.walkShot j k j.bins ready at_ 4096).ivlStep j ready
  let done := decide (need ≤ line.length)
  let s := s.modPce fun p =>
    { p with lines := modAt (fun _ => if done then [] else line) p.lines k, jobs := modAt (stepJobs done ready) p.jobs k }
  if done && j.pos + 1 == PS.nTones ps then s.groupStitched j else s

/-- PCE_BLOCK_PROCESSED (R123, R125, R128, R150 to R169, R173 to R180): converter samples reach the channeliser, and the next block of
the slot's oldest shot is processed if it is due. -/
def execPceBlockProcessed (t : Tick) (slot start : Nat) (codes : List LaneCodes) (s : State) : Host.Outcome State Fault Refusal :=
  let s := (s.advance t).takeCodes start codes
  .next (match nth [] s.pce.jobs slot with
    | [] => s
    | j :: _ => if s.blockDue slot j then s.pceBlock slot j else s)

/-! Evaluation of degradation (R181 to R183). -/

/-- A FADING_DEGRADED record (R182). -/
def State.fadingRecord (s : State) (z : Nat) (cause mask cnt valB first time : Nat) : State :=
  let x := s.zone z
  let s := s.modZone z fun x => { x with fadeEvents := x.fadeEvents.add32 1 }
  s.zoneRecord z 7 (if cause == 1 then 3 else 1) (mask + 256 * cnt + 65536 * b2n x.effCons + 2 ^ 24 * cause) valB first time

/-- The effective mode of a zone becomes cons; where that differs from the mode in effect the change has yet to take effect (R183). -/
def Zone.setEff (x : Zone) (cons : Bool) : Zone :=
  { x with effCons := cons, changing := if x.effCons == cons then x.changing else !x.changing }

/-- One zone's interval ivl, which ended at device time time (R181 to R184). A ZONE_LOAD of the zone in that interval, or after its end
and before this decision, leaves the decision out (assumption 111). -/
def State.evalZone (s : State) (z : Nat) (d : ZoneDesc) (ivl time : Nat) : State :=
  let ps := s.running
  let rng := PS.zoneBins ps d
  let bs := ((s.pce.bins.filter (fun e => rng.1 ≤ e.1 && e.1 ≤ rng.2 && e.2.epoch == s.pce.resets)).map (·.2)).map
    (fun x => x.counts ivl)
  let tot (f : BinIvl → List Nat) (k : Nat) : Nat := (bs.map (fun x => nth 0 (f x) k)).sum
  let bad (k : Nat) : Bool := s.p K.stitchDegradedPct * tot (·.counted) k < 100 * tot (·.faded) k
  let slots := PS.tones ps
  let mask := (slots.map (fun k => if bad k then 2 ^ k else 0)).sum
  let cnt := (slots.filter bad).length
  let samples := (bs.map (·.samples)).sum
  let pred := (bs.map (·.predicted)).sum
  let share (k : Nat) : Nat := min 65535 (rdiv (tot (·.faded) k * 65536) (tot (·.counted) k))
  let mean (k : Nat) : Nat := rdiv (tot (·.qSum) k) (tot (·.counted) k)
  let s := s.modZone z fun x =>
    { x with degMask := mask, degCount := cnt, meanScore := (List.range 8).map mean, predicted := pred, samples := samples,
             fadedShare := (List.range 8).map share, ivlNext := ivl + 1 }
  let x := s.zone z
  let valB := rdiv (pred * 65536) samples
  let beyond := s.p K.stitchMaxDegraded < cnt
  if ivl ≤ x.loadedIn then s
  else if !x.fading then
    if beyond then
      let s := s.modZone z fun x =>
        let x := { x with fading := true, recover := 0, fallbacks := x.fallbacks.add 65535 1 }
        if d.stitch == 2 then x.setEff true else x
      s.fadingRecord z 1 mask cnt valB d.first time
    else s
  else if beyond then s.modZone z fun x => { x with recover := 0 }
  else if s.p K.stitchRecoverEvals ≤ x.recover + 1 then
    let s := s.modZone z fun x =>
      let x := { x with fading := false, recover := 0 }
      if d.stitch == 2 && s.pB K.stitchAutoReturn then x.setEff false else x
    s.fadingRecord z 2 mask cnt valB d.first time
  else s.modZone z fun x => { x with recover := x.recover + 1 }

/-- The oldest complete profile decides break and loss. -/
def State.profileNext (s : State) : State :=
  match s.prof.ready with
  | [] => s
  | (time, p) :: rest => (s.modProf fun x => { x with ready := rest }).profileDone time p

/-- Every complete profile, oldest first; n bounds their number. -/
def State.profilesAll (s : State) : Nat → State
  | 0 => s
  | n + 1 => (s.profileNext).profilesAll n

/-- Of every zone whose last bin has its interval's last sample, the interval is decided; a zone's FIBRE_BREAK and LOSS_STEP of
profiles complete by then come first (R277). -/
def State.stitchEval (s : State) : State :=
  match s.pce.ivlProg with
  | none => s
  | some (ivl, bins, time) =>
    let due := s.definedZones.filter fun z =>
      match (s.zone z).desc with
      | some d => decide ((s.zone z).ivlNext ≤ ivl) && decide ((PS.zoneBins s.running d).2 < bins)
      | none => false
    if due.isEmpty then s
    else
      let s := s.profilesAll s.prof.ready.length
      (due.foldl (fun s z =>
        match (s.zone z).desc with
        | some d => s.evalZone z d ivl time
        | none => s) s).planModes

/-- STITCH_EVALUATION (R181 to R184). -/
def execStitchEvaluation (t : Tick) (s : State) : Host.Outcome State Fault Refusal := .next (s.advance t).stitchEval

/-- AMPLITUDE_PROFILE_COMPLETE (R269 to R272): the oldest complete profile decides break and loss. -/
def execAmplitudeProfileComplete (t : Tick) (s : State) : Host.Outcome State Fault Refusal := .next (s.advance t).profileNext

end Sys2Proof.Machine
end

