-- ==== Sys2Proof/Machine/Protect.lean ====
section
/-!
DEFINITION. The protection map's check of accesses to external memory (R68, R69), and external memory at usable addresses
(R347).
-/
namespace Sys2Proof.Machine

/-! Masters of R68. -/

def mSteward : Nat := 0
def mTile : Nat := 1
def mSlice : Nat := 2
def mRetrieval : Nat := 3
def mFlacon : Nat := 4
def mDisplay : Nat := 5
def mAtomiser : Nat := 6

/-- Region r holds MiB p. -/
def ProtMap.inRegion (m : ProtMap) (r p : Nat) : Bool :=
  let e := nth (0, 0) m.regions r
  e.1 ≤ e.2 && e.1 ≤ p && p ≤ e.2

/-- Master k may read or write MiB p. -/
def ProtMap.grants (m : ProtMap) (k p : Nat) (write : Bool) : Bool :=
  (List.range 8).any (fun r => m.inRegion r p && bit (nth 0 m.masters k) (2 * r + b2n write))

/-- Every byte of [a, a + len) lies in a region whose grant master k holds (R69). -/
def State.protOk (s : State) (k a len : Nat) (write : Bool) : Bool :=
  let lo := a / PS.mib
  let hi := (a + len - 1) / PS.mib
  (List.range (hi + 1 - lo)).all (fun i => s.prot.grants k (lo + i) write)

/-- A refused access: a fault record with the master and the address, and a HEALTH event (R69). -/
def State.protFault (s : State) (k a : Nat) : State := s.healthFull 13 k 0 1 a k 1

/-! Plain memory; unlisted bytes read 0 (R363). -/

/-- Take MiB lo to hi out of the MiB still to fill. -/
def fillMinus (lo hi : Nat) (xs : List (Nat × Nat)) : List (Nat × Nat) :=
  xs.flatMap fun e =>
    if e.2 < lo || hi < e.1 then [e]
    else (if e.1 < lo then [(e.1, lo - 1)] else []) ++ (if hi < e.2 then [(hi + 1, e.2)] else [])

/-- Aligned 8-byte words that a write of n bytes from a covers in part (R349). -/
def partWords (a n : Nat) : Nat :=
  if n == 0 then 0
  else if a / 8 == (a + n - 1) / 8 then b2n (!(a % 8 == 0 && n == 8))
  else b2n (a % 8 != 0) + b2n ((a + n) % 8 != 0)

/-- A write; a MiB not yet filled is filled first (R363), and a write-back that waits for a word it writes is dropped (R350). A word
written in part is read, merged and written whole, and counted (R349). -/
def State.dramPut (s : State) (a : Nat) (bs : List Byte) : State :=
  let s := { s with sill := { s.sill with dram := Memory.writeBytes s.sill.dram a bs } }
  let n := partWords a bs.length
  let s := if n == 0 then s else s.count K.memcRmwCount n
  let s := if s.memc.queue.isEmpty then s
    else s.modMemc fun m => { m with queue := m.queue.filter (fun r => a + bs.length ≤ r.addr || r.addr + 8 ≤ a) }
  if s.memc.fillLeft.isEmpty then s
  else s.modMemc fun m => { m with fillLeft := fillMinus (a / PS.mib) ((a + bs.length - 1) / PS.mib) m.fillLeft }
def State.dramZero (s : State) (a n : Nat) : State := { s with sill := { s.sill with dram := Memory.zero s.sill.dram a n } }
def State.dramGet (s : State) (a n : Nat) : List Byte := Memory.readBytes s.sill.dram a n

/-- A master's write: it reaches memory if the map allows it, else it is faulted (R69). -/
def State.masterWrite (s : State) (k a : Nat) (bs : List Byte) : State :=
  if s.protOk k a bs.length true then s.dramPut a bs else s.protFault k a

/-- A master's read: read data of zero and a fault where the map does not allow it (R69). -/
def State.masterRead (s : State) (k a n : Nat) : State × List Byte :=
  if s.protOk k a n false then (s, s.dramGet a n) else (s.protFault k a, List.replicate n 0)

end Sys2Proof.Machine
end

