-- ==== Sys2Proof/Machine/Streams.lean ====
section
/-!
DEFINITION. Stream data on its way into sessions (R316, R317, R322, R325): items of the HEART, BASE and GAP kinds, and whole
objects.
-/
namespace Sys2Proof.Machine

/-- A session takes stream data of a kind bit now. -/
def State.takesKind (s : State) (x : Session) (b : Nat) : Bool := bit x.kindMask b && s.sessionLive x && x.closing.isNone

/-- An item joins the items of its TYPE that wait in a session. -/
def Session.addItem (x : Session) (typ : Nat) (now : Tick) (item : List Byte) : Session :=
  let x := { x with itemTs := aput typ (aget [] x.itemTs typ ++ [now]) x.itemTs }
  if x.streams.any (fun e => e.1 == typ) then
    { x with streams := x.streams.map (fun e => if e.1 == typ then (e.1, e.2.1, e.2.2 ++ [item]) else e) }
  else { x with streams := x.streams ++ [(typ, now, [item])] }

/-- An item of TYPE typ goes to every session that selects kind bit b and passes. -/
def State.streamOut (s : State) (typ b : Nat) (pass : Session → Bool) (item : List Byte) : State :=
  let f (x : Session) : Session := if s.takesKind x b && pass x then x.addItem typ s.now item else x
  s.modAtom fun a => { a with sessions := a.sessions.map f }

/-- A whole object goes to every session that selects kind bit b and passes (R325, R327). -/
def State.objectOut (s : State) (kind b seq : Nat) (pass : Session → Bool) (data : List Byte) : State :=
  let o : ObjJob := { kind := kind, objSeq := seq, tag := 0, mb := 0xFF, data := data, sent := 0 }
  let f (x : Session) : Session := if s.takesKind x b && pass x then { x with objects := x.objects ++ [o] } else x
  s.modAtom fun a => { a with sessions := a.sessions.map f }

/-- A channel set holds a channel of first to last. -/
def setMeets (cs : List (Nat × Nat)) (first last : Nat) : Bool := cs.any (fun r => r.1 ≤ last && first ≤ r.2)

/-- A column group holds a bin of a channel of the set (R317). -/
def PS.setGroup (ps : PSet) (cs : List (Nat × Nat)) (j : Nat) : Bool :=
  cs.any (fun r => chanBin ps r.1 < 64 * j + 64 && 64 * j < chanBin ps (r.2 + 1))

/-- Columns first to last of a gap record overlap the set: channels, bins for the top note (R317). -/
def PS.setGap (ps : PSet) (cs : List (Nat × Nat)) (g : Gap) : Bool :=
  if g.tier == 0 then cs.any (fun r => chanBin ps r.1 < g.firstCol + g.cols && g.firstCol < chanBin ps (r.2 + 1))
  else setMeets cs g.firstCol (g.firstCol + g.cols - 1)

/-- The 32 bytes of a gap record (R218). COLUMNS holds the count modulo 65,536: DESIGN CHOICE, since the manual does not say what it
holds for the one VIGIL gap of a tier of more columns (R31, log 37). -/
def Gap.bytes (g : Gap) : List Byte :=
  let body := leBytes 8 g.start ++ leBytes 8 g.stop ++ leBytes 4 g.firstCol ++ leBytes 2 g.cols ++ leBytes 1 g.tier ++
    leBytes 1 g.cause ++ leBytes 4 g.tiles
  body ++ leBytes 4 (crc32c body)

end Sys2Proof.Machine
end

