-- ==== Sys2Proof/Machine/Tiles.lean ====
section
/-!
DEFINITION. The corner-turn tile mover, the fresh ring, gap records, tile scheduling, coefficient banks, the heart note and
the base note (chapter 09), with the index side of the sillage (R279 to R284). Memory is written at the usable addresses of
R279; the index itself is kept as the lists of Sillage.
-/
namespace Sys2Proof.Machine

/-- No slice has this tile any longer. -/
def State.dropSliceTile (s : State) (pos seq : Nat) : State :=
  let f (e : Nat × Slice) : Nat × Slice :=
    (e.1, { e.2 with tiles := e.2.tiles.filter (fun x => !(x.pos == pos && x.seq == seq)) })
  { s with slices := { s.slices with tab := s.slices.tab.map f } }

/-! Gap records (R218, R27). -/

/-- A gap record enters the index; captures whose window holds it count it (R291). -/
def State.addGap (s : State) (g : Gap) : State :=
  let s := s.modSill fun x => { x with gaps := x.gaps ++ [g] }
  let s := s.streamOut 4 19 (fun x => PS.setGap s.running x.chanSet g) g.bytes
  { s with cap := { s.cap with slots := s.cap.slots.map fun c =>
      if (c.state == 2 || c.state == 3) && bit c.tiers g.tier && g.start ≤ c.trigTime + c.postActual * 1000000
          && c.trigTime - c.preMs * 1000000 ≤ g.stop then { c with gaps := c.gaps + 1 } else c } }

/-- Heart-note and base-note gap records for a column group's span (R218). -/
def State.gapLower (s : State) (group start stop cause : Nat) : State :=
  match PS.groupChans s.running group with
  | [] => s
  | c :: cs =>
    let g : Gap := { start := start, stop := stop, firstCol := c, cols := cs.length + 1, tier := 1, cause := cause, tiles := 1 }
    (s.addGap g).addGap { g with tier := 2 }

/-- The top-note gap record of a tile. -/
def Tile.gap (t : Tile) (cause : Nat) : Gap :=
  { start := t.startTime, stop := t.stop, firstCol := 64 * t.group, cols := t.columns, tier := 0, cause := cause, tiles := 1 }

/-! Resets of a set's chain (R221). -/

/-- The chain of the set that begins at group h resets: what was last written of its channels is forgotten, and its next
tile carries RESET. -/
def State.chainReset (s : State) (h : Nat) : State :=
  let chans := PS.setChans s.running h
  let hit (key : Nat) : Bool :=
    if key % 16 == 11 then
      match PS.sectionChan s.running (key / 16) with
      | some c => chans.contains c
      | none => false
    else chans.contains (key / 16)
  s.modSill fun x =>
    { x with chainReset := if x.chainReset.contains h then x.chainReset else h :: x.chainReset,
             lastBase := x.lastBase.filter (fun e => !hit e.1) }

/-- Every set's chain resets (the events of R167, a COMMIT of a CHAN key, VIGIL or STANDBY). -/
def State.chainResetAll (s : State) : State :=
  s.modSill fun x => { x with chainReset := PS.setHeads s.running, lastBase := [] }

/-- A tile is missing from the fresh ring (R27): gap records for what would have been made of it, and its set's chain
resets. -/
def State.tileMissing (s : State) (t : Tile) (cause : Nat) : State :=
  (s.gapLower t.group t.startTime t.stop cause).chainReset (PS.setHead s.running t.group)

/-! The fresh ring. -/

/-- Usable address of a fresh-ring slot and of row r of its data (R212, R279). -/
def State.slotAddr (s : State) (pos : Nat) : Nat := PS.freshStart s.running + 66560 * pos
def State.rowAddr (s : State) (pos r : Nat) : Nat := s.slotAddr pos + 1024 + 256 * r

/-- The 1,024 bytes of a tile header (R215) of tier 0 or 1. -/
def headerBytes (start firstShot firstCol cols samples tier mode tones skipped period subst ovr slip pred seq flags : Nat)
    (slots : List Nat) : List Byte :=
  let sat (n w : Nat) : List Byte := leBytes w (min n (256 ^ w - 1))
  let body := leBytes 8 start ++ leBytes 4 firstShot ++ leBytes 4 firstCol ++ leBytes 2 cols ++ leBytes 2 samples ++
    leBytes 1 tier ++ leBytes 1 mode ++ leBytes 1 tones ++ leBytes 1 skipped ++ leBytes 4 period ++ sat subst 2 ++ sat ovr 2 ++
    sat slip 4 ++ sat pred 4 ++ leBytes 4 seq ++ leBytes 4 flags ++ leBytes 4 (period / 2 ^ 32) ++ leBytes 12 0 ++
    slots.flatMap (leBytes 1) ++ leBytes (256 - slots.length) 0 ++ leBytes 700 0
  body ++ leBytes 4 (crc32c body)

def Tile.header (t : Tile) : List Byte :=
  headerBytes t.startTime t.firstShot (64 * t.group) t.columns t.samples 0 (b2n t.cons) t.toneMask t.skipped t.period256
    t.subst t.ovr t.slip t.predicted t.seq t.flags t.slotOf

/-- A closed tile lies in the window of a capture in POST or SEALING and is not settled (R283). -/
def State.freshPinned (s : State) (t : Tile) : Bool :=
  !t.settled && s.cap.slots.any (fun c => (c.state == 2 || c.state == 3) &&
    t.startTime ≤ c.trigTime + c.postActual * 1000000 && c.trigTime - c.preMs * 1000000 ≤ t.stop)

/-- The slot may be taken: no open tile is in it, and no tile that R283 keeps. -/
def State.slotFree (s : State) (pos : Nat) : Bool :=
  !(s.sill.openTiles.any (fun t => t.pos == pos && !t.dropped)) &&
    !(s.sill.closed.any (fun t => t.pos == pos && s.freshPinned t))

/-- The next free slot in ring order from pos on. n bounds the search. -/
def State.findSlot (s : State) (pos : Nat) : Nat → Nat
  | 0 => pos % PS.freshSlots s.running
  | n + 1 =>
    let p := pos % PS.freshSlots s.running
    if s.slotFree p then p else s.findSlot (p + 1) n

/-- The corner-turn read of a closed tile is complete: it has begun, and every slice that the tile was given to has all its columns
(R216, R242: the read is held back while a slice has no free position). -/
def State.turned (s : State) (t : Tile) : Bool :=
  t.read && s.slices.tab.all fun e => e.2.tiles.all fun x => !(x.pos == t.pos && x.seq == t.seq) || x.cols ≤ x.colsIn

/-- The engines let go of a tile: its queued job, and what its read has delivered to a receiving buffer. -/
def State.enginesDrop (s : State) (t : Tile) : State :=
  let gone (e : Engine) : Engine :=
    let e := { e with queue := e.queue.filter (fun j => j != .archive t.pos t.seq) }
    if e.buffer == some (t.pos, t.seq) then { e with buffer := none, bufData := [], bufTile := none } else e
  { s with engines := s.engines.map gone }

/-- A slot's old tile goes. If it has not been read whole, it is lost (R213): heart and base readers see OVERWRITTEN, and its jobs and
its slices' turns go with it. -/
def State.evict (s : State) (pos : Nat) : State :=
  match s.sill.closed.find? (fun t => t.pos == pos) with
  | none => s
  | some t =>
    let whole := s.turned t
    let s := s.modSill fun x => { x with closed := x.closed.filter (fun y => y.pos != pos) }
    if whole then s else ((s.enginesDrop t).dropSliceTile t.pos t.seq).tileMissing t 5

/-! Scheduling (R219, R220). -/

/-- Longest REP: 54.6 µs of doorbell wait. -/
def doorbellT : Tick := nsT 54600

/-- Mean cycle count of a slice's last 16 tiles. -/
def Slice.meanCycles (x : Slice) : Nat := rdiv x.tileCycles.sum x.tileCycles.length

/-- Estimated finish of a tile that closes now on slice i: the tiles queued there and its own, at the mean cycle count. -/
def State.estFinish (s : State) (i : Nat) : Tick :=
  let x := s.slc i
  s.now + doorbellT + (x.tiles.length + 1) * x.meanCycles * secT 1 / 1200000000

/-- 16 late or skipped tiles in a row on one slice raise a HEALTH event. -/
def State.lateCount (s : State) (i : Nat) : State :=
  let n := aget 0 s.sill.lateRun i + 1
  let s := s.modSill fun x => { x with lateRun := aput i n x.lateRun }
  if n == 16 then s.health 11 i 0 1 else s

def State.onTime (s : State) (i : Nat) : State := s.modSill fun x => { x with lateRun := adel x.lateRun i }

/-- A tile is skipped (R220): its results become gap records, and the chain of its set resets. -/
def State.skipTile (s : State) (t : Tile) (i : Nat) : State :=
  ((s.tileMissing t 4).bump K.chanSkippedTiles).lateCount i

/-- Thermal sections that hold a bin of a column group, first and number (R187). -/
def PS.groupSections (ps : PSet) (j : Nat) : Nat × Nat :=
  let f := g ps K.thermSectionFirstBin
  let w := max 1 (g ps K.thermSectionBins)
  let a := (64 * j - f) / w
  let b := min (g ps K.thermSections) ((64 * j + 64 - f + w - 1) / w)
  (a, b - a)

/-- A tile of spectral-shift slice i ends without results (R252): the base note's gap record covers the thermal sections of its bins
(R218). DEDUCED (log 119). -/
def State.shiftSkip (s : State) (t : Tile) (i : Nat) : State :=
  let c := PS.groupSections s.running t.group
  ((s.addGap { start := t.startTime, stop := t.stop, firstCol := c.1, cols := c.2, tier := 2, cause := 4, tiles := 1 }).bump
    K.chanSkippedTiles).lateCount i

/-- A tile assigned to slice i ends without results (R220, R252). -/
def State.sliceLoses (s : State) (t : Tile) (i : Nat) : State :=
  if PS.homeSlice s.running (PS.setHead s.running t.group) == i then s.skipTile t i else s.shiftSkip t i

/-- A slice fault (R252): the slice stops, a HEALTH event is raised, and the tiles it has end without results. -/
def State.sliceFault (s : State) (i cause : Nat) : State :=
  let tiles := (s.slc i).tiles
  let s := s.modSlc i fun x => { x with status := 3, cause := cause, tiles := [], waiting := false }
  let s := (s.bump K.sliceFaultCount).health 12 i cause 2
  tiles.foldl (fun s x => s.sliceLoses x.tile i) s

/-- Spectral-shift windows (R197). -/
def PS.windows (ps : PSet) : Nat :=
  if g ps K.pceBins < 40 then 0 else (g ps K.pceBins - 40) / g ps K.thermShiftStride + 1

/-- First and last bin that a window's correlation takes, lags included (R198). -/
def PS.windowSpan (ps : PSet) (j : Nat) : Nat × Nat :=
  let lo := j * g ps K.thermShiftStride
  let m := g ps K.thermShiftMaxLag
  (lo - m, min (g ps K.pceBins - 1) (lo + 39 + m))

/-- Windows that touch a column group with a bin that they take (R197, R198, R216). -/
def PS.groupWindows (ps : PSet) (j : Nat) : List Nat :=
  let lo := (64 * j - 39 - g ps K.thermShiftMaxLag) / max 1 (g ps K.thermShiftStride)
  ((List.range 16).map (· + lo)).filter fun i =>
    i < windows ps && (windowSpan ps i).1 ≤ 64 * j + 63 && 64 * j ≤ (windowSpan ps i).2

/-- The spectral-shift program has work: shots launch, SHIFT_EN, sections (R197). -/
def State.shiftOn (s : State) : Bool :=
  s.run.state == 1 && s.pB K.thermShiftEn && s.p K.thermSections != 0 && s.p K.chanShiftSlices != 0

/-- Slice of a window, and its index within the slice (R219). -/
def State.windowSlice (s : State) (j : Nat) : Nat × Nat :=
  (s.p K.chanBandSlices + j % s.p K.chanShiftSlices, j / s.p K.chanShiftSlices)

/-- Give slice i a tile of a set with this index within the slice; its deadline is one tile time after its close (R220). -/
def State.giveTile (s : State) (i set idx : Nat) (t : Tile) (reset : Bool) : State :=
  s.modSlc i fun x =>
    { x with tiles := x.tiles ++ [{ tile := t, pos := t.pos, seq := t.seq, group := t.group, set := set, setIdx := idx,
                                    reset := reset, hdrSlot := 0, ready := false, colsIn := 0, cols := t.columns, inPos := 0,
                                    freed := 0, deadline := t.closedAt + 256 * t.step, startCycle := 0 }] }

/-- Index of a set among those of its home slice. -/
def State.setIndex (s : State) (h : Nat) : Nat :=
  ((PS.setHeads s.running).filter (· < h)).length / s.p K.chanBandSlices

/-- A closed tile goes to its home slice, unless it is skipped, and to the shift slices whose windows touch it (R216, R219, R220). A
reset of its set's chain shows on every slice that it goes to, and a restarted shift slice's on its own (R221, R240, R251). -/
def State.schedule (s : State) (t : Tile) : State :=
  let h := PS.setHead s.running t.group
  let i := PS.homeSlice s.running h
  let reset := s.sill.chainReset.contains h
  let late := s.now + 256 * t.step < s.estFinish i
  let s :=
    if (s.slc i).status != 2 || late then s.skipTile t i
    else
      (s.giveTile i h (s.setIndex h) t reset).modSill fun y => { y with chainReset := y.chainReset.filter (· != h) }
  if s.shiftOn && !t.cons then
    let ws := (PS.groupWindows s.running t.group).map s.windowSlice
    let sl := (ws.map (·.1)).eraseDups
    sl.foldl (fun s i =>
      if (s.slc i).status == 2 then
        let idx := match ws.find? (fun w => w.1 == i) with | some w => w.2 | none => 0
        (s.giveTile i h idx t (reset || s.sill.shiftResets.contains (i, h))).modSill fun y =>
          { y with shiftResets := y.shiftResets.filter (· != (i, h)) }
      else s.shiftSkip t i) s
  else s

/-! Opening and closing (R212, R216). -/

/-- Jobs an engine holds: queued and running. -/
def Engine.depth (e : Engine) : Nat := e.queue.length + b2n e.running.isSome

/-- The archive job of a closed tile (R302), or QUEUE_FULL. Answers whether it was queued. -/
def State.queueArchive (s : State) (t : Tile) : State × Bool :=
  let d0 := (s.eng 0).depth
  let d1 := (s.eng 1).depth
  let i := if d1 < d0 then 1 else 0
  if (s.eng i).depth < 64 then
    (s.modEng i fun e => { e with queue := e.queue ++ [.archive t.pos t.seq] }, true)
  else
    ((s.addGap (t.gap 6)).bump K.flacQueueFull, false)

/-- Mark the closed tile at a slot. -/
def State.modClosed (s : State) (pos : Nat) (f : Tile → Tile) : State :=
  s.modSill fun x => { x with closed := x.closed.map (fun t => if t.pos == pos then f t else t) }

/-- The one read of a closed tile delivers its header and data to the slices that the tile was given to (R216). -/
def State.deliverTile (s : State) (t : Tile) : State × List Byte :=
  let r := s.masterRead mTile (s.slotAddr t.pos) 66560
  let data := r.2.drop 1024
  let f (x : SliceTile) : SliceTile :=
    if x.pos == t.pos && x.seq == t.seq then { x with read := some (r.2.take 1024, data) } else x
  let s := r.1
  ({ s with slices := { s.slices with
      tab := s.slices.tab.map fun (e : Nat × Slice) => (e.1, { e.2 with tiles := e.2.tiles.map f }) } }, data)

/-- An open tile closes (R212, R216, R217). -/
def State.closeTile (s : State) (t : Tile) (early : Bool) : State :=
  let s := s.modSill fun x =>
    { x with openTiles := x.openTiles.filter (fun y => !(y.group == t.group && y.startTick == t.startTick)) }
  if t.dropped then (s.addGap (t.gap 1)).tileMissing t 1
  else
    let seq := aget 0 s.sill.tileSeq t.group
    let t := { t with seq := seq, closedAt := s.now, flags := t.flags + 8 * b2n early,
                      precond := s.pB K.flacPrecond, blockKib := s.p K.flacBlockKib, windowLog := s.p K.flacWindowLog2 }
    let unused := 256 - t.samples
    let s := if s.protOk mTile (s.slotAddr t.pos) 66560 true then
        ((s.dramZero (s.rowAddr t.pos t.samples) (256 * unused)).dramZero (s.slotAddr t.pos) 1024).dramPut
          (s.slotAddr t.pos) t.header
      else s.protFault mTile (s.slotAddr t.pos)
    let s := s.modSill fun x => { x with tileSeq := aput t.group ((seq + 1) % 2 ^ 32) x.tileSeq }
    let s := if s.atom.sessions.any (fun x => s.takesKind x 20) then
        let r := s.masterRead mAtomiser (s.slotAddr t.pos) 66560
        r.1.objectOut 2 20 seq (fun x => PS.setGroup s.running x.chanSet t.group) r.2
      else s
    let r := s.queueArchive t
    let t := { t with read := !r.2, settled := !r.2 }
    let s := (r.1.modSill fun x => { x with closed := x.closed ++ [t] }).schedule t
    if r.2 then s else (s.deliverTile t).1

/-- The slot that the next tile of the fresh ring takes (R212, R213, R283). -/
def State.nextFresh (s : State) : Nat := s.findSlot s.sill.nextSlot (PS.freshSlots s.running)

/-- A tile opens for a row (R212, R215). -/
def State.openTile (s : State) (r : Row) : State :=
  let j := r.group
  let pos := s.nextFresh
  let s := s.evict pos
  let has (xs : List Nat) : Bool := xs.contains j
  let x := s.sill
  let t : Tile :=
    { group := j, pos := pos, startTick := r.instant, startTime := s.devRound r.instant, firstShot := r.shot,
      columns := min 64 (PS.g r.ps K.pceBins - 64 * j), samples := 0, cons := r.cons, epoch := r.epoch,
      toneMask := PS.g r.ps K.synthToneMask, skipped := aget 0 x.skipNext j, period256 := PS.rowPeriod256 r.ps r.cons,
      subst := 0, ovr := 0, slip := 0, predicted := 0, seq := 0,
      flags := b2n (has x.firstRun) + 2 * b2n (has x.afterCommit) + 4 * b2n (has x.modeChanged), slotOf := [],
      dropped := false, step := r.step, lastTick := r.instant, stopTime := s.rowEnd r, closedAt := 0, read := false, settled := false }
  s.modSill fun x =>
    { x with openTiles := x.openTiles ++ [t], nextSlot := (pos + 1) % PS.freshSlots s.running, skipNext := adel x.skipNext j,
             firstRun := x.firstRun.filter (· != j), afterCommit := x.afterCommit.filter (· != j),
             modeChanged := x.modeChanged.filter (· != j) }

/-- Write a row into its tile. -/
def State.putRow (s : State) (r : Row) : State :=
  match s.sill.openTiles.find? (fun t => t.takes r) with
  | none => s
  | some t =>
    let words := r.samples ++ List.replicate (64 - r.samples.length) 0
    let add (y : Tile) : Tile :=
      if y.takes r then
        { y with samples := y.samples + 1, slotOf := y.slotOf ++ [r.slot], lastTick := r.instant, stopTime := s.rowEnd r,
                 marks := y.marks ++ [{ subst := r.subst, ovr := r.ovr, slip := r.slips, predicted := r.predicted }],
                 subst := y.subst + r.subst, ovr := y.ovr + r.ovr, slip := y.slip + r.slips,
                 predicted := y.predicted + r.predicted }
      else y
    (s.masterWrite mTile (s.rowAddr t.pos t.samples) (words.flatMap (leBytes 4))).modSill fun x =>
      { x with openTiles := x.openTiles.map add }

/-- ROW_WRITE (R212): the mover writes the oldest waiting row to its tile's slot, opening the tile if needed. A tile of the
group that no further row joins closes first. Where R283 keeps every slot, the row waits in the elastic buffer. DEDUCED (log 120). -/
def execRowWrite (t : Tick) (s : State) : Host.Outcome State Fault Refusal :=
  let s := s.advance t
  .next (match s.sill.elastic with
    | [] => s
    | r :: rest =>
      if PS.freshSlots s.running == 0 || !s.active then s
      else
        let s := (s.sill.openTiles.filter (fun y => y.group == r.group && !y.joins r)).foldl
          (fun s y => s.closeTile y (y.samples < 256)) s
        let takes := s.sill.openTiles.any (fun y => y.takes r)
        if !takes && !s.slotFree s.nextFresh then s
        else
          let s := s.modSill fun x => { x with elastic := rest }
          (if takes then s else s.openTile r).putRow r)

/-- Rows or shots of an epoch are still on their way. -/
def State.epochBusy (s : State) (g e : Nat) : Bool :=
  s.sill.elastic.any (fun r => r.group == g && r.epoch == e) ||
    s.pce.jobs.any (fun js => js.any (fun j => j.tileEpoch == e))

/-- An open tile closes now: it is full, a boundary of R212 has passed and its rows are in, or the run is over. -/
def State.tileDue (s : State) (t : Tile) : Bool :=
  256 ≤ t.samples || (t.epoch != s.pce.tileEpoch && !s.epochBusy t.group t.epoch)
    || (s.run.state == 0 && !s.epochBusy t.group t.epoch)

/-- TILE_CLOSE (R216 to R220) for the oldest due tile of a column group. -/
def execTileClose (t : Tick) (group : Nat) (s : State) : Host.Outcome State Fault Refusal :=
  let s := s.advance t
  .next (match s.sill.openTiles.find? (fun y => y.group == group && s.tileDue y) with
    | some y => s.closeTile y (y.samples < 256)
    | none => s)

/-! The read (R216, R303). -/

/-- The oldest archive job of an engine that its receiving buffer has not taken. -/
def Engine.nextArchive (e : Engine) : Option (Nat × Nat) :=
  e.queue.findSome? fun j =>
    match j with
    | .archive p q => some (p, q)
    | .restore _ _ _ _ => none

/-- TILE_READ (R216): the oldest archive job of an engine is read once, into the engine's receiving buffer and for the slices. -/
def execTileRead (t : Tick) (engine : Nat) (s : State) : Host.Outcome State Fault Refusal :=
  let s := s.advance t
  .next (match (s.eng engine).nextArchive with
    | some (p, q) =>
      if (s.eng engine).buffer.isSome || engine ≥ 2 || !s.domainRuns 6 then s
      else match s.sill.closed.find? (fun y => y.pos == p && y.seq == q && !y.read) with
        | some y =>
          let r := s.deliverTile y
          (r.1.modEng engine fun e => { e with buffer := some (p, q), bufData := r.2, bufTile := some y }).modClosed p fun y => { y with read := true }
        | none => s
    | none => s)

/-- The tile read found an uncorrectable error (R27): the tile is lost, its flacon is not made, nor finished where its job runs. -/
def State.tileLost (s : State) (t : Tile) (cause : Nat) : State :=
  let stop (e : Engine) : Engine :=
    if e.running == some (.archive t.pos t.seq) then { e with running := none, splits := [], runData := [], runTile := none } else e
  let s := s.enginesDrop t
  let s := { s with engines := s.engines.map stop }.dropSliceTile t.pos t.seq
  let s := s.modSill fun x => { x with closed := x.closed.filter (fun y => !(y.pos == t.pos && y.seq == t.seq)) }
  (s.addGap (t.gap cause)).tileMissing t cause

/-! Coefficient banks (R227, R228). -/

/-- The swap to a bank begins, each set's at its next tile boundary, with CHAN.XFADE as it stands (R227, R232). -/
def State.bankRequest (s : State) (bank : Nat) : State :=
  let x := s.sill
  if x.bankFading then s.modSill fun x => { x with bankPending := true, bankNext := bank }
  else if bank == x.bankActive then s
  else s.modSill fun x => { x with bankFading := true, bankActive := bank, bankAt := s.now, bankXfade := s.p K.chanXfade }

/-- The slice runs a supplied image, whose code is not in the manual. -/
def Slice.supplied (x : Slice) : Bool :=
  match x.image with
  | some im => im.supplied
  | none => false

/-- The supplied band-energy program runs on the slice. -/
def Slice.bandRuns (x : Slice) : Bool :=
  x.status == 2 && (match x.image with | some im => im.supplied && im.kind == 0 | none => false)

/-- Every set has swapped to the active bank, and its slowest band has run CHAN.XFADE samples (R227). A set of another program, whose
filters the model does not hold, keeps no fade back. -/
def State.banksDone (s : State) : Bool :=
  (PS.setHeads s.running).all fun h =>
    let x := s.slc (PS.homeSlice s.running h)
    !x.bandRuns || (match x.sets.find? (fun e => e.1 == h) with
      | some e => e.2.bank == s.sill.bankActive && e.2.swap.isNone
      | none => false)

/-- BANK_FADE_END (R227): the last set's slowest band has run CHAN.XFADE samples. A latched request begins, unless it names
the bank that has just become active. -/
def execBankFadeEnd (t : Tick) (s : State) : Host.Outcome State Fault Refusal :=
  let s := s.advance t
  .next (
    if !s.sill.bankFading || !s.banksDone then s
    else
      let s1 := s.modSill fun x => { x with bankFading := false, bankPending := false, fadeTo := some x.fadeLast }
      if s.sill.bankPending then s1.bankRequest s.sill.bankNext else s1)

/-- A fade overlaps the samples' instants a to b (R228). -/
def State.fadeMeets (s : State) (a b : Tick) : Bool :=
  match s.sill.fadeFrom with
  | none => false
  | some f => f ≤ b && (match s.sill.fadeTo with | some e => a ≤ e | none => true)

/-- CHAN.BANK_STATE (R232). -/
def State.bankState (s : State) : Nat :=
  s.sill.bankActive + 2 * b2n s.sill.bankFading + 4 * b2n s.sill.bankPending +
    8 * (if s.sill.bankPending then s.sill.bankNext else 0)

/-! The base note (R229 to R231, R282). -/

/-- The next base-note segment that is not pinned. n bounds the search. -/
def State.nextBaseSeg (s : State) (seg : Nat) : Nat → Nat
  | 0 => seg
  | n + 1 =>
    let p := seg % max 1 (s.p K.sillBaseMib)
    if s.pinned 2 p then s.nextBaseSeg (p + 1) n else p

/-- The segment written is full: the next one is opened (R282). -/
def State.baseRoom (s : State) : State :=
  if 65536 ≤ s.sill.baseUsed then
    let seg := s.nextBaseSeg (s.sill.baseSeg + 1) (s.p K.sillBaseMib)
    (s.dramZero (PS.baseStart + seg * PS.mib) PS.mib).modSill fun x =>
      { x with baseSeg := seg, baseUsed := 0, base := x.base.filter (fun r => r.seg != seg) }
  else s

/-- Usable address of the next base-note record. -/
def State.baseAt (s : State) : Nat := PS.baseStart + s.sill.baseSeg * PS.mib + 16 * s.sill.baseUsed

/-- Master k appends one record (R230, R282); a write that R69 refuses is faulted and the record is not made. -/
def State.baseAppend (s : State) (k time chKind value : Nat) : State :=
  let s := s.baseRoom
  let seg := s.sill.baseSeg
  let bytes := leBytes 8 time ++ leBytes 4 chKind ++ leBytes 4 value
  if !s.protOk k s.baseAt 16 true then s.protFault k s.baseAt
  else
    let s := (s.dramPut s.baseAt bytes).modSill fun x =>
      { x with base := x.base ++ [{ time := time, chKind := chKind, value := value, seg := seg }], baseUsed := x.baseUsed + 1 }
    let kind := chKind / 2 ^ 17 % 64
    let ch := if kind == 11 then PS.sectionChan s.running (chKind % 2 ^ 17) else some (chKind % 2 ^ 17)
    let s := s.streamOut 3 17 (fun x => match ch with | some c => inSet x.chanSet c | none => false) bytes
    (s.wrote 2 16).pinWritten 2 seg time time

/-- The next record of a slice would be refused (R69). -/
def State.baseRefused (s : State) : Bool := let r := s.baseRoom; !r.protOk mSlice r.baseAt 16 true

/-- Dead band of a kind (R231). -/
def State.deadBand (s : State) (kind : Nat) : Nat :=
  if kind ≤ 7 then s.p K.chanDbBand
  else if kind ≤ 9 then s.p K.chanDbLevel
  else if kind == 10 then s.p K.chanDbRate
  else s.p K.chanDbTemp

/-- Distance of two values of a kind: u16 codes, or i32. -/
def baseDist (kind a b : Nat) : Nat := if kind ≤ 9 then (a - b) + (b - a) else (sext 32 a - sext 32 b).natAbs

/-- Bytes 8 to 11 of the record that a reduction makes if it moved by more than dead (R230, R231). hi gives flags [25] on: CONSENSUS,
and PREDICTED, FADE, SATURATED or the accord flags. -/
def State.baseMoved (s : State) (dead channel kind value hi : Nat) : Option Nat :=
  let key := channel * 16 + kind
  let old := s.sill.lastBase.find? (fun e => e.1 == key)
  let first := old.isNone
  let refresh := match old with
    | some e => secT (s.p K.chanBaseRefreshS) ≤ s.now - e.2.since
    | none => false
  let moved := match old with
    | some e => dead < baseDist kind value e.2.value ||
        (if kind == 11 then e.2.flags != hi else e.2.flags % 2 != hi % 2)
    | none => false
  if first || refresh || moved then
    some (channel % 2 ^ 17 + kind * 2 ^ 17 + 2 ^ 23 * b2n first + 2 ^ 24 * b2n refresh + 2 ^ 25 * hi)
  else none

/-- Master k writes a reduction if it moved. -/
def State.baseWrite (s : State) (k dead time channel kind value hi : Nat) : State :=
  match s.baseMoved dead channel kind value hi with
  | some chKind =>
    (s.baseAppend k time chKind value).modSill fun x =>
      { x with lastBase := aput (channel * 16 + kind) { value := value, flags := hi, since := s.now } x.lastBase }
  | none => s

/-- Flags [25] on of a reduction of kind 0 to 10. -/
def redHi (r : Reduction) (cons : Bool) : Nat :=
  b2n cons + 2 * b2n r.predicted + 4 * b2n r.fade + 8 * b2n r.saturated

/-- Earlier in channel and kind order. -/
def redLe (a b : Reduction) : Bool := a.channel < b.channel || (a.channel == b.channel && a.kind ≤ b.kind)

def redInsert (r : Reduction) : List Reduction → List Reduction
  | [] => [r]
  | x :: xs => if redLe r x then r :: x :: xs else x :: redInsert r xs

/-- Channel and kind order. -/
def redSort (rs : List Reduction) : List Reduction := rs.foldr redInsert []

/-- The newest values of a set, of an interval whose last sample stands at instant last and device time time, and the zone watchers
that wait for them (R264). A band that R224 makes absent gives no value. -/
def State.deliverReds (s : State) (h time : Nat) (last : Tick) (reds : List Reduction) : State :=
  let reds := reds.filter fun r => !s.kindAbsent r.channel r.kind
  (s.modSill fun x =>
    { x with newest := (h, time, last, reds) :: x.newest.filter (fun e => e.1 != h) }).acousticSet h time

/-! Followers (R247). -/

/-- Home slice that slice f follows, if any. -/
def State.follows (s : State) (f : Nat) : Option Nat :=
  let v := s.p (K.sliceFollow + f / 4) / 2 ^ (8 * (f % 4)) % 256
  if v == 0xFF then none else some v

/-- Write into a follower's ring, positions modulo FIN_BYTES. -/
def ringPut (m : Memory) (base size pos : Nat) : List Byte → Memory
  | [] => m
  | b :: bs => ringPut (Memory.write m (base + pos % size) b) base size (pos + 1) bs

/-- A copy of an output goes to every follower of the slice. -/
def State.follow (s : State) (home count kind channel : Nat) (data : List Byte) : State :=
  (List.range 128).foldl (fun s f =>
    if s.follows f == some home then
      match (s.slc f).image with
      | some im =>
        if im.finBytes == 0 || (s.slc f).status != 2 then s
        else
          let packet := leBytes 4 home ++ leBytes 2 count ++ leBytes 1 kind ++ leBytes 1 0 ++ leBytes 4 channel ++ leBytes 4 0 ++
            pad16 data
          let used := ((s.slc f).finHead - (s.slc f).finTail).toNat
          if im.finBytes < used + packet.length then s.bump K.sliceFollowDropped
          else s.modSlc f fun x =>
            { x with dmem := ringPut x.dmem im.finBase im.finBytes x.finHead.toNat packet,
                     finHead := x.finHead + BitVec.ofNat 32 packet.length }
      | none => s
    else s) s

/-! The heart note (R225, R226, R282). -/

def State.heartAddr (s : State) (pos : Nat) : Nat := PS.heartStart s.running + 66560 * pos

/-- The next heart-note slot in ring order that is not pinned and holds no tile in the making. n bounds the search. -/
def State.nextHeartSlot (s : State) (pos : Nat) : Nat → Nat
  | 0 => pos % max 1 (PS.heartSlots s.running)
  | n + 1 =>
    let p := pos % max 1 (PS.heartSlots s.running)
    if s.pinned 1 p || s.sill.hearts.any (fun h => h.pos == p && !h.indexed) then s.nextHeartSlot (p + 1) n else p


/-- A channel of a consensus tile gives no heart samples (R225). -/
def PS.noHeart (ps : PSet) (cons : Bool) : Bool :=
  let n := nTones ps
  cons && !(n == 2 ^ Nat.log2 n && Nat.log2 n ≤ heartLog ps)

/-- Channels of a heart tile. -/
def State.heartChans (s : State) (m : Nat) : List Nat :=
  ((List.range 64).map (· + 64 * m)).filter (· < s.p K.chanChannels)

/-- Runs of consecutive channels: first and number of each. -/
def runsOf (cs : List Nat) : List (Nat × Nat) :=
  cs.foldr (fun c rs => match rs with
    | (a, n) :: rest => if a == c + 1 then (c, n + 1) :: rest else (c, 1) :: rs
    | [] => [(c, 1)]) []

/-- The sum of a count over each source group's tiles, the largest of them: shots are shared by the groups. -/
def HeartTile.shots (h : HeartTile) (f : HeartSrc → Nat) : Nat :=
  ((((h.srcs.map (·.group)).eraseDups).map fun g => ((h.srcs.filter (·.group == g)).map f).sum).max?).getD 0

/-- The last valid column of a heart tile has been written; of one without a valid column, the last. -/
def State.heartFull (s : State) (h : HeartTile) : Bool :=
  let chans := s.heartChans h.index
  let valid := chans.filter (fun c => !h.voids.contains c)
  let full (c : Nat) : Bool := 256 ≤ (aget [] h.cols c).length
  if valid.isEmpty then chans.all full else valid.all full

/-- The header of a heart tile (R28, R215, R228). -/
def State.heartHeader (s : State) (h : HeartTile) (cols : Nat) : List Byte :=
  headerBytes h.start h.firstShot (64 * h.index) cols h.samples 1 (b2n h.cons) (s.p K.synthToneMask) 0 h.period256
    (h.shots (·.subst)) (h.shots (·.ovr)) ((h.srcs.map (·.slip)).sum) h.predicted h.seq h.flags (List.replicate 256 0xFF)

/-- A heart tile is full: its last valid column has been written, and it is indexed (R226). Channels without heart samples get one
NO_HEART gap record for each run of them; a tile of such channels alone is not indexed (R225). -/
def State.heartIndex (s : State) (h : HeartTile) : State :=
  let chans := s.heartChans h.index
  let valid := chans.filter (fun c => !h.voids.contains c)
  if !s.heartFull h then s
  else
    let stop := h.startTick + 256 * (PS.heartStep s.running)
    let seq := aget 0 s.sill.heartSeq h.index
    let h' := { h with indexed := !valid.isEmpty, samples := 256, seq := seq, flags := h.flags ||| (16 * b2n (s.fadeMeets h.startTick stop)) }
    let s :=
      if valid.isEmpty then s.modSill fun x => { x with hearts := x.hearts.filter (fun y => y.pos != h.pos || y.indexed) }
      else
        (((s.dramPut (s.heartAddr h.pos) (s.heartHeader h' chans.length)).modSill fun x =>
          { x with hearts := x.hearts.map (fun y => if y.pos == h.pos then h' else y),
                   heartSeq := aput h.index ((seq + 1) % 2 ^ 32) x.heartSeq }).wrote 1 66560).pinWritten 1 h.pos h'.start h'.stop
    (runsOf (chans.filter h.voids.contains)).foldl (fun s r =>
      s.addGap { start := h'.start, stop := h'.stop, firstCol := r.1, cols := r.2, tier := 1, cause := 7, tiles := 1 }) s

/-- What a top-note tile gives a channel's heart note: the samples, of which the first stands for the instant at_ (zeros for a channel
without heart samples), header flags, the tile's counts, predicted channel samples and mode. -/
structure HeartPiece where
  chan  : Nat
  at_   : Tick
  xs    : List Nat
  void  : Bool
  flags : Nat
  src   : Option HeartSrc
  pred  : Nat
  cons  : Bool

/-- A heart tile takes a piece's marks. -/
def HeartTile.mark (h : HeartTile) (p : HeartPiece) : HeartTile :=
  { h with voids := if p.void && !h.voids.contains p.chan then p.chan :: h.voids else h.voids,
           srcs := match p.src with | some x => if h.srcs.contains x then h.srcs else x :: h.srcs | none => h.srcs,
           predicted := h.predicted + p.pred, cons := h.cons || p.cons }

/-- A piece goes into its channel's heart tiles, each sample at the row of its instant or after what the column holds (R226). Rows
that were never written hold zeros. n bounds the tiles. true: a write was refused under R69 and faulted, and the rest with it. -/
def State.heartPut (s : State) (shot : Tick → Nat) (p : HeartPiece) : Nat → State × Bool
  | 0 => (s, false)
  | n + 1 =>
    if p.xs.isEmpty then (s, false)
    else
      let ps := s.running
      let c := p.chan
      let step := PS.heartStep ps
      let m := c / 64
      let here (h : HeartTile) : Bool := h.index == m && !h.indexed && (aget [] h.cols c).length < 256
      let s := if s.sill.hearts.any here then s
        else
          let pos := s.nextHeartSlot s.sill.heartNext (PS.heartSlots ps)
          let h : HeartTile :=
            { index := m, startTick := p.at_, start := s.devRound p.at_, stopTime := s.devRound (p.at_ + 256 * step),
              firstShot := shot p.at_,
              period256 := rdiv (s.p K.synthShotPeriodNs * 256 * s.p K.chanHeartDecim) (PS.nTones ps),
              samples := 0, cols := [], seq := 0, pos := pos, indexed := false, flags := p.flags }
          (s.dramZero (s.heartAddr pos) 66560).modSill fun x =>
            { x with hearts := (x.hearts.filter (fun y => y.pos != pos)) ++ [h], heartNext := (pos + 1) % PS.heartSlots ps }
      match s.sill.hearts.find? here with
      | none => (s, false)
      | some h =>
        -- samples that stand before the tile have no row in it
        let early := (h.startTick - p.at_ + step / 2) / max 1 step
        let p := { p with at_ := p.at_ + early * step, xs := p.xs.drop early }
        let old := aget [] h.cols c
        let row := min 256 (max old.length (rdiv (p.at_ - h.startTick) step))
        let now_ := p.xs.take (256 - row)
        let h' := { h.mark p with cols := aput c (old ++ List.replicate (row - old.length) 0 ++ now_) h.cols }
        let cell (r : Nat) : Nat := s.heartAddr h.pos + 1024 + 256 * r + 4 * (c % 64)
        let areas := (List.range now_.length).map (fun i => (cell (row + i), 4)) ++
          (if s.heartFull h' then [(s.heartAddr h.pos, 1024)] else [])
        match areas.find? (fun a => !s.protOk mSlice a.1 a.2 true) with
        | some a => (s.protFault mSlice a.1, true)
        | none =>
          let s := (now_.zipIdx).foldl (fun (s : State) e => s.dramPut (cell (row + e.2)) (leBytes 4 e.1)) s
          let s := s.modSill fun x =>
            { x with hearts := x.hearts.map (fun y => if y.pos == h.pos then h' else y) }
          (s.heartIndex h').heartPut shot
            { p with flags := 0, at_ := p.at_ + now_.length * step, xs := p.xs.drop now_.length, pred := 0 } n

/-- Heart samples of a channel arrive (R226). The same samples go to the sessions as a heart item (R324). -/
def State.heartColumn (s : State) (shot : Tick → Nat) (p : HeartPiece) (chainReset : Bool) : State × Bool :=
  let ps := s.running
  let period := rdiv (s.p K.synthShotPeriodNs * 256 * s.p K.chanHeartDecim) (PS.nTones ps)
  let item := leBytes 4 p.chan ++ leBytes 2 p.xs.length ++ leBytes 1 (b2n p.cons + 2 * b2n chainReset) ++
    leBytes 1 0 ++ leBytes 8 (s.devRound p.at_) ++ leBytes 8 period ++ p.xs.flatMap (leBytes 4)
  let s := if s.p K.chanChannels ≤ p.chan || p.void then s else s.streamOut 2 16 (fun x => inSet x.chanSet p.chan) item
  if !s.pB K.chanHeartEn || PS.heartSlots ps == 0 || s.p K.chanChannels ≤ p.chan then (s, false)
  else s.heartPut shot p (p.xs.length + 2)

/-- The counts of a top-note tile for the heart tiles made of it. -/
def Tile.heartSrc (t : Tile) : HeartSrc := { group := t.group, seq := t.seq, subst := t.subst, ovr := t.ovr, slip := t.slip }

/-- Shot number of the shot that gave a tile's row at an instant (R19, R215). -/
def State.tileShot (s : State) (t : Tile) (at_ : Tick) : Nat :=
  let ps := s.running
  let first := match t.slotOf with
    | k :: _ => ((PS.tones ps).idxOf? k).getD 0
    | [] => 0
  let rows := (at_ - t.startTick) / (if t.cons then PS.period ps else PS.stagger ps)
  (t.firstShot + (if t.cons then rows else (first + rows) / PS.nTones ps)) % 2 ^ 32

/-! Emptying (R280, R299, R300, R363). -/

/-- The base note, fresh ring, heart note and archive are emptied, with index entries and gap records. -/
def State.emptyTiers (s : State) : State :=
  s.modSill fun x =>
    { x with openTiles := [], closed := [], nextSlot := 0, gaps := [], base := [], baseSeg := 0, baseUsed := 0, lastBase := [],
             hearts := [], heartNext := 0, flacons := [], segments := [], segNext := 0, elastic := [] }

end Sys2Proof.Machine
end

