-- ==== Sys2Proof/Machine/Shift.lean ====
section
/-!
DEFINITION. The supplied spectral-shift program (R197 to R200): patterns of a window, their correlation with the stored
reference, and the cumulative shift. Patterns are kept in units of 1/65,536 of AMPLITUDE.
-/
namespace Sys2Proof.Machine

/-- Rows of a tile with slot k that are not displaced (R198): their row numbers. firstShot is counted on at each wrap of the
launch order. -/
def rowsOf (ps : PSet) (t : Tile) (k : Nat) : List Nat :=
  let mark := t.slotOf.foldl (fun (acc : List (Nat × Nat) × Nat × Option Nat) sl =>
    let shot := match acc.2.2 with
      | some p => if sl ≤ p then acc.2.1 + 1 else acc.2.1
      | none => acc.2.1
    (acc.1 ++ [(sl, shot)], shot, some sl)) ([], t.firstShot, none)
  let displaced (sl shot : Nat) : Bool :=
    PS.g ps K.synthRamanMode == 2 && PS.g ps K.synthRamanSlot == sl && shot % PS.g ps K.synthRamanK == 0
  idxWhere (fun e => e.1 == k && !displaced e.1 e.2) mark.1

/-- Pattern p_k(b): the mean AMPLITUDE over the tile's samples of tone k, none where there is none. -/
def State.patternAt (s : State) (tiles : List (Tile × List Byte)) (k b : Nat) : Option Int :=
  match tiles.find? (fun e => e.1.group == b / 64) with
  | none => none
  | some (t, data) =>
    let rows := rowsOf s.running t k
    if rows.isEmpty then none
    else
      let sum := (rows.map fun r => fld data (256 * r + 4 * (b % 64)) 4 / 65536 % 32768).sum
      some ((rdiv (sum * 65536) rows.length : Nat) : Int)

/-- Sums of one tone at one lag: over the bins that both patterns have. -/
def lagSums (p r : List (Option Int)) : Int × Int × Int :=
  let both := (p.zip r).filterMap fun e => match e.1, e.2 with
    | some a, some b => some (a, b)
    | _, _ => none
  let n : Int := both.length
  let sp := (both.map (·.1)).sum
  let sr := (both.map (·.2)).sum
  (n * (both.map (fun e => e.1 * e.2)).sum - sp * sr, n * (both.map (fun e => e.1 * e.1)).sum - sp * sp,
   n * (both.map (fun e => e.2 * e.2)).sum - sr * sr)

/-- C(l) in 2^-32 (R198). Where a denominator is 0 the manual gives none: a FREE VALUE. -/
def corrAt (p : List (List (Option Int))) (ref : List (List (Option Int))) (m : Nat) (l : Int) (free : Nat) : Int :=
  let off := ((m : Int) + l).toNat
  let parts : List (Int × Int × Int) := (p.zip ref).map fun e => lagSums ((e.1.drop off).take 40) e.2
  let num : Int := (parts.map fun e => e.1).sum
  let dp : Int := (parts.map fun e => e.2.1).sum
  let dr : Int := (parts.map fun e => e.2.2).sum
  let den := isqrt (dp.toNat * dr.toNat)
  if den = 0 then ((Config.free free % (2 ^ 33 + 1) : Nat) : Int) - 2 ^ 32
  else Int.tdiv (num * 2 ^ 32) den

/-- Peak: the largest C(l), the lowest lag on a tie; then λ in 1/256 bin by the parabola. -/
def peakOf (cs : List (Int × Int)) (free : Nat) : Int × Int × Int :=
  let best := cs.foldl (fun (b : Option (Int × Int)) e =>
    match b with
    | none => some e
    | some q => if q.2 < e.2 then some e else some q) none
  match best with
  | none => (0, 0, 0)
  | some (l, c) =>
    let at_ (x : Int) : Option Int := (cs.find? (fun e => e.1 == x)).map (·.2)
    match at_ (l - 1), at_ (l + 1) with
    | some a, some b =>
      let d := 2 * c - a - b
      let f := if d ≤ 0 then ((Config.free free % 257 : Nat) : Int) - 128 else rdivI (128 * (b - a)) d.toNat
      (l, 256 * l + f, c)
    | _, _ => (l, 256 * l, c)

/-- The results of a window that an update may still use (R202): those of the last 3 s and the newest before them. -/
def newResults (stop : Nat) (rs : List ShiftRes) : List ShiftRes :=
  let old := rs.filter (fun r => r.stop + 3000000000 < stop)
  old.drop (old.length - 1) ++ rs.filter (fun r => stop ≤ r.stop + 3000000000)

/-- One window of the tiles that share a start (R198, R199, R200). -/
def State.shiftWindow (s : State) (j stop : Nat) (tiles : List (Tile × List Byte)) : State :=
  let ps := s.running
  let lo := j * PS.g ps K.thermShiftStride
  let m := PS.g ps K.thermShiftMaxLag
  let bins : List (Option Nat) := (List.range (40 + 2 * m)).map fun i =>
    if lo + i < m || PS.g ps K.pceBins ≤ lo + i - m then none else some (lo + i - m)
  let p := (PS.tones ps).map fun k => bins.map fun b => b.bind (s.patternAt tiles k)
  let own := p.map (fun x => (x.drop m).take 40)
  let keep : List (List Int) := own.map (fun x => x.map (fun v => v.getD (-1)))
  let w := aget {} s.therm.windows j
  let put (s : State) (w : ShiftWin) (rho : Nat) (locked renewed : Bool) : State :=
    let s := s.modTherm fun h =>
      { h with windows := aset {} h.windows j w,
               shifts := aput j (newResults stop (aget [] h.shifts j) ++
                 [{ stop := stop, u := w.u, rho := rho, locked := locked, renewed := renewed }]) h.shifts }
    if locked then s else s.bump K.thermShiftUnlockCount
  if !w.started then put s { ref := keep, o := 0, u := 0, started := true } 0 false false
  else
    let ref := w.ref.map (fun x => x.map (fun v => if v < 0 then none else some v))
    let lags : List Int := (List.range (2 * m + 1)).map (fun (i : Nat) => (i : Int) - m)
    let cs := lags.map (fun l => (l, corrAt p ref m l (s.fresh + (l + m).toNat)))
    let pk := peakOf cs (s.fresh + 64)
    let s := { s with fresh := s.fresh + 65 }
    let rho := satU 16 (pk.2.2 / 65536)
    let locked := (s.p K.thermShiftMinRho : Int) * 65536 ≤ pk.2.2 && pk.1.natAbs < m
    if !locked then put s { w with ref := keep } rho false false
    else
      let u := sext 32 (uns 32 (w.o + pk.2.1))
      if 256 * PS.g ps K.thermShiftRenewLag < pk.2.1.natAbs then
        put s { w with ref := keep, o := u, u := u } rho true true
      else put s { w with u := u } rho true false

/-- The supplied spectral-shift program ends a tile: of the windows of slice i that take a bin of it, those whose bins' tiles of the same
start are now all there give their results, but none with a bin in a consensus group (R197). Lags into a consensus group find no
pattern. -/
def State.shiftTile (s : State) (i : Nat) (y : SliceTile) : State :=
  let ps := s.running
  let t := y.tile
  let w := PS.g ps K.thermShiftStride
  let taken := ((s.slc i).taken.filter (fun e => t.startTick ≤ e.1.startTick + 2 * 256 * t.step)) ++
    [(t, match y.read with | some r => r.2 | none => [])]
  let s := s.modSlc i fun x => { x with taken := taken }
  let tiles := taken.filter (fun e => e.1.startTick == t.startTick)
  let ready (j : Nat) : Bool :=
    let span := PS.windowSpan ps j
    (List.range (span.2 / 64 + 1 - span.1 / 64)).all fun k =>
      let g := span.1 / 64 + k
      s.inCons g || tiles.any (fun e => e.1.group == g)
  let ws := (PS.groupWindows ps t.group).filter fun j =>
    (s.windowSlice j).1 == i && !(s.inCons (j * w / 64)) && !(s.inCons ((j * w + 39) / 64)) && ready j
  if t.cons then s else ws.foldl (fun s j => s.shiftWindow j (s.devRound t.lastTick) tiles) s

/-- Every window's reference goes (R199). -/
def State.shiftReset (s : State) : State := s.modTherm fun h => { h with windows := [] }

end Sys2Proof.Machine
end

