-- ==== Sys2Proof/Machine/Therm.lean ====
section
/-!
DEFINITION. Temperature (chapter 08): Raman launches and accumulations, the ratio stage, the reference coil, the accord and
its frame.
-/
namespace Sys2Proof.Machine

/-! Raman launches and accumulations (R87, R88, R188 to R191). -/

/-- The Raman launch interval I (R188). -/
def PS.ramanInterval (ps : PSet) : Tick :=
  if g ps K.synthRamanMode == 2 then g ps K.synthRamanK * period ps else period ps

/-- Cell time in ticks: 4 ns × 2^THERM.RAMAN_CELL_LOG2 (R189). -/
def PS.cellT (ps : PSet) : Tick := nsT (4 * 2 ^ g ps K.thermRamanCellLog2)

/-- A record's time from its launch to its end (R189). -/
def PS.recordT (ps : PSet) : Tick := nsT (g ps K.thermRamanPathNs) + g ps K.thermRamanCells * cellT ps

/-- E4 is lit and has settled (R191). -/
def State.e4Settled (s : State) : Bool :=
  let x := s.ch 4
  s.lit 4 && x.risen && !x.busy &&
    (if bit (s.p K.emitLoopMode) 4 then x.loopClosed else x.rampEndAt + msT 10 ≤ s.now)

/-- The Raman unit is measuring (R191). -/
def State.measuring (s : State) : Bool := s.e4Settled && s.modValid 3 && !s.emit.apdCut && !s.ilk.latched

/-- Instant at which the group in progress drives RMNGATE, if it does (R87, R88). -/
def State.groupRaman (s : State) : Option Tick :=
  let ps := s.running
  match PS.g ps K.synthRamanMode with
  | 1 => some (s.run.boundary + nsT (PS.g ps K.synthRamanDelayNs))
  | 2 =>
    if s.run.shot % PS.g ps K.synthRamanK == 0 then
      match (PS.tones ps).idxOf? (PS.g ps K.synthRamanSlot) with
      | some pos => some (s.run.boundary + PS.launchOff ps pos)
      | none => none
    else none
  | _ => none

/-- RMNGATE is due at this instant: as the groups ask while they launch, else at interval I from the last launch while E4 is lit
(R188). -/
def State.ramanDue (s : State) : Bool :=
  if s.run.state == 1 then
    match s.groupRaman with
    | some t => t ≤ s.now && !(s.run.rmngate.any (fun g => g.1 == t))
    | none => false
  else s.lit 4 && s.clk.mode ≥ 2 &&
    (match s.therm.lastLaunch with
     | some l => l + PS.ramanInterval s.running ≤ s.now
     | none => true)

/-- RAMAN_LAUNCH (R87, R88, R188 to R191): the source launches and a record begins, of which rma and rms are the lanes' codes; a pulse
before the end of the previous record is suppressed. A bench test keeps the gate low (R144). -/
def execRamanLaunch (t : Tick) (rma rms : List Int) (s : State) : Host.Outcome State Fault Refusal :=
  let s := (s.advance t).ramanTake
  .next (
    let ps := s.running
    let at_ := if s.run.state == 1 then (s.groupRaman).getD s.now else s.now
    if s.ilk.latched || s.bench || PS.g ps K.synthRamanMode == 0 || PS.g ps K.thermSections == 0 || !s.ramanDue then s
    else if at_ < s.therm.recordEnd then
      s.modRun fun r => { r with rmngate := ((at_, at_) :: r.rmngate).take 4 }
    else
      let s := s.modRun fun r => { r with rmngate := ((at_, at_ + nsT (PS.g ps K.synthRamanPulseNs)) :: r.rmngate).take 4 }
      let cells := PS.g ps K.thermRamanCells
      let width := 2 ^ PS.g ps K.thermRamanCellLog2
      let rec_ (sums : Bool) : RamanRec :=
        { start := at_ + nsT (PS.g ps K.thermRamanPathNs), rma := (rma.take (cells * width)).map (satI 14),
          rms := (rms.take (cells * width)).map (satI 14), cells := cells, width := width, taken := 0, sums := sums }
      let s := s.modTherm fun h => { h with lastLaunch := some at_, recordEnd := at_ + PS.recordT ps, measuring := s.measuring }
      let n := s.therm.records.getD 0
      if !s.measuring then s.ramanAbort.modTherm fun h => { h with record := some (rec_ false) }
      else if 2 ^ PS.g ps K.thermRamanAccLog2 ≤ n then s.modTherm fun h => { h with record := some (rec_ false) }
      else (s.modTherm fun h => { h with records := some (n + 1), record := some (rec_ true) }).perfEvent 0x0202 0xFF 0xFF 1)

/-! The coil (R194 to R196, R413). -/

/-- An IEEE 754 binary32 as a multiple of 2^-149 (R120: each coefficient is finite). -/
def f32 (w : Nat) : Int :=
  let e := w / 2 ^ 23 % 256
  let m := w % 2 ^ 23
  let v : Nat := if e = 0 then m else (m + 2 ^ 23) * 2 ^ (e - 1)
  if bit w 31 then -(v : Int) else (v : Int)

/-- Fields of the coil box record (R120). -/
def State.coilSensors (s : State) : Nat := s.recF 4 33 1
def State.coilType (s : State) : Nat := s.recF 4 32 1
def State.coilCoef (s : State) (i : Nat) : Int := f32 (s.recF 4 (36 + 4 * i) 4)

/-- R / 100 Ω at temperature h / 20,000 °C, in units of 2^-149 × 20,000^-4, of the PT100 equation (R195). -/
def State.pt100 (s : State) (h : Int) : Int :=
  let u : Int := 20000
  let c := if h < 0 then s.coilCoef 2 * (h - 100 * u) * h * h * h else 0
  2 ^ 149 * u * u * u * u + s.coilCoef 0 * h * u * u * u + s.coilCoef 1 * h * h * u * u + c

/-- The largest h of lo to lo + 2^k − 1 that f keeps, f holding below and not above some point. -/
def bisect (f : Int → Bool) : Nat → Int → Int
  | 0, lo => lo
  | k + 1, lo => if f (lo + 2 ^ k) then bisect f k (lo + 2 ^ k) else bisect f k lo

/-- Temperature in 0.1 mK for the sum of a pair's codes, at the coil's settings; none outside −50 °C to 150 °C (R195). -/
def State.coilTempOf (s : State) (sum : Int) : Option Int :=
  let good (t : Int) : Option Int := if -500000 ≤ t && t ≤ 1500000 then some t else none
  if sum ≤ 0 then none
  else if s.coilType == 1 then
    -- R = (sum / 2) × REF_OHM1 mΩ / (2^23 × 8); R/100 Ω compared with the equation
    let num : Int := sum * (s.p (K.instRefOhm + 1) : Nat) * 2 ^ 149 * 20000 ^ 4
    let den : Int := 2 * 2 ^ 23 * 8 * 100000
    let ok (h : Int) : Bool := s.pt100 h * den ≤ num
    let h := bisect ok 22 (-1100000)
    good ((h + 1) / 2)
  else
    let n := (sum.toNat) * s.p K.instRefOhm
    let l := lnFx n (2 * 2 ^ 23 * 1000)
    let inv : Int := s.coilCoef 0 + s.coilCoef 1 * l / 2 ^ 48 + s.coilCoef 2 * l * l * l / 2 ^ 144
    if inv ≤ 0 then none else good (rdivI (10000 * 2 ^ 149) inv.toNat - 2731500)

/-- Good readings that are current, 0.1 mK. -/
def State.coilReadings (s : State) : List Int :=
  if !s.modValid 4 then []
  else s.therm.sensors.filterMap fun e =>
    match e with
    | some (v, at_) => if s.now ≤ at_ + 3 * msT (s.p K.thermCoilReadMs) then some v else none
    | none => none

/-- The coil temperature (R195), none while no good reading is current or the record is not VALID. -/
def State.coilNow (s : State) : Option Int :=
  let xs := s.coilReadings
  if xs.isEmpty then none else some (rdivAway xs.sum xs.length)

/-- Ask for the next half of the coil sequence. -/
def State.coilAsk (s : State) : State :=
  let i := s.therm.coilIdx
  let input := s.p K.thermCoilAin / 2 ^ (8 * i) % 256
  s.inject 3 input (if s.coilType == 1 then pt100Cfg else coilThCfg) s.therm.coilFirst.isSome

/-- COIL_READ (R195, R413): the sequence over the sensors begins, THERM.COIL_READ_MS or more after the last, unless one is still
going on. -/
def execCoilRead (t : Tick) (s : State) : Host.Outcome State Fault Refusal :=
  let s := s.advance t
  let early := match s.therm.coilReadAt with
    | some a => decide (s.now < a + msT (s.p K.thermCoilReadMs))
    | none => false
  .next (
    if early || s.therm.coilBusy || !s.modValid 4 || s.coilSensors == 0 || !s.instRuns then s
    else (s.modTherm fun h =>
      { h with coilBusy := true, coilIdx := 0, coilFirst := none, coilReadAt := some s.now }).coilAsk)

/-- The spread of the good readings is judged (R195). -/
def State.coilSpread (s : State) : State :=
  let xs := s.coilReadings
  match xs.max?, xs.min? with
  | some hi, some lo =>
    let wide := 10 * (s.p K.thermCoilSpreadMk : Int) < hi - lo
    if wide && !s.therm.spreadRaised then (s.modTherm fun h => { h with spreadRaised := true }).health 9 0 1 0xFF
    else if !wide then s.modTherm fun h => { h with spreadRaised := false }
    else s
  | _, _ => s

/-- A coil conversion has ended: its sign-corrected code, or none where the result was discarded. -/
def State.coilReading (s : State) (code : Option Int) : State :=
  let i := s.therm.coilIdx
  let onward (s : State) : State :=
    -- a box removed since the sequence began (R196)
    if i + 1 < s.coilSensors && s.modValid 4 && i < 4 then
      (s.modTherm fun h => { h with coilIdx := i + 1, coilFirst := none }).coilAsk
    else s.modTherm fun h => { h with coilBusy := false, coilFirst := none }
  match code with
  | none => onward s
  | some c =>
    match s.therm.coilFirst with
    | none => if 4 ≤ i || !s.modValid 4 then onward s else (s.modTherm fun h => { h with coilFirst := some c }).coilAsk
    | some c0 =>
      match if 4 ≤ i || !s.modValid 4 then none else s.coilTempOf (c0 + c) with
      | some v =>
        let s := (s.modTherm fun h => { h with sensors := modAt (fun _ => some (v, s.now)) h.sensors i }).coilSpread
        onward (s.modTherm fun h => { h with coilGood := some (s.coilNow.getD v, s.now), coilLost := none })
      | none => onward s

/-- Instant from which the coil has been without a current reading. -/
def State.coilLostAt (s : State) : Option Tick :=
  match s.therm.coilGood with
  | some (_, at_) => some (min (at_ + 3 * msT (s.p K.thermCoilReadMs)) (s.therm.coilLost.getD (at_ + 3 * msT (s.p K.thermCoilReadMs))))
  | none => none

/-- Instant from which the coil has been unavailable, for want of a reading, of its record or of L_c; none while it is available, and
before its first reading (R196). -/
def State.coilOutAt (s : State) : Option Tick :=
  if s.coilNow.isSome then s.therm.lcLost
  else match s.coilLostAt, s.therm.lcLost with
    | some a, some b => some (min a b)
    | some a, none => some a
    | none, b => b

/-- The coil temperature at the instant the last readings ceased to be current (R196): the mean of the newest. -/
def State.coilLast (s : State) : Option Int :=
  let xs := s.therm.sensors.filterMap id
  match (xs.map (·.2)).max? with
  | some a =>
    let ys := (xs.filter (fun e => e.2 == a)).map (·.1)
    some (rdivAway ys.sum ys.length)
  | none => s.therm.coilGood.map (·.1)

/-- The coil box is removed (R115, R196): its readings count no more, and a sequence over its sensors ends. -/
def State.coilGone (s : State) : State :=
  let last := match s.coilNow with | some v => some v | none => s.coilLast
  s.modTherm fun h =>
    { h with coilLost := some s.now, sensors := List.replicate 4 none, coilIdx := if h.coilBusy then 4 else h.coilIdx,
             coilGood := match last, h.coilGood with
               | some v, some g => some (v, g.2)
               | _, g => g }

/-- COIL_HOLD_EXPIRED (R196). -/
def execCoilHoldExpired (t : Tick) (s : State) : Host.Outcome State Fault Refusal :=
  let s := s.advance t
  .next (match s.coilOutAt with
    | some a =>
      if !s.therm.coilExpired && a + secT (s.p K.thermCoilHoldS) ≤ s.now && s.clk.mode ≥ 2 then
        (s.modTherm fun h => { h with coilExpired := true }).health 9 0 2 2
      else s
    | none => s)

/-- T_c of an accumulation that ends now, and whether it is held; none once the hold has expired (R195, R196). -/
def State.coilUse (s : State) : Option (Int × Bool) :=
  match s.coilNow with
  | some v => some (v, false)
  | none =>
    match s.coilLast, s.coilOutAt with
    | some v, some a => if s.now < a + secT (s.p K.thermCoilHoldS) then some (v, true) else none
    | _, _ => none

/-- RAMAN_ACCUMULATION_COMPLETE (R190 to R192, R195): the last record of an accumulation has ended; the buffers swap. -/
def execRamanAccumulationComplete (t : Tick) (s : State) : Host.Outcome State Fault Refusal :=
  let s := (s.advance t).ramanTake
  .next (
    let full := match s.therm.records with
      | some n => 2 ^ s.p K.thermRamanAccLog2 ≤ n
      | none => false
    if !full || s.now < s.therm.recordEnd then s
    else if !s.measuring then s.ramanAbort
    else
      let u := s.coilUse
      let h := s.therm
      let acc : RamanAcc :=
        { as := h.accAs, s := h.accS, asOvr := h.accAsOvr, sOvr := h.accSOvr, stop := s.devRound h.recordEnd,
          coil := u.map (·.1), held := match u with | some v => v.2 | none => false,
          gi := s.p K.pceGroupIndex }
      s.modTherm fun h =>
        { h with records := none, accAs := [], accS := [], accAsOvr := [], accSOvr := [], ready := some acc,
                 coilExpired := if s.coilNow.isSome && h.lcLost.isNone then false else h.coilExpired })

/-! From ratio to temperature (R193, R194). -/

/-- Cell of twice a bin position in a lane with group index gx (R193 step 2). -/
def PS.cellOf (ps : PSet) (gx : Nat) (c2 : Nat) : Int :=
  let g0 := g ps K.pceGroupIndex
  rdivI (((c2 * binT ps * gx : Nat) : Int) - ((2 * g0 * nsT (g ps K.thermRamanPathNs) : Nat) : Int)) (2 * g0 * cellT ps)

/-- Twice the centre bin of a section (R187). -/
def PS.centre2 (ps : PSet) (sec : Nat) : Nat :=
  2 * g ps K.thermSectionFirstBin + 2 * sec * g ps K.thermSectionBins + g ps K.thermSectionBins - 1

/-- Bin pitch in 10^-12 m: v × Δ / 2 (R147). -/
def PS.pitchPm (ps : PSet) : Nat :=
  -- 299,792,458 × 10^6 / GROUP_INDEX m/s; Δ in ticks of 1/6,881,280 ns
  299792458 * 1000000 * binT ps * 1000 / (2 * g ps K.pceGroupIndex * 6881280)

/-- Cells averaged around a cell. -/
def avgCells (c : Int) (n : Nat) : List Int := (List.range n).map (fun (i : Nat) => c - ((n - 1) / 2 : Nat) + i)

def cellAt (xs : List Int) (c : Int) : Int := if c < 0 then 0 else nth 0 xs c.toNat

/-- Cells of a lane that lie in the coil span (R194): bins' times from the span's ends. -/
def PS.coilCells (ps : PSet) (gx coilM : Nat) : List Int :=
  let pitch := max 1 (pitchPm ps)
  let startPm := (g ps K.thermCoilStartMm + 1000 * g ps K.thermCoilGuardM) * 1000000000
  let endPm := (g ps K.thermCoilStartMm + 1000 * coilM - 1000 * g ps K.thermCoilGuardM) * 1000000000
  let lo := cellOf ps gx (cdiv (2 * startPm) pitch)
  let hi := cellOf ps gx (2 * endPm / pitch)
  if hi < lo then [] else (List.range (hi - lo + 1).toNat).map (fun (i : Nat) => lo + i)

/-- ln of the ratio of dark-corrected means of cells as / ss of the two lanes, binary32 (R193 steps 3 and 4); none where a mean is 0 or
less. The division of every term by 2^n is exact and leaves the ratio. free: three free values. -/
def logRatio (free : Nat) (a b : List Int) (as ss : List Int) (darkA darkB : Int) : Option Int :=
  let x := b32Sub (b32Mean (Config.free free) (as.map (cellAt a))) darkA
  let y := b32Sub (b32Mean (Config.free (free + 1)) (ss.map (cellAt b))) darkB
  if as.isEmpty || ss.isEmpty || x ≤ 0 || y ≤ 0 then none else some (b32LnRatio (Config.free (free + 2)) x y)

/-- T_s in 0.1 mK (R193 steps 5 and 6) in binary32, from T_c in 0.1 mK, L_s, L_c, twice c_s and twice d_c in mm. Where 1 / T_s is 0 or
less, and where T_s has no place in an i32, the manual states no result: a FREE VALUE. -/
def ramanTemp (ps : PSet) (tc ls lc : Int) (c2 dc2 free : Nat) : Int :=
  let gamma := b32 (PS.gI ps K.thermDiffAttenMdbKm * (ln10Fx : Nat) * 2 ^ 48) (10 ^ 7)
  let delta := b32 ((662607015 * PS.g ps K.thermRamanShiftGhz * 2 ^ 96 : Nat) : Int) 13806490000
  let ds := b32 ((c2 * PS.pitchPm ps * 2 ^ 96 : Nat) : Int) (2 * 10 ^ 12)
  let dc := b32 ((dc2 * 2 ^ 96 : Nat) : Int) 2000
  let bracket := b32Add (b32Sub ls lc) (b32Mul gamma (b32Sub ds dc))
  let one := b32Int 1
  let inv := b32Sub (b32Div one (b32 ((tc + 2731500) * 2 ^ 96) 10000)) (b32Mul (b32Div one delta) bracket)
  if inv ≤ 0 then sext 32 (Config.free free)
  else
    let v := rdivI (b32Sub (b32Div one inv) (b32 (2731500 * 2 ^ 96) 10000) * 10000) (2 ^ 96)
    if v < -(2 ^ 31) || 2 ^ 31 ≤ v then sext 32 (Config.free free) else v

/-- Raman temperatures that an update may still take at device time now: of those no later than its whole second the newest, and every
later one (R201). -/
def keptRaman (now : Nat) (xs : List RamanTemp) : List RamanTemp :=
  let S := now / 1000000000 * 1000000000
  xs.filter (fun x => S < x.stop) ++ (xs.filter (fun x => x.stop ≤ S)).take 1

/-- RAMAN_RATIO_DONE (R193, R194, R196): the ratio stage has finished with the buffer it was given. Where L_c cannot be formed
the coil is unavailable: until the hold expires a section still takes a Raman temperature, held, and the manual gives no L_c
to make it with: a FREE VALUE. -/
def execRamanRatioDone (t : Tick) (s : State) : Host.Outcome State Fault Refusal :=
  let s := s.advance t
  .next (match s.therm.ready with
    | none => s
    | some acc =>
      let ps := setPut s.running K.pceGroupIndex acc.gi
      let first := PS.g ps K.thermDarkFirstCell
      let dk := PS.g ps K.thermDarkCells
      let dark (free : Nat) (xs : List Int) : Int :=
        b32Mean (Config.free free) ((List.range dk).map (fun i => nth 0 xs (first + i)))
      let dA := dark s.fresh acc.as
      let dS := dark (s.fresh + 1) acc.s
      let gA := PS.g ps K.thermGiAs
      let gS := PS.g ps K.thermGiS
      let coilM := s.recF 4 34 2
      let lc := if s.modValid 4 then
          logRatio (s.fresh + 2) acc.as acc.s (PS.coilCells ps gA coilM) (PS.coilCells ps gS coilM) dA dS else none
      let lost := if s.modValid 4 && acc.coil.isSome && lc.isNone then some (s.therm.lcLost.getD s.now) else none
      let s := { s with fresh := s.fresh + 5 }
      let s := s.modTherm fun h =>
        { h with ready := none, lcLost := lost, coilExpired := h.coilExpired && (lc.isNone || s.coilNow.isNone) }
      let overdue := match lost with | some a => decide (a + secT (s.p K.thermCoilHoldS) ≤ s.now) | none => false
      let dc2 := 2 * PS.g ps K.thermCoilStartMm + 1000 * coilM
      let avg := PS.g ps K.thermRamanAvgCells
      let one (s : State) (sec : Nat) : State :=
        let c2 := PS.centre2 ps sec
        let ca := avgCells (PS.cellOf ps gA c2) avg
        let cs := avgCells (PS.cellOf ps gS c2) avg
        let marked (cells : List Int) (ovr : List Nat) : Bool := cells.any (fun c => 0 ≤ c && ovr.contains c.toNat)
        let x := aget ({} : Section) s.therm.sections sec
        if marked ca acc.asOvr || marked cs acc.sOvr then
          s.modTherm fun h => { h with sections := aset {} h.sections sec { x with ovr := acc.stop :: x.ovr } }
        else match acc.coil, overdue, logRatio s.fresh acc.as acc.s ca cs dA dS with
          | some tc, false, some ls =>
            let v := match lc with
              | some l => ramanTemp ps tc ls l c2 dc2 (s.fresh + 3)
              | none => sext 32 (Config.free (s.fresh + 3))
            let r : RamanTemp := { value := v, stop := acc.stop, held := acc.held || lc.isNone, coil := tc }
            { s with fresh := s.fresh + 4 }.modTherm fun h =>
              { h with sections := aset {} h.sections sec { x with raman := r :: keptRaman s.dev x.raman } }
          | _, _, _ => s
      (List.range (PS.g ps K.thermSections)).foldl one s)

/-! The accord (R201 to R205). -/

/-- THERM.RAMAN_PERIOD in ticks. -/
def PS.ramanPeriod (ps : PSet) : Tick := 2 ^ g ps K.thermRamanAccLog2 * ramanInterval ps

/-- A coefficient of R204 in 2^-24. -/
def PS.betaOf (ps : PSet) (k : Nat) : Nat := min (2 ^ 24) (rdiv (2 ^ 24 * secT 1) (ramanPeriod ps * k))
def PS.accordBeta (ps : PSet) : Nat := betaOf ps (g ps K.thermAccordK)
def PS.accordBetaR (ps : PSet) : Nat := betaOf ps (g ps K.thermRamanOnlyK)

/-- −κ Δ / c_T as a rational in K per bin: numerator and (positive) denominator (R200). -/
def PS.theta (ps : PSet) : Int × Nat :=
  let c := gI ps K.thermShiftCoefKhzK
  let n : Int := -((g ps K.synthChirpBwKhz * binT ps : Nat) : Int)
  (if c < 0 then -n else n, max 1 (pulseT ps * c.natAbs))

/-- What a window gives an update at S: the shift in 1/256 bin, the lowest ρ, and whether it was renewed; none where it is not
available (R202). -/
def windowShift (rs : List ShiftRes) (S : Nat) : Option (Int × Nat × Bool) :=
  let inSec := rs.filter (fun r => S < r.stop + 1000000000 && r.stop ≤ S)
  let before := rs.filter (fun r => r.stop + 1000000000 ≤ S)
  match inSec.getLast?, before.getLast? with
  | some a, some b =>
    if inSec.all (·.locked) then
      some (sext 32 (uns 32 (a.u - b.u)), (inSec.map (·.rho)).min?.getD 0, inSec.any (·.renewed))
    else none
  | _, _ => none

/-- A section's shift at S: increment in 2^-16 of 0.1 mK, ρ in 1/255, renewed (R202, R205). -/
def State.sectionShift (s : State) (S sec : Nat) : Option (Int × Nat × Bool) :=
  let ps := s.running
  let w := PS.g ps K.thermShiftStride
  let n := PS.windows ps
  let c2 := PS.centre2 ps sec
  let win (j : Nat) := windowShift (aget [] s.therm.shifts j) S
  let th := PS.theta ps
  -- du / (256 × den) bins, times θ, in 2^-16 of 0.1 mK
  let scale (du : Int) (den : Nat) : Int := rdivI (du * th.1 * 655360000) (th.2 * 256 * den)
  let rho (r : Nat) : Nat := min 255 (rdiv (r * 255) 65536)
  if n = 0 then none
  else if c2 ≤ 39 then (win 0).map fun a => (scale a.1 1, rho a.2.1, a.2.2)
  else
    let j := (c2 - 39) / (2 * w)
    let f := (c2 - 39) % (2 * w)
    if n ≤ j + 1 then (win (n - 1)).map fun a => (scale a.1 1, rho a.2.1, a.2.2)
    else if f = 0 then (win j).map fun a => (scale a.1 1, rho a.2.1, a.2.2)
    else match win j, win (j + 1) with
      | some a, some b =>
        some (scale (a.1 * ((2 * w - f : Nat) : Int) + b.1 * (f : Int)) (2 * w), rho (min a.2.1 b.2.1), a.2.2 || b.2.2)
      | _, _ => none

/-- The Raman temperature that a section's update at S has: the newest of an accumulation that ended at or before S (R201). -/
def Section.ramanAt (x : Section) (S : Nat) : Option RamanTemp := x.raman.find? (fun r => r.stop ≤ S)

/-- It is current at S (R203). -/
def RamanTemp.current (r : RamanTemp) (S stale : Nat) : Bool := S ≤ r.stop + stale * 1000000000

/-- One section's update (R203 to R205). -/
def Section.update (x : Section) (S stale beta betaR : Nat) (sh : Option (Int × Nat × Bool)) : Section :=
  let own := x.ramanAt S
  let cur := match own with | some r => r.current S stale | none => false
  let tr : Int := match own with | some r => r.value * 65536 | none => 0
  let mix (b : Nat) (v : Int) : Int := v + rdivI ((b : Int) * (tr - v)) (2 ^ 24)
  let state : Option Int :=
    match x.state with
    | none => if cur then some tr else none
    | some v =>
      match sh with
      | some d => if cur then some (mix beta (v + d.1)) else some (v + d.1)
      | none => if cur then some (mix betaR v) else none
  let held := match own with | some r => cur && r.held | none => false
  let flags := b2n (!cur) + 2 * b2n sh.isNone + 4 * b2n held + 8 * b2n (x.ovr.any (· ≤ S)) +
    16 * b2n (match sh with | some d => d.2.2 | none => false) + 32 * b2n state.isNone
  let resid := match state with
    | some v => if own.isSome then satI 16 (rdivI (tr - rdivAway v 65536 * 65536) 655360) else 0
    | none => 0
  { x with state := state, flags := flags, rho := match sh with | some d => d.2.1 | none => 0, residual := resid,
           ovr := x.ovr.filter (S < ·) }

/-- FRAME_FLAGS of R205. -/
def State.frameFlagsNow (s : State) : Nat :=
  let held : Bool := match s.coilLast, s.coilOutAt with
    | some _, some a => decide (s.now < a + secT (s.p K.thermCoilHoldS))
    | _, _ => false
  b2n s.measuring + 2 * b2n (s.coilNow.isSome && s.therm.lcLost.isNone) + 4 * b2n held +
    8 * b2n (s.shiftOn && s.active) + 16 * b2n (s.clk.mode == 2)

/-- Of the Raman temperatures that an update at S uses, one of the newest accumulation (R205 RAMAN_TIME and COIL_TEMP; DEDUCED,
log 118). -/
def State.ramanUsed (s : State) (S : Nat) : Option RamanTemp :=
  (List.range (s.p K.thermSections)).foldl (fun b sec =>
    match b, (s.section sec).ramanAt S with
    | none, some r => if r.current S (s.p K.thermRamanStaleS) then some r else none
    | some a, some r => if a.stop < r.stop && r.current S (s.p K.thermRamanStaleS) then some r else some a
    | b, none => b) none

/-- ACCORD_UPDATE (R201 to R204, R206): at a whole second of device time every section's state is updated. -/
def execAccordUpdate (t : Tick) (s : State) : Host.Outcome State Fault Refusal :=
  let s := s.advance t
  .next (
    let ps := s.running
    let S := s.dev / 1000000000 * 1000000000
    if PS.g ps K.thermSections == 0 || s.clk.mode < 2 || S ≤ s.therm.accordFrom then s
    else
      let one (s : State) (sec : Nat) : State :=
        let x := aget {} s.therm.sections sec
        let sh := if s.clk.mode == 2 then none else s.sectionShift S sec
        let y := x.update S (PS.g ps K.thermRamanStaleS) (PS.accordBeta ps) (PS.accordBetaR ps) sh
        s.modTherm fun h => { h with sections := aput sec y h.sections }
      let used := s.ramanUsed S
      let s := (List.range (PS.g ps K.thermSections)).foldl one s
      s.modTherm fun h =>
        { h with updateNo := (h.updateNo + 1) % 2 ^ 32, updateTime := S, accordFrom := S, frameFlags := s.frameFlagsNow,
                 ramanTime := match used with | some r => r.stop | none => 0,
                 frameCoil := match used with | some r => some r.coil | none => s.coilUse.map (·.1), framePending := true })

/-- The accord frame (R205). -/
def State.accordFrame (s : State) : List Byte :=
  let h := s.therm
  let n := s.p K.thermSections
  let sec (i : Nat) : List Byte :=
    let x := s.section i
    leBytes 4 (match Section.temp x with | some v => uns 32 v | none => 0x80000000) ++ leBytes 2 (uns 16 x.residual) ++
      leBytes 1 x.flags ++ leBytes 1 x.rho
  leBytes 8 h.updateTime ++ leBytes 4 h.updateNo ++ leBytes 4 n ++ leBytes 8 h.ramanTime ++
    leBytes 4 (match h.frameCoil with | some v => uns 32 v | none => 0x80000000) ++ leBytes 2 h.frameFlags ++ leBytes 2 0 ++
    (List.range n).flatMap sec

/-- Rate of rise (R268). -/
def Section.smoothed (x : Section) (w : Nat) : Section :=
  match Section.temp x with
  | none => { x with smooth := none, rate := 0 }
  | some v =>
    match x.smooth with
    | none => { x with smooth := some (v * 65536), rate := 0 }
    | some sm =>
      let d := v * 65536 - sm
      { x with smooth := some (sm + rdivI d w), rate := rdivAway (d * 60) (655360 * w) }

/-- ACCORD_FRAME_COMPLETE (R201, R206, R266 to R268): the frame goes to the watchers, and in FULL and MAINTAIN to the base note
and the sessions. -/
def execAccordFrameComplete (t : Tick) (s : State) : Host.Outcome State Fault Refusal :=
  let s := s.advance t
  .next (
    if !s.therm.framePending then s
    else
      let w := s.p K.zoneRiseWindowS
      let time := s.therm.updateTime
      let f (e : Nat × Section) : Nat × Section := (e.1, e.2.smoothed w)
      let s := s.refreshDark.modTherm fun h => { h with framePending := false, frameAt := some s.now, sections := h.sections.map f }
      let s := (s.tempAll time).refreshDark
      if !s.active then s
      else
        let s := (List.range (s.p K.thermSections)).foldl (fun s i =>
          let x := s.section i
          let v := match Section.temp x with | some v => uns 32 v | none => 0x80000000
          let cons := s.inCons (PS.sectionBin s.running i / 64)
          s.baseWrite mSteward (s.deadBand 11) time i 11 v (b2n cons + 2 * (x.flags % 64))) s
        s.objectOut 1 18 s.therm.updateNo (fun _ => true) s.accordFrame)

/-- The accord state and the smoothed temperatures start again (R204, R268). -/
def State.accordReset (s : State) : State := s.modTherm fun h => { h with sections := [] }

/-- HOLDOFF_EXPIRED (R261): a criterion's hold-off ends. -/
def execHoldoffExpired (t : Tick) (zone crit : Nat) (s : State) : Host.Outcome State Fault Refusal :=
  let s := s.advance t
  .next (match (s.zone zone).desc with
    | some d =>
      if crit < 6 && s.holdoffOver d (s.crit zone crit) then s.modCrit zone crit fun c => { c with st := .idle, cnt := 0 }
      else s
    | none => s)

end Sys2Proof.Machine
end

