-- ==== Sys2Proof/Machine/Zones.lean ====
section
/-!
DEFINITION. Zone descriptors (chapter 11): their 64 bytes, ZONE_LOAD and ZONE_READ with the watcher state record (R260)
and the stitch quality record (R185), and the TOP_TILE rate of R336.
-/
namespace Sys2Proof.Machine

/-! Descriptors (R256). -/

/-- The descriptor in these 64 bytes. -/
def zoneOfBytes (b : List Byte) : ZoneDesc :=
  { first := fld b 0 4, last := fld b 4 4, stitch := fld b 8 1, owner := fld b 9 1, enable := fld b 10 1,
    severity := fld b 12 4, bandMask := fld b 16 1, acAssert := fld b 17 1, acClear := fld b 18 1, acLevel := fld b 20 2,
    acHyst := fld b 22 2, acMin := fld b 24 2, holdoff := fld b 26 2, tAbs := fldI b 28 4, tRise := fldI b 32 4,
    tHyst := fld b 36 2, tDiff := fldI b 40 4, tAssert := fld b 44 1, tClear := fld b 45 1, tMin := fld b 46 2,
    loss := fld b 48 2 }

/-- The 64 bytes of a descriptor. -/
def ZoneDesc.bytes (d : ZoneDesc) : List Byte :=
  leBytes 4 d.first ++ leBytes 4 d.last ++ leBytes 1 d.stitch ++ leBytes 1 d.owner ++ leBytes 1 d.enable ++ leBytes 1 0 ++
    leBytes 4 d.severity ++ leBytes 1 d.bandMask ++ leBytes 1 d.acAssert ++ leBytes 1 d.acClear ++ leBytes 1 0 ++
    leBytes 2 d.acLevel ++ leBytes 2 d.acHyst ++ leBytes 2 d.acMin ++ leBytes 2 d.holdoff ++ leBytes 4 (uns 32 d.tAbs) ++
    leBytes 4 (uns 32 d.tRise) ++ leBytes 2 d.tHyst ++ leBytes 2 0 ++ leBytes 4 (uns 32 d.tDiff) ++ leBytes 1 d.tAssert ++
    leBytes 1 d.tClear ++ leBytes 2 d.tMin ++ leBytes 2 d.loss ++ leBytes 14 0

/-- The pattern that undefines a zone. -/
def zoneNone : List Byte := leBytes 4 0 ++ leBytes 4 0xFFFFFFFF ++ leBytes 56 0

/-- Reserved bits of a descriptor are 0. -/
def zoneReserved (b : List Byte) : Bool :=
  fld b 10 1 < 64 && fld b 11 1 == 0 && fld b 15 1 == 0 && fld b 19 1 == 0 && fld b 38 2 == 0 && fld b 50 14 == 0

/-- The checks of R257 on one descriptor. -/
def State.zoneOk (s : State) (b : List Byte) : Bool :=
  let d := zoneOfBytes b
  let ac := bit d.enable 0
  let te := bit d.enable 1 || bit d.enable 2 || bit d.enable 3
  b == zoneNone ||
    (d.first ≤ d.last && d.last < s.p K.chanChannels && d.stitch ≤ 2 && d.owner ≤ 1 && zoneReserved b &&
      (!ac || (d.bandMask != 0 && d.acAssert != 0 && d.acClear != 0 && d.acHyst ≤ d.acLevel && 1 ≤ d.acMin &&
        d.acMin ≤ d.last + 1 - d.first)) &&
      (!te || (d.tAssert != 0 && d.tClear != 0 && d.tMin != 0)) &&
      (!bit d.enable 2 || 1 ≤ d.tRise) && (!bit d.enable 3 || 1 ≤ d.tDiff) &&
      (!bit d.enable 5 || (1 ≤ d.loss && d.loss ≤ 32767)))

/-! TOP_TILE on PCIe (R336). -/

/-- The rate of one session under a set as the product G × 66,560 × N × 10^9, to be read over 256 × P bytes per second. -/
def PS.topRate (ps : PSet) (x : Session) : Nat :=
  if x.transport == 2 && bit x.kindMask 20 then
    ((List.range (groups ps)).filter (setGroup ps x.chanSet)).length * 66560 * nTones ps * 1000000000
  else 0

/-- The sum over sessions lies above ATOM.PCIE_TOP_LIMIT_MBS. -/
def State.topOver (s : State) (ps : PSet) (sum : Nat) : Bool :=
  s.p K.atomPcieTopLimitMbs * 1000000 * 256 * PS.g ps K.synthShotPeriodNs < sum

def State.topSum (s : State) (ps : PSet) : Nat := (s.atom.sessions.map (PS.topRate ps)).sum

/-- Sum b of the new state is above the limit and above the old rate a (each over its own 256 × P). -/
def State.topRaised (s : State) (old new : PSet) (a b : Nat) : Bool :=
  s.topOver new b && a * PS.g new K.synthShotPeriodNs < b * PS.g old K.synthShotPeriodNs

/-- Every session's channel set is formed again (R317). -/
def State.chanSets (s : State) : State :=
  s.modAtom fun a =>
    { a with sessions := a.sessions.map (fun (x : Session) => { x with chanSet := s.channelSet x.firstZone x.lastZone }) }

/-! ZONE_LOAD (R257, R258, R184). -/

/-- One zone is rewritten or undefined. -/
def State.zoneWrite (s : State) (z : Nat) (b : List Byte) : State :=
  let s := (List.range 6).foldl (fun s i => s.critDrop z i 3) s
  let d := zoneOfBytes b
  let desc := if b == zoneNone then none else some d
  s.modZone z fun x =>
    { (x.setEff (desc.isSome && d.stitch == 1)) with
        desc := desc, crits := [], fading := false, recover := 0,
        loadedIn := if s.run.state == 1 then s.ivlNow s.running else 0, dark := false, lossAt := none, handing := false }

/-- The zones of a request, in order. -/
def State.zoneWrites (s : State) (z : Nat) : List (List Byte) → State
  | [] => s
  | b :: bs => (s.zoneWrite z b).zoneWrites (z + 1) bs

/-- DIGEST entries of some zones go to a peer that is joining or paired (R391). -/
def State.sendDigest (s : State) (z n : Nat) : State :=
  if s.twin.link ≥ 2 then s.linkSend (.digest z (((List.range n).map (· + z)).map fun i => (s.zone i).digest)) else s

/-- The items of 64 bytes of a list. -/
def items64 (n : Nat) (b : List Byte) : List (List Byte) := (List.range n).map (fun i => slice b (64 * i) 64)

/-- ZONE_LOAD. -/
def State.zoneLoad (s : State) (q : Req) : State :=
  s.gate q 0x0060 cConfigure true fun s id =>
    let first := payU q 0 2
    let n := payU q 2 2
    if n == 0 || 63 < n || payLen q != 4 + 64 * n then s.final id .range []
    else if 4096 < first + n then s.final id .range []
    else
      let ds := items64 n (q.payload.drop 4)
      match ds.findIdx? (fun b => !s.zoneOk b) with
      | some i => s.final id .range (leBytes 2 i)
      | none =>
        let s1 := (s.zoneWrites first ds).chanSets
        if s.topRaised s.running s.running (s.topSum s.running) (s1.topSum s.running) then s.final id .noSpace []
        else
          let s2 := (((List.range n).map (· + first)).foldl State.repair s1).refreshDark
          ((s2.planModes).sendDigest first n).ok id []

/-- ZONE_LOAD. -/
def execZoneLoad (t : Tick) (q : Req) (s : State) : Host.Outcome State Fault Refusal := .next ((s.advance t).zoneLoad q)

/-! ZONE_READ (R185, R260). -/

def critCode : CritState → Nat
  | .idle => 0
  | .pending => 1
  | .active => 2
  | .holdoff => 3

/-- A measured field before its first evaluation. -/
def measured (v : Option Int) : List Byte :=
  match v with
  | some x => leBytes 4 (uns 32 x)
  | none => leBytes 4 0x80000000

/-- The watcher state record. -/
def State.watchRecord (s : State) (z : Nat) : List Byte :=
  let x := s.zone z
  let now_ (c : Crit) : CritState :=
    match x.desc with
    | some d => if s.holdoffOver d c then .idle else c.st
    | none => c.st
  let states := ((critsOf x.crits).zipIdx.map (fun e => critCode (now_ e.1) * 4 ^ e.2)).sum
  leBytes 2 states ++ leBytes 2 0 ++ leBytes 4 x.nextSeq ++ leBytes 8 x.lastTime ++ leBytes 4 x.records.val ++
    leBytes 4 x.absent.val ++ leBytes 4 x.acCount ++ measured x.tMax ++ measured x.riseMax ++ measured x.diffMax ++
    measured x.tMean ++ leBytes 2 x.lossMax ++ leBytes 18 0

/-- Some bin of the zone is still acquiring (R176). -/
def State.acquiring (s : State) (d : ZoneDesc) : Bool :=
  let rng := PS.zoneBins s.running d
  s.pce.bins.any fun e =>
    PS.g s.running K.pceGauge ≤ e.1 && rng.1 ≤ e.1 && e.1 ≤ rng.2 && e.2.epoch == s.pce.resets &&
      (PS.tones s.running).any (fun k =>
        PS.alpha24 s.running < 16777216 / min ((binTone e.2 k).accepted + 1) 65535)


/-- The stitch quality record. -/
def State.qualityRecord (s : State) (z : Nat) : List Byte :=
  let x := s.zone z
  match x.desc with
  | none => leBytes 64 0
  | some d =>
    let on := decide (s.pce.ivlRun < x.ivlNext)
    let v (n : Nat) : Nat := if on then n else 0
    leBytes 1 d.stitch ++ leBytes 1 (b2n x.effCons + 2 * b2n (s.modePending d) + 128 * b2n (s.acquiring d)) ++
      leBytes 1 (v x.degCount) ++ leBytes 1 (v x.degMask) ++ leBytes 2 x.fallbacks.val ++ leBytes 2 0 ++
      leBytes 8 x.lastChange ++ (List.range 8).flatMap (fun k => leBytes 2 (v (nth 0 x.meanScore k))) ++
      leBytes 4 (v x.predicted) ++ leBytes 4 (v x.samples) ++
      (List.range 8).flatMap (fun k => leBytes 2 (v (nth 0 x.fadedShare k))) ++ leBytes 4 x.fadeEvents.val ++ leBytes 4 0

/-- One item of ZONE_READ. -/
def State.zoneItem (s : State) (src z : Nat) : List Byte :=
  match src with
  | 0 => match (s.zone z).desc with | some d => d.bytes | none => zoneNone
  | 1 => s.watchRecord z
  | _ => s.qualityRecord z

/-- ZONE_READ. -/
def State.zoneRead (s : State) (q : Req) : State :=
  s.gate q 0x0061 cObserve true fun s id =>
    let first := payU q 0 2
    let n := payU q 2 2
    if payLen q != 8 || n == 0 || 63 < n || 2 < payU q 4 1 || payU q 5 3 != 0 || 4096 < first + n then s.final id .range []
    else s.ok id (((List.range n).map (· + first)).flatMap (s.zoneItem (payU q 4 1)))

/-- ZONE_READ. -/
def execZoneRead (t : Tick) (q : Req) (s : State) : Host.Outcome State Fault Refusal := .next ((s.advance t).zoneRead q)

end Sys2Proof.Machine
end

