-- ==== Sys2Proof/Machine/Atom.lean ====
section
/-!
DEFINITION. The atomiser (chapter 14): frames, rate limits, port and ring queues, sessions and their commands, the PCIe
rings and the network ports.
-/
namespace Sys2Proof.Machine

/-! Addresses (R5, R62). -/

/-- 224.0.0.0/4 or ff00::/8. -/
def isMulticast (a : Nat) : Bool := if isV4 a then a / 2 ^ 28 % 16 == 14 else a / 2 ^ 120 == 0xFF


def State.portMask (s : State) (p : Nat) : Nat :=
  netOrder (if p == 2 then s.p K.sysMgmtIpv4Mask else s.p (K.atomNetIpv4Mask + s.portIdx p)) 4
def State.portGw (s : State) (p : Nat) : Nat :=
  netOrder (if p == 2 then s.p K.sysMgmtIpv4Gw else s.p (K.atomNetIpv4Gw + s.portIdx p)) 4

/-- The neighbour a datagram to dest is handed to: dest in the port's subnet, else the gateway (R328). -/
def State.nextHop (s : State) (p dest : Nat) : Nat :=
  if isV4 dest then
    let a := dest % 2 ^ 32
    let m := s.portMask p
    if a &&& m == s.portV4 p &&& m || s.portGw p == 0 then dest else mapped4 (s.portGw p)
  else dest

/-- A port's transmitter runs (R322, R331). -/
def State.portRuns (s : State) (p : Nat) : Bool :=
  if p == 2 then 1 ≤ s.clk.mode else s.active && s.p (K.atomNetMode + p) != 0

/-- Whether the neighbour's link-layer address is known. Its answer to the device's own ARP or NDP query is no command of the
table: until a request of its own has shown it, whether it has answered is a FREE VALUE (assumption 4). -/
def State.resolves (s : State) (p dest : Nat) : State × Bool :=
  let hop := s.nextHop p dest
  if isMulticast dest || s.atom.resolved.contains (p, hop) then (s, true)
  else if s.freeBit then (s.tookFree.modAtom fun a => { a with resolved := (p, hop) :: a.resolved }, true)
  else (s.tookFree, false)

/-! Frames (R323). -/

/-- The bytes of a frame. -/
def Frame.bytes (f : Frame) (ident : Nat) : List Byte :=
  let head := leBytes 4 0x414C5345 ++ leBytes 1 1 ++ leBytes 1 f.typ ++ leBytes 2 f.session ++ leBytes 4 f.seq ++
    leBytes 4 f.withheld ++ leBytes 8 f.sendTime ++
    leBytes 4 (f.payload.length % 2 ^ 24 + 2 ^ 24 * ident + 2 ^ 25 * b2n f.resumed + 2 ^ 26 * b2n f.last)
  head ++ leBytes 4 (crc32c (head ++ f.payload)) ++ f.payload

/-- Bytes of a frame in a UDP payload, and in a ring with its padding (R334). -/
def Frame.size (f : Frame) : Nat := 32 + f.payload.length
def Frame.ringSize (f : Frame) : Nat := cdiv f.size 32 * 32

/-- Most payload bytes of a session's frame (R323). -/
def State.maxPayload (s : State) (x : Session) : Nat := if x.transport == 2 then 131072 else s.p K.atomMaxDatagram - 32

/-! Token buckets (R318). -/

def State.bucketDepth (s : State) (x : Session) : Nat := max (s.p K.atomMaxDatagram) (x.rate * 10)

/-- Tokens counted up to now. -/
def State.refill (s : State) (x : Session) : Session :=
  let gain := x.rate * 1000 * (s.now - x.tokensAt) / secT 1
  { x with tokens := min (s.bucketDepth x : Int) (x.tokens + gain),
           tokensAt := if x.rate == 0 then s.now else x.tokensAt + cdiv (gain * secT 1) (x.rate * 1000) }

/-! Queues (R319, R320). -/

/-- Bytes waiting in a port's stream queue. -/
def Port.streamBytes (p : Port) : Nat := (p.strq.map Frame.size).sum

/-- A frame meets a port, with the source that the port gives it (R328): queued, or counted as not sent or unresolved; answers whether
it was withheld for want of room. -/
def State.toPort (s : State) (p : Nat) (f : Frame) (event : Bool) : State × Bool :=
  let f := { f with src := s.ownAddr p f.dest, srcPort := s.p K.atomSrcUdpPort }
  if !s.portRuns p || !(s.port p).link then (s.bump (K.atomNotSent + p), false)
  else
    let r := s.resolves p f.dest
    let s := r.1
    if !r.2 then (s.bump K.atomUnresolved, false)
    else if event then
      if 4096 ≤ (s.port p).evq.length then (s.bump (K.atomNotSent + p), false)
      else (s.modPort p fun q => { q with evq := q.evq ++ [f] }, false)
    else if 1048576 < (s.port p).streamBytes + f.size then (s, true)
    else (s.modPort p fun q => { q with strq := q.strq ++ [f] }, false)

/-- The frame goes to every port of a session, or to its ring. -/
def State.toPaths (s : State) (x : Session) (f : Frame) (event : Bool) : State × Bool :=
  if x.transport == 2 then (s.modRing x.ring fun r => { r with queue := r.queue ++ [f] }, false)
  else
    let prp := x.ports % 4 == 3 && s.pB K.atomPrpEn
    let f := if prp then { f with rct := some s.atom.prpSeq } else f
    let s := if prp then s.modAtom fun a => { a with prpSeq := (a.prpSeq + 1) % 65536 } else s
    ((List.range 3).filter (bit x.ports)).foldl
      (fun (r : State × Bool) p => let q := r.1.toPort p f event; (q.1, r.2 || q.2)) (s, false)

/-- The next frame of a session as it would enter its queues. -/
def State.frameOf (s : State) (x : Session) (typ : Nat) (payload : List Byte) (last event : Bool) : Frame :=
  { typ := typ, session := x.num, seq := x.seq, withheld := x.withheld, sendTime := s.dev, resumed := x.resumed, last := last,
    payload := payload, dest := x.dest, destPort := x.destPort,
    dscp := if event then s.p K.atomDscpEvent else s.p K.atomDscpStream }

/-- Bytes a frame spends of a session's tokens. -/
def Session.cost (x : Session) (f : Frame) : Nat := if x.transport == 2 then f.ringSize else f.size

/-- A frame of a session takes its sequence number and enters the queues (R319). -/
def State.emitFrame (s : State) (num typ : Nat) (payload : List Byte) (last event : Bool) : State :=
  match s.session num with
  | none => s
  | some x0 =>
    let x := s.refill x0
    let f := s.frameOf x typ payload last event
    let cost : Int := (x.cost f : Nat)
    let left := if x.rate == 0 then x.tokens else max (x.tokens - cost) (-(s.bucketDepth x : Int))
    let r := s.toPaths x f event
    let s := r.1.modSession num fun y =>
      { y with seq := (y.seq + 1) % 2 ^ 32, resumed := false, lastFrame := s.now, tokens := left, tokensAt := x.tokensAt,
               withheld := if r.2 then (y.withheld + 1) % 2 ^ 32 else y.withheld }
    if r.2 then s.bump K.atomWithheldTotal else s

/-- A stream frame that finds too few tokens is withheld: its number is spent (R318, R320). -/
def State.withhold (s : State) (num : Nat) : State :=
  ((s.modSession num fun y =>
    { y with seq := (y.seq + 1) % 2 ^ 32, withheld := (y.withheld + 1) % 2 ^ 32 }).bump K.atomWithheldTotal).perfEvent 0x0702
      0xFF 0xFF 1

/-- The session has tokens for a frame. -/
def State.tokensFor (s : State) (x : Session) (f : Frame) : Bool :=
  x.rate == 0 || ((x.cost f : Nat) : Int) ≤ (s.refill x).tokens

/-- A stream frame: sent, or withheld. -/
def State.emitStream (s : State) (x : Session) (typ : Nat) (payload : List Byte) (last : Bool) : State :=
  if s.tokensFor x (s.frameOf x typ payload last false) then s.emitFrame x.num typ payload last false else s.withhold x.num

/-- A hold time has run (R327). -/
def State.held (s : State) (since : Tick) (us : Nat) : Bool := since + usT us ≤ s.now

/-- An EVENTS frame of the session is due: it is full, or the hold time of its first record has run (R327). -/
def State.eventDue (s : State) (x : Session) : Bool :=
  !x.events.isEmpty && (s.maxPayload x / 32 ≤ x.events.length || s.held x.eventsAt (s.p K.atomEventHoldUs))

/-- EVENT_FRAME_SEND (R327, R332): of an open session, or of the event ring (0xFFFE). -/
def execEventFrameSend (t : Tick) (session : Nat) (s : State) : Host.Outcome State Fault Refusal :=
  let s := s.advance t
  .next (
    if session == 0xFFFE then
      let evs := s.atom.evRing
      if evs.isEmpty || !s.active || (evs.length < 4096 && !s.held s.atom.evRingAt (s.p K.atomEventHoldUs)) then s
      else
        let now_ := evs.take 4096
        let r := s.ring 32
        let f : Frame := { typ := 1, session := 0xFFFE, seq := r.seq, withheld := 0, sendTime := s.dev, resumed := false,
                           last := false, payload := now_.flatMap EventRec.bytes, dest := 0, destPort := 0, dscp := 0 }
        (s.modRing 32 fun r => { r with seq := (r.seq + 1) % 2 ^ 32, queue := r.queue ++ [f] }).modAtom fun a =>
          { a with evRing := evs.drop 4096, evRingTs := a.evRingTs.drop 4096,
                   evRingAt := ((a.evRingTs.drop 4096).head?).getD a.evRingAt }
    else match s.session session with
      | none => s
      | some x =>
        let most := s.maxPayload x / 32
        if x.closing.isSome || !s.sessionLive x || !s.eventDue x then s
        else
          (s.modSession session fun y =>
            { y with events := y.events.drop most, eventTs := y.eventTs.drop most,
                     eventsAt := ((y.eventTs.drop most).head?).getD y.eventsAt }).emitFrame session 1
            ((x.events.take most).flatMap EventRec.bytes) false true)

/-- As many whole items as fit in room bytes. -/
def takeItems (room : Nat) : List (List Byte) → List (List Byte) × List (List Byte)
  | [] => ([], [])
  | x :: xs =>
    if x.length ≤ room then
      let r := takeItems (room - x.length) xs
      (x :: r.1, r.2)
    else ([], x :: xs)

/-- The prefix of a piece (R325). -/
def ObjJob.head (o : ObjJob) : List Byte :=
  leBytes 4 o.data.length ++ leBytes 4 o.sent ++ leBytes 4 o.objSeq ++ leBytes 2 o.tag ++ leBytes 1 o.mb ++ leBytes 1 o.kind

/-- The next piece of a session's oldest object (R325): stream objects may be withheld, retrieval objects wait for tokens and
for room in the port queues (R318). -/
def State.objectSend (s : State) (x : Session) : State :=
  match x.objects with
  | [] => s
  | o :: rest =>
    let room := s.maxPayload x - 16
    let n := min room (o.data.length - o.sent)
    let last := o.sent + n == o.data.length
    let pay := o.head ++ slice o.data o.sent n
    let retr := o.mb != 0xFF
    let f := s.frameOf x 5 pay last false
    let ok := s.tokensFor x f
    let roomy := x.transport == 2 ||
      ((List.range 3).filter (bit x.ports)).all (fun p => (s.port p).streamBytes + f.size ≤ 1048576)
    if retr && !(ok && roomy) then s
    else
      let s := s.modSession x.num fun y =>
        { y with objects := if last then rest else { o with sent := o.sent + n } :: rest }
      if retr then s.emitFrame x.num 5 pay last false else s.emitStream x 5 pay last

/-- STREAM_FRAME_SEND (R318, R319, R324, R325, R327): a stream or retrieval frame waits while an event frame of the session is due. -/
def execStreamFrameSend (t : Tick) (session kind : Nat) (s : State) : Host.Outcome State Fault Refusal :=
  let s := s.advance t
  .next (match s.session session with
    | none => s
    | some x =>
      if x.closing.isSome || !s.sessionLive x || s.eventDue x then s
      else if kind == 5 then s.objectSend x
      else match x.streams.find? (fun e => e.1 == kind) with
        | none => s
        | some e =>
          let r := takeItems (s.maxPayload x) e.2.2
          if r.1.isEmpty || (r.2.isEmpty && !s.held e.2.1 (s.p K.atomStreamHoldUs)) then s
          else
            let ts := (aget [] x.itemTs kind).drop r.1.length
            let s := s.modSession session fun y =>
              { y with itemTs := if r.2.isEmpty then adel y.itemTs kind else aput kind ts y.itemTs,
                       streams := if r.2.isEmpty then y.streams.filter (fun q => q.1 != kind)
                                  else y.streams.map (fun q => if q.1 == kind then (q.1, ts.headD q.2.1, r.2) else q) }
            s.emitStream x kind r.1.flatten false)

/-! Rings (R333 to R335). -/

/-- A ring raises its vector (R335). -/
def State.ringVector (s : State) (i : Nat) : State :=
  let s := (s.modRing i fun r => { r with intHead := r.head, intAt := some s.now, intHeld := false }).pulse 1 i 7 8
  if i == 32 then s.raise 1
  else if i < 24 then s.raise (8 + i)
  else
    let k := if i == 33 then 8 else i - 24
    ((s.modAtom fun a => { a with ringCause := setBit a.ringCause k true }).hwMark (w1cId 0x3880 k)).raise 2

/-- The least spacing of a ring's interrupts has passed. -/
def State.ringSpaced (s : State) (r : Ring) : Bool :=
  match r.intAt with
  | some a => a + usT r.intHoldoff ≤ s.now
  | none => true

/-- HEAD has advanced: interrupt once it has gone INT_BYTES on, no closer than INT_HOLDOFF. -/
def State.ringAdvanced (s : State) (i : Nat) : State :=
  let r := s.ring i
  if (r.head - r.intHead).toNat < r.intBytes.toNat then s
  else if s.ringSpaced r then s.ringVector i
  else s.modRing i fun r => { r with intHeld := true }

/-- Bytes a frame needs in a ring, its PAD frame included (R334). -/
def Ring.need (r : Ring) (f : Frame) : Nat :=
  let size := 2 ^ r.sizeLog2
  let off := r.head.toNat % size
  if size < off + f.ringSize then size - off + f.ringSize else f.ringSize

/-- The frame fits within TAIL + size. -/
def Ring.fits (r : Ring) (f : Frame) : Bool := (r.head - r.tail).toNat + r.need f ≤ 2 ^ r.sizeLog2

/-- What a frame's write into a ring puts into host memory (R334): the frame behind a PAD frame that fills the ring to its end where it
would wrap, then the copy of the new HEAD. -/
def Ring.hostWrites (r : Ring) (bytes : List Byte) (f : Frame) : List (Nat × List Byte) × Option (Nat × Nat) :=
  let size := 2 ^ r.sizeLog2
  let base := r.baseHi.toNat * 2 ^ 32 + r.baseLo.toNat
  let off := r.head.toNat % size
  let wraps := size < off + f.ringSize
  let wb := r.wbHi.toNat * 2 ^ 32 + r.wbLo.toNat
  let head := r.head + BitVec.ofNat 32 (r.need f)
  ((base + (if wraps then 0 else off), bytes) :: (if wb == 0 then [] else [(wb, leBytes 4 head.toNat)]),
   if wraps then some (base + off, size - off) else none)

/-- Write the oldest waiting frame of a ring. A frame for a disabled ring, or one without room, is dropped and counted; a
retrieval frame waits for room. -/
def State.ringWrite (s : State) (i : Nat) : State :=
  let r := s.ring i
  match r.queue with
  | [] => s
  | f :: rest =>
    let drop (full : Bool) : State :=
      let s := s.modRing i fun r => { r with queue := rest, dropped := r.dropped.add32 1, full := r.full || full }
      let s := if full then s.hwMark (w1cId (0x3024 + 0x40 * i) 0) else s
      (s.hwMark (regCtrId (0x3028 + 0x40 * i))).bump K.atomRingDropped
    if !r.enable then drop false
    else if !r.fits f then if i == 33 then s else drop true
    else
      let s := s.modRing i fun r => { r with queue := rest, head := r.head + BitVec.ofNat 32 (r.need f) }
      let w := r.hostWrites (f.bytes s.twinId) f
      (s.modAtom fun a =>
        { a with wire := some (16 + i, f.bytes s.twinId), hostOut := w.1, hostPad := w.2 }).ringAdvanced i

/-- RING_INTERRUPT_HOLDOFF_END (R333). -/
def execRingInterruptHoldoffEnd (t : Tick) (ring : Nat) (s : State) : Host.Outcome State Fault Refusal :=
  let s := s.advance t
  .next (if (s.ring ring).intHeld && s.ringSpaced (s.ring ring) then s.ringVector ring else s)

/-- Write register SIZE_LOG2 and ENABLE of a ring (R333, R334). -/
def State.ringEnableWrite (s : State) (i : Nat) (v : Word) : State :=
  let r := s.ring i
  let n := v.toNat % 32
  let on := bit v.toNat 8
  if i ≥ 34 then s
  else if r.enable then if on then s else s.modRing i fun r => { r with enable := false }
  else if !on then s.modRing i fun r => { r with sizeLog2 := n }
  else if n < 16 || 30 < n || r.baseLo.toNat % 4096 != 0 || r.wbLo.toNat % 8 != 0 then
    s.modRing i fun r => { r with sizeLog2 := n, cfgErr := true }
  else
    s.modRing i fun r =>
      { r with sizeLog2 := n, cfgErr := false, enable := true, head := 0, tail := 0, intHead := 0, intAt := none,
               intHeld := false }

/-- RING_ENABLE. BAR0 answers while the PCIe endpoint runs. -/
def execRingEnable (t : Tick) (ring : Nat) (v : Word) (s : State) : Host.Outcome State Fault Refusal :=
  let s := s.advance t
  .next (if s.clk.pcie then s.ringEnableWrite ring v else s)

/-- The oldest frame that may leave a port: an event frame before stream frames, but each session's frames in sequence order
(R319). -/
def Port.next (p : Port) : Option (Frame × Port) :=
  match p.evq, p.strq with
  | e :: es, g :: gs =>
    if p.strq.any (fun f => f.session == e.session && serialLt 32 f.seq e.seq) then some (g, { p with strq := gs })
    else some (e, { p with evq := es })
  | e :: es, [] => some (e, { p with evq := es })
  | [], g :: gs => some (g, { p with strq := gs })
  | [], [] => none

/-- A session frame leaves a port, with the trailer of the port's LAN where it goes out on both (R329); where the link has gone down it
is not sent. -/
def State.portSend (s : State) (p : Nat) : State :=
  match (s.port p).next with
  | none => s
  | some (f, q) =>
    let s := s.modPort p fun _ => q
    if (s.port p).link then
      (s.modAtom fun a =>
        { a with wire := some (p, f.bytes s.twinId), wireDscp := f.dscp,
                 wireEnds := some ({ addr := f.src, port := f.srcPort }, { addr := f.dest, port := f.destPort }),
                 wireRct := if p == 2 then none else f.rct.map fun n => (n, 0xA + p) }).perfEvent 0x0701 p 0xFF 1
    else s.bump (K.atomNotSent + p)

/-- FRAME_TRANSMIT (R319, R320, R331, R334): paths 0 to 2 are ports, 16 + n is ring n. -/
def execFrameTransmit (t : Tick) (path : Nat) (s : State) : Host.Outcome State Fault Refusal :=
  let s := s.advance t
  .next (
    if 16 ≤ path then if s.active || !(s.ring (path - 16)).enable then s.ringWrite (path - 16) else s
    else if 3 ≤ path || !s.portRuns path then s
    else match s.atom.datagrams with
      | d :: rest =>
        if path == 2 then
          let s := s.modAtom fun a => { a with datagrams := rest }
          if (s.port 2).link then
            (s.modAtom fun a =>
              { a with wire := some (2, d.2.2), wireEnds := some (d.1, d.2.1), wireDscp := 0, wireRct := none }).perfEvent
              0x0701 2 0xFF 1
          else s
        else s.portSend path
      | [] => s.portSend path)

/-- KEEPALIVE (R326): it carries the next number and takes none. -/
def execKeepalive (t : Tick) (session : Nat) (s : State) : Host.Outcome State Fault Refusal :=
  let s := s.advance t
  .next (match s.session session with
    | none => s
    | some x =>
      let ms := s.p K.atomKeepaliveMs
      if ms == 0 || x.closing.isSome || !s.sessionLive x || s.now < x.lastFrame + msT ms then s
      else
        let r := s.toPaths x (s.frameOf x 7 [] false false) false
        r.1.modSession session fun y => { y with lastFrame := s.now, resumed := false })

/-! Sessions (R314 to R321). -/

/-- An address of 16 bytes in network byte order. -/
def ip16At (b : List Byte) (off : Nat) : Nat := leNat (slice b off 16).reverse

/-- The request's fields as a session of number n. -/
def State.sessionOf (s : State) (b : List Byte) (n : Nat) : Session :=
  let f := fld b
  { num := n, transport := f 0 1, ports := f 1 1, ring := f 2 2, kindMask := f 4 4, firstZone := f 8 2, lastZone := f 10 2,
    rate := f 12 4, dest := ip16At b 16, destPort := f 32 2, seq := 0, withheld := 0, tokens := 0, tokensAt := s.now,
    resumed := false, lastFrame := s.now, closing := none, chanSet := s.channelSet (f 8 2) (f 10 2), events := [],
    eventsAt := 0, streams := [], objects := [] }

/-- The RANGE cases of R314 and R315. -/
def sessionRange (b : List Byte) : Bool :=
  let f := fld b
  let tr := f 0 1
  let ports := f 1 1
  let mask := f 4 4
  let dest := ip16At b 16
  2 < tr || (tr < 2 && ports == 0) || (tr == 2 && ports != 0) || 7 < ports || 31 < f 2 2 || (tr < 2 && f 2 2 != 0) ||
    f 10 2 < f 8 2 || 4095 < f 10 2 || mask &&& 0x3F1FFF != mask || (tr == 1 && !isMulticast dest) ||
    (tr == 0 && isMulticast dest) || (tr < 2 && f 32 2 == 0) || (tr == 2 && f 32 2 != 0) || f 34 2 != 0 ||
    ((bit mask 20 || bit mask 21) && bit ports 2)

/-- A PCIe session asks for a ring that is not enabled, or runs in no such mode (R315). -/
def State.sessionState (s : State) (b : List Byte) : Bool :=
  fld b 0 1 == 2 && (!s.active || !(s.ring (fld b 2 2)).enable)

/-- SESSION_OPEN. -/
def State.sessionOpen (s : State) (q : Req) : State :=
  s.gate q 0x0050 cOperate true fun s id =>
    if payLen q != 36 || sessionRange q.payload then s.final id .range []
    else if s.sessionState q.payload then s.final id .state []
    else match (List.range 1024).find? (fun n => (s.session n).isNone) with
      | none => s.final id .noSpace []
      | some n =>
        let x0 := s.sessionOf q.payload n
        let x := { x0 with tokens := (s.bucketDepth x0 : Int) }
        let sum := s.topSum s.running
        if s.topRaised s.running s.running sum (sum + PS.topRate s.running x) then s.final id .noSpace []
        else (s.modAtom fun a => { a with sessions := a.sessions ++ [x] }).ok id (leBytes 2 n)

/-- SESSION_OPEN. -/
def execSessionOpen (t : Tick) (q : Req) (s : State) : Host.Outcome State Fault Refusal := .next ((s.advance t).sessionOpen q)

/-- SESSION_MODIFY. -/
def State.sessionModify (s : State) (q : Req) : State :=
  s.gate q 0x0052 cOperate true fun s id =>
    let b := q.payload.drop 4
    let n := payU q 0 2
    if payLen q != 40 || 1023 < n || payU q 2 2 != 0 || sessionRange b then s.final id .range []
    else match s.session n with
      | none => s.final id .state []
      | some old =>
        if old.closing.isSome || s.sessionState b then s.final id .state []
        else
          let y := s.sessionOf b n
          let new (x : Session) : Session :=
            { x with transport := y.transport, ports := y.ports, ring := y.ring, kindMask := y.kindMask,
                     firstZone := y.firstZone, lastZone := y.lastZone, rate := y.rate, dest := y.dest, destPort := y.destPort,
                     chanSet := y.chanSet }
          let s1 := s.modSession n fun x => new (s.refill x)
          if s.topRaised s.running s.running (s.topSum s.running) (s1.topSum s1.running) then s.final id .noSpace []
          else s1.ok id []

/-- SESSION_MODIFY. -/
def execSessionModify (t : Tick) (q : Req) (s : State) : Host.Outcome State Fault Refusal :=
  .next ((s.advance t).sessionModify q)

/-- The queued decompression jobs of a retrieval job leave the engines' queues (R312). -/
def State.dropRestores (s : State) (q : ReqId) : State :=
  let mine (j : FlaconJob) : Bool :=
    match j with
    | .restore _ _ mb tag => mb == q.mb && tag == q.tag
    | .archive _ _ => false
  { s with engines := s.engines.map fun e => { e with queue := e.queue.filter (fun j => !mine j) } }

/-- Retrieval jobs that f selects end with ABORTED (R321). -/
def State.abortJobs (s : State) (f : RetrJob → Bool) : State :=
  let gone := s.atom.jobs.filter f
  let s := (gone.foldl (fun s j => s.dropRestores j.who) s).modAtom fun a => { a with jobs := a.jobs.filter (fun j => !f j) }
  gone.foldl (fun s j => s.final j.who .aborted (leBytes 8 j.bytes ++ leBytes 4 j.gaps)) s

/-- SESSION_CLOSE (R321): no further frame is built; the response follows the last queued frame. -/
def State.sessionClose (s : State) (q : Req) : State :=
  s.gate q 0x0051 cOperate true fun s id =>
    let n := payU q 0 2
    if payLen q != 4 || 1023 < n || payU q 2 2 != 0 then s.final id .range []
    else match s.session n with
      | none => s.final id .state []
      | some x =>
        if x.closing.isSome then s.final id .state []
        else
          let s := (s.begins id).modSession n fun y =>
            { y with closing := some id, events := [], streams := [], objects := [], eventTs := [], itemTs := [] }
          s.abortJobs (fun j => j.target == 1 && j.session == n)

/-- SESSION_CLOSE. -/
def execSessionClose (t : Tick) (q : Req) (s : State) : Host.Outcome State Fault Refusal :=
  .next ((s.advance t).sessionClose q)

/-- A frame of the session still waits in a queue. -/
def State.sessionQueued (s : State) (n : Nat) : Bool :=
  s.atom.ports.any (fun p => p.evq.any (fun f => f.session == n) || p.strq.any (fun f => f.session == n)) ||
    s.atom.rings.any (fun r => r.queue.any (fun f => f.session == n))


/-- The paths of sessions that stop running: the next frame carries RESUMED (R322). live is liveness before the change. -/
def State.markResumed (s : State) : State :=
  s.modAtom fun a =>
    { a with sessions := a.sessions.map (fun (x : Session) =>
        if s.sessionLive x then x
        else { x with resumed := true, events := [], streams := [], eventTs := [], itemTs := [],
                      objects := x.objects.filter (fun o => o.mb != 0xFF) }) }

/-! Network ports (R320, R328, R329, R331). -/

/-- NET_LINK_CHANGE. -/
def execNetLinkChange (t : Tick) (port : Nat) (up : Bool) (s : State) : Host.Outcome State Fault Refusal :=
  let s := s.advance t
  .next (s.modPort port fun p => { p with link := up })


/-- A frame received with a redundancy control trailer (R329), of a node's MAC, sequence number and LAN identifier: counted where the
LAN is not the port's, kept in the node table of 512, and true where it repeats what came on the other port: discarded and counted.
PRESUMED (log 124): a frame is a duplicate if its number is that of the node's last one and came on the other port. -/
def State.prpReceive (s : State) (port node n lan : Nat) : State × Bool :=
  let s := s.count K.atomPrpWrongLan (b2n (lan != 0xA + port))
  match s.atom.prpNodes.find? (fun e => e.1 == node) with
  | some (_, m, q) =>
    if m == n && q != port then (s.bump K.atomPrpDupDiscarded, true)
    else (s.modAtom fun a => { a with prpNodes := (node, n, port) :: a.prpNodes.filter (fun e => e.1 != node) }, false)
  | none => (s.modAtom fun a => { a with prpNodes := ((node, n, port) :: a.prpNodes).take 512 }, false)

/-- NETWORK_REQUEST (R328, R329, R331): 0 ARP, 1 NDP, 2 ICMP echo, 3 membership query (group 0: a general query). An answer leaves; its
bytes are those of the standards named in R328 and are not part of the model. The sender's link-layer address is known from then
on. rct: the request's redundancy control trailer, if any. -/
def execNetworkRequest (t : Tick) (port kind : Nat) (addr src : Nat) (rct : Option (Nat × Nat × Nat)) (s : State) :
    Host.Outcome State Fault Refusal :=
  let s := s.advance t
  let hears := port < 3 && s.portRuns port && (s.port port).link
  let r := match rct with
    | some (node, n, lan) => if hears && port < 2 && s.pB K.atomPrpEn then s.prpReceive port node n lan else (s, false)
    | none => (s, false)
  let s := r.1
  .next (
    if r.2 then s else
    let own := (s.portAddrs port).contains addr
    let group := kind == 3 && s.atom.sessions.any (fun x => x.transport == 1 && bit x.ports port && (addr == 0 || x.dest == addr))
    if 3 ≤ port || !s.portRuns port || !(s.port port).link || 4 ≤ kind then s
    else if kind < 3 && own then
      let s := if s.atom.resolved.contains (port, src) then s
        else s.modAtom fun a => { a with resolved := (port, src) :: a.resolved }
      (s.modAtom fun a => { a with wire := some (port, []) }).perfEvent 0x0701 port 0xFF 1
    else if group then (s.modAtom fun a => { a with wire := some (port, []) }).perfEvent 0x0701 port 0xFF 1
    else s)

/-- PRP_SUPERVISION (R329). -/
def execPrpSupervision (t : Tick) (s : State) : Host.Outcome State Fault Refusal :=
  let s := s.advance t
  .next (
    if !s.pB K.atomPrpEn || !s.active || s.now < s.atom.prpAt + msT (s.p K.atomPrpLifecheckMs) then s
    else
      let s := s.modAtom fun a => { a with prpAt := s.now, prpSeq := (a.prpSeq + 1) % 65536, wire := some (0, []) }
      [0, 1].foldl (fun s p => if s.portRuns p && (s.port p).link then s.perfEvent 0x0701 p 0xFF 1 else s) s)

end Sys2Proof.Machine
end

