-- ==== Sys2Proof/Machine/Band.lean ====
section
/-!
DEFINITION. The supplied band-energy program (R210, R222 to R231): channel increments, the tree of decimators and band filters on the
coefficient banks, the heart note's phase, and the reductions of a base interval. Words at any stage are in 2^-bandFrac of the unit
2π / 2^20 per stage-0 sample interval.
-/
namespace Sys2Proof.Machine

/-! Arithmetic (R224). -/

/-- Fraction bits of a word, 0 to 4: a FREE VALUE of the program. -/
def fracBits : Nat := Config.bandFrac % 5

/-- Fraction bits of a mean square, 0 to 16: a FREE VALUE of the program. -/
def powerBits : Nat := Config.powerFrac % 17

/-- A sum in a 56-bit accumulator, saturating. -/
def acc56 (v : Int) : Int := satI 56 v

/-- A word of 24 bits, and whether it had to be saturated. -/
def word24 (v : Int) : Int × Bool := (satI 24 v, satI 24 v != v)

/-- One section with coefficients b0, b1, b2, a1, a2 in 2^-20: y = b0·x + b1·x1 + b2·x2 − a1·y1 − a2·y2 (R227), rounded to a word with
ties away from zero, and whether it saturated. -/
def Biquad.step (c : List Int) (q : Biquad) (x : Int) : (Int × Bool) × Biquad :=
  let k (i : Nat) : Int := nth 0 c i
  let acc := acc56 (k 0 * x + k 1 * q.x1 + k 2 * q.x2 - k 3 * q.y1 - k 4 * q.y2)
  let y := word24 (rdivAway acc (2 ^ 20))
  (y, { x1 := x, x2 := q.x1, y1 := y.1, y2 := q.y1 })

/-- Sections in series. -/
def cascade : List (List Int) → List Biquad → Int → (Int × Bool) × List Biquad
  | [], _, x => ((x, false), [])
  | c :: cs, qs, x =>
    let r := Biquad.step c (qs.head?.getD {}) x
    let rest := cascade cs (qs.drop 1) r.1.1
    ((rest.1.1, r.1.2 || rest.1.2), r.2 :: rest.2)

/-! Decimators (R222). -/

/-- Coefficients of a decimator's section: Config gives b0, b2, a1 and a2, and b1 makes the section's gain at DC exactly 1. -/
def decimSection (n : Nat) : List Int :=
  let c (i : Nat) : Int := sext 24 (uns 24 (Config.decim n i))
  [c 0, 2 ^ 20 + c 2 + c 3 - c 0 - c 1, c 1, c 2, c 3]

def decimCoefs : List (List Int) := (List.range 4).map decimSection

/-- One input of a decimator: every second input gives an output. -/
def Decim.step (d : Decim) (x : Int) : Option Int × Bool × Decim :=
  let r := cascade decimCoefs d.secs x
  (if d.odd then some r.1.1 else none, r.1.2, { secs := r.2, odd := !d.odd })

/-! Bands (R223, R227, R229). -/

/-- Sections of band k in a bank (0 A, 1 B). -/
def State.bankSection (s : State) (bank k sec : Nat) : List Int :=
  (List.range 5).map fun i => sext 32 (s.p ((if bank == 0 then K.chanCoefA else K.chanCoefB) + 10 * k + 5 * sec + i))

def State.bankCoefs (s : State) (bank k : Nat) : List (List Int) := [s.bankSection bank k 0, s.bankSection bank k 1]

/-- What a set's channels filter with: the bank in use per band, and during a swap the new bank and CHAN.XFADE. -/
structure BandCtx where
  own   : List (List (List Int))
  next  : Option (List (List (List Int)) × Nat)
  heart : Nat

/-- Add a square to a mean square in the making; 56 bits, saturating. -/
def addSq (sq : Nat) (x : Int) : Nat × Bool :=
  let v := (sq : Int) + x * x
  ((acc56 v).toNat, acc56 v != v)

/-- One sample of a band's stage. sat: something before it saturated. -/
def BandSt.step (b : BandSt) (c : BandCtx) (k : Nat) (x : Int) (sat : Bool) : BandSt :=
  let o := cascade (nth [] c.own k) b.own x
  match c.next with
  | none =>
    let q := addSq b.sq o.1.1
    { b with own := o.2, sq := q.1, n := b.n + 1, sat := b.sat || sat || o.1.2 || q.2 }
  | some (cs, xf) =>
    let w := cascade (nth [] cs k) b.next x
    let f := min (b.ran + 1) xf
    let y := o.1.1 + rdivAway ((w.1.1 - o.1.1) * f) (max 1 xf)
    let q := addSq b.sq y
    { b with own := o.2, next := w.2, ran := b.ran + 1, sq := q.1, n := b.n + 1, sat := b.sat || sat || o.1.2 || w.1.2 || q.2 }

/-! The tree (R222 to R225). -/

/-- A value of stage m: the stage's band, the heart note where h is m, and through the decimator the stage below. n bounds the stages. -/
def ChanSt.feed (c : BandCtx) (x : Int) (sat : Bool) : Nat → Nat → ChanSt → ChanSt
  | 0, _, t => t
  | n + 1, m, t =>
    let k := 7 - m
    let t := { t with bands := modAt (fun b => BandSt.step b c k x sat) ((List.range 8).map (fun i => nth {} t.bands i)) k }
    let t := if m == c.heart then
        let psi := t.psi + x * 2 ^ m
        { t with psi := psi, heart := t.heart ++ [uns 32 (rdivAway psi (2 ^ fracBits))] }
      else t
    if 7 ≤ m then t
    else
      let d := Decim.step (nth {} t.decs m) x
      let t := { t with decs := modAt (fun _ => d.2.2) ((List.range 7).map (fun i => nth {} t.decs i)) m }
      match d.1 with
      | some y => t.feed c y (sat || d.2.1) n (m + 1)
      | none => t

/-- One channel sample: increment dpsi and its predicted flag. tones: N in consensus, 1 in interleave; unit: N (sums are kept scaled to
interleave, in 1 / N). -/
def ChanSt.sample (c : BandCtx) (unit tones : Nat) (t : ChanSt) (dpsi : Int) (pred : Bool) : ChanSt :=
  let v : Int := dpsi * (unit / tones : Nat)
  let t := { t with n := t.n + 1, sum := t.sum + v, sumSq := t.sumSq + (v * v).toNat, peak := max t.peak (v * v).toNat,
                    pred := t.pred || pred, predN := t.predN + b2n pred }
  if tones == 2 ^ Nat.log2 tones then
    let w := word24 (rdivAway (dpsi * 2 ^ fracBits) tones)
    t.feed c w.1 w.2 8 (Nat.log2 tones)
  else t

/-! Channel increments (R210). -/

/-- A bin's samples in a tile: increment from the sample before, AMPLITUDE, PREDICTED. The first increment after a reset is 0. -/
def binSeries (words : List Nat) (last : Option Nat) : List (Int × Nat × Bool) :=
  (words.foldl (fun (acc : List (Int × Nat × Bool) × Option Nat) (w : Nat) =>
    let ph : Nat := w % 65536
    let d : Int := match acc.2 with | some p => sext 16 (uns 16 ((ph : Int) - p)) | none => 0
    (acc.1 ++ [(d, w / 65536 % 32768, bit w 31)], some ph)) ([], last)).1

/-- The channel increment and its predicted flag from its bins' samples of one instant. -/
def combine (weighted : Bool) (floor : Nat) (bins : List (Int × Nat × Bool)) : Int × Bool :=
  let sum (f : Int × Nat × Bool → Nat) : Nat := (bins.map f).sum
  let w1 (b : Int × Nat × Bool) : Nat := if b.2.2 then 0 else if weighted then b.2.1 - floor else 1
  let w2 (b : Int × Nat × Bool) : Nat := b2n (!b.2.2)
  let w : Int × Nat × Bool → Nat := if sum w1 != 0 then w1 else if sum w2 != 0 then w2 else fun _ => 1
  let num : Int := (bins.map (fun b => (w b : Int) * b.1)).sum
  (rdivAway (16 * num) (max 1 (sum w)), sum w1 == 0 && sum w2 == 0)

/-- Words of column col of a tile's data, n rows. -/
def columnWords (data : List Byte) (col n : Nat) : List Nat := (List.range n).map fun r => fld data (256 * r + 4 * col) 4

/-- The bin's words in the tiles of a set that stand for one span. -/
def binWords (tiles : List (Tile × List Byte)) (b n : Nat) : List Nat :=
  match tiles.find? (fun e => e.1.group == b / 64) with
  | some e => columnWords e.2 (b % 64) n
  | none => List.replicate n (2 ^ 31)

/-! Reductions (R229). -/

/-- round(128 × (10 log10 v + 256)), clamped to 1 to 65,535, of v = num / den × (2π fs / 2^20)²; 0 for 0. -/
def PS.dbCode (ps : PSet) (num den : Nat) : Nat :=
  if num == 0 then 0
  else
    let scale := lnFx (2 * piX * nTones ps * 10 ^ 9) (g ps K.synthShotPeriodNs * 2 ^ 84)
    let l := lnFx num den + 2 * scale
    (min 65535 (max 1 (rdivI (1280 * l + 32768 * (ln10Fx : Nat)) ln10Fx))).toNat

/-- The smoothed power of band k after an interval, P + ((M − P) >> s_k) (R229). -/
def BandSt.smoothed (b : BandSt) (shift : Nat) : Nat :=
  let m := rdiv (b.sq * 2 ^ powerBits) (b.n * 2 ^ (2 * fracBits))
  ((b.power : Int) + ((m : Int) - b.power) / (2 ^ shift : Int)).toNat

/-- The reductions of a channel over the interval that ends, in kind order, and the channel with the next interval begun. -/
def ChanSt.reduce (ps : PSet) (smooth : Nat) (fade : Bool) (c : Nat) (t : ChanSt) : List Reduction × ChanSt :=
  let unit := PS.nTones ps
  let bands := (List.range 8).map fun k =>
    let b := nth {} t.bands k
    if b.n == 0 then b else { b with power := b.smoothed (smooth / 16 ^ k % 16) }
  let red (kind value : Nat) (fade sat : Bool) : Reduction :=
    { channel := c, kind := kind, value := value, predicted := t.pred, fade := fade, saturated := sat }
  let bandReds := (List.range 8).filterMap fun k =>
    let b := nth {} bands k
    if b.n == 0 then none else some (red k (PS.dbCode ps b.power (2 ^ powerBits)) fade b.sat)
  let rate := rdivAway (t.sum * 10 ^ 9) (PS.g ps K.synthShotPeriodNs * max 1 t.n)
  let rest := if t.n == 0 then []
    else [red 8 (PS.dbCode ps t.sumSq (t.n * unit * unit)) false false, red 9 (PS.dbCode ps t.peak (unit * unit)) false false,
          red 10 (uns 32 (satI 32 rate)) false (satI 32 rate != rate)]
  (bandReds ++ rest,
   { t with bands := bands.map (fun b => { b with sq := 0, n := 0, sat := false }), n := 0, sum := 0, sumSq := 0, peak := 0,
            pred := false })

/-! One tile of a set (R210, R219 to R231). -/

/-- The set's state as the program meets it at a tile: cleared where the tile carries RESET, its base interval begun with the smoothing
and dead bands of now (R221, R232), and its swap begun where one is asked for (R227). -/
def State.bandStart (s : State) (i : Nat) (y : SliceTile) : BandSet :=
  let old := match (s.slc i).sets.find? (fun e => e.1 == y.set) with
    | some e => e.2
    | none => { bank := if s.sill.bankFading then 1 - s.sill.bankActive else s.sill.bankActive }
  let b := if y.reset then { old with last := [], chans := [], held := [], tiles := 0 } else old
  let b := if b.tiles == 0 && b.held.isEmpty then
      { b with start := y.tile.startTick, cons := false, fade := false, smooth := s.p K.chanBandSmooth,
               db := [s.p K.chanDbBand, s.p K.chanDbLevel, s.p K.chanDbRate] }
    else b
  if s.sill.bankFading && b.swap.isNone && b.bank != s.sill.bankActive && s.sill.bankAt ≤ y.startAt then
    let zero (x : BandSt) : BandSt := { x with next := [], ran := 0 }
    { b with swap := some (s.sill.bankActive, s.sill.bankXfade),
             chans := b.chans.map fun (e : Nat × ChanSt) => (e.1, { e.2 with bands := e.2.bands.map zero }) }
  else b

/-- The swap of a set ends once the slowest band that runs has run CHAN.XFADE samples (R227). -/
def BandSet.swapEnd (b : BandSet) (cons : Bool) (n : Nat) : BandSet :=
  match b.swap with
  | none => b
  | some (bank, xf) =>
    let runs (k : Nat) : Bool := !cons || (n == 2 ^ Nat.log2 n && k < 8 - Nat.log2 n)
    let done := b.chans.all fun e => (List.range 8).all fun k => !runs k || xf ≤ (nth {} e.2.bands k).ran
    let take (x : BandSt) : BandSt := { x with own := x.next, next := [], ran := 0 }
    if done then
      { b with bank := bank, swap := none,
               chans := b.chans.map fun (e : Nat × ChanSt) => (e.1, { e.2 with bands := e.2.bands.map take }) }
    else b

/-- The supplied band-energy program ends tile y on slice i: a joined set waits for the tiles of all its groups; then the channels take
their samples, the heart columns go out, and after CHAN.BASE_TILES tiles the interval's reductions are complete. -/
def State.bandTile (s : State) (i : Nat) (y : SliceTile) : State :=
  let ps := s.running
  let t := y.tile
  let b := s.bandStart i y
  let put (s : State) (b : BandSet) : State := s.modSlc i fun x => { x with sets := aput y.set b x.sets }
  let tiles := b.held.filter (fun e => e.1.startTick == t.startTick) ++ [(t, match y.read with | some r => r.2 | none => [])]
  if !((PS.setGroups ps y.set).all fun j => tiles.any (fun e => e.1.group == j)) then put s { b with held := tiles }
  else
    let n := ((tiles.map (·.1.samples)).min?).getD 0
    let unit := PS.nTones ps
    let tones := if t.cons then unit else 1
    let ctx : BandCtx :=
      { own := (List.range 8).map (s.bankCoefs b.bank),
        next := b.swap.map fun w => ((List.range 8).map (s.bankCoefs w.1), w.2), heart := PS.heartLog ps }
    let bins := (PS.setGroups ps y.set).flatMap fun j => (List.range 64).map (· + 64 * j)
    let series (bin : Nat) : List (Int × Nat × Bool) := binSeries (binWords tiles bin n) ((b.last.find? (fun e => e.1 == bin)).map (·.2))
    let one (c : Nat) : Nat × ChanSt :=
      let xs := (List.range (PS.g ps K.chanDecimation)).map fun k => series (PS.chanBin ps c + k)
      let t0 : ChanSt := { aget ({} : ChanSt) b.chans c with heart := [], predN := 0 }
      (c, (List.range n).foldl (fun (u : ChanSt) r =>
        let v := combine (PS.g ps K.chanCombine == 1) (PS.g ps K.stitchAmpFloor) (xs.map fun e => nth (0, 0, true) e r)
        u.sample ctx unit tones v.1 v.2) t0)
    let chans := (PS.setChans ps y.set).map one
    let last := bins.filterMap fun bin => ((binWords tiles bin n).getLast?).map (fun w => (bin, w % 65536))
    let swapping := b.swap.isSome
    let b1 := { b with last := last, chans := chans, held := [], tiles := b.tiles + 1, cons := b.cons || t.cons,
                       fade := b.fade || swapping || s.fadeMeets t.startTick t.lastTick }
    let b2 := b1.swapEnd t.cons unit
    let s := if swapping then s.modSill fun z =>
        { z with fadeFrom := some (match z.fadeFrom, z.fadeTo with
                   | some f, none => min f t.startTick
                   | _, _ => t.startTick),
                 fadeTo := none, fadeLast := max z.fadeLast t.lastTick }
      else s
    -- the heart columns
    let silent := PS.noHeart ps t.cons
    let step := PS.heartStep ps
    let s := if !s.pB K.chanHeartEn then s
      else chans.foldl (fun (s : State) e =>
        let src := (tiles.find? (fun x => x.1.group == PS.chanBin ps e.1 / 64)).map (·.1.heartSrc)
        let xs := if silent then List.replicate (n * tones / PS.g ps K.chanHeartDecim) 0 else e.2.heart
        let at_ := t.startTick + n * t.step - xs.length * step
        let edge := PS.chanBin ps (e.1 + 1) ≤ PS.g ps K.pceGauge
        let piece : HeartPiece :=
          { chan := e.1, at_ := at_, xs := xs, void := silent, flags := t.flags % 8, src := src,
            pred := if edge then 0 else e.2.predN, cons := t.cons }
        let r := s.heartColumn (s.tileShot t) piece y.reset
        let s := if r.2 then r.1.sliceFault i 2 else r.1
        if silent || xs.isEmpty then s else s.follow i xs.length 0 e.1 (xs.flatMap (leBytes 4))) s
    -- the base interval
    if b2.tiles < s.p K.chanBaseTiles then put s b2
    else
      let fade := b2.fade || s.fadeMeets b2.start t.lastTick
      let reds := b2.chans.map fun e => e.2.reduce ps b2.smooth fade e.1
      let ivl : BaseIvl := { start := b2.start, last := t.lastTick, time := s.devRound t.lastTick, cons := b2.cons,
                             reds := redSort (reds.flatMap (·.1)), db := b2.db }
      put s { b2 with tiles := 0, due := b2.due ++ [ivl],
                      chans := (b2.chans.zip reds).map fun e => (e.1.1, e.2.2) }

/-! Delivery (R229 to R231, R247, R264). -/

/-- Dead band of a kind 0 to 10 among an interval's own (R231, R232). -/
def BaseIvl.dead (b : BaseIvl) (kind : Nat) : Nat := nth 0 b.db (if kind ≤ 7 then 0 else if kind ≤ 9 then 1 else 2)

/-- The records that an interval's reductions make, 16 bytes each (R230). -/
def State.baseCopies (s : State) (b : BaseIvl) : List Byte :=
  b.reds.flatMap fun r =>
    match s.baseMoved (b.dead r.kind) r.channel r.kind r.value (redHi r b.cons) with
    | some ck => leBytes 8 b.time ++ leBytes 4 ck ++ leBytes 4 r.value
    | none => []

/-- Followers of a slice that runs the supplied band-energy image get the records it pushes (R247). -/
def State.followBase (s : State) (home : Nat) (recs : List Byte) : State :=
  if recs.isEmpty then s else s.follow home (recs.length / 16) 1 0 recs

/-- BASE_RECORDS_DELIVERED (R229 to R231, R264): the oldest complete base interval of a set reaches the base note, which takes the
reductions that moved, and the watchers, which take all. A record that R69 refuses faults the slice. -/
def execBaseRecordsDelivered (t : Tick) (set : Nat) (s : State) : Host.Outcome State Fault Refusal :=
  let s := s.advance t
  let home := PS.homeSlice s.running set
  let x := s.slc home
  .next (match (x.sets.find? (fun e => e.1 == set)).map (·.2) with
    | none => s
    | some b =>
      match b.due with
      | [] => s
      | ivl :: rest =>
        if !s.active || !x.bandRuns then s
        else
          let s := s.modSlc home fun z => { z with sets := aput set { b with due := rest } z.sets }
          let recs := s.baseCopies ivl
          let write (acc : State × Bool) (r : Reduction) : State × Bool :=
            let s := acc.1
            if acc.2 then acc
            else if (s.baseMoved (ivl.dead r.kind) r.channel r.kind r.value (redHi r ivl.cons)).isSome && s.baseRefused then
              ((s.protFault mSlice s.baseRoom.baseAt).sliceFault home 2, true)
            else (s.baseWrite mSlice (ivl.dead r.kind) ivl.time r.channel r.kind r.value (redHi r ivl.cons), false)
          let w := ivl.reds.foldl write (s, false)
          (w.1.followBase home recs).deliverReds set ivl.time ivl.last ivl.reds)

end Sys2Proof.Machine
end

