-- ==== Sys2Proof/Machine/Crypto.lean ====
section
/-!
DEFINITION. The check of a boot image's signature (R68, R475): SHA-256 (FIPS 180-4) and ECDSA over the curve P-256
(FIPS 186-4), as the standards the manual names give them.
-/
namespace Sys2Proof.Machine

/-! SHA-256. -/

/-- The round constants. -/
def shaK : List Word := [
  0x428a2f98, 0x71374491, 0xb5c0fbcf, 0xe9b5dba5, 0x3956c25b, 0x59f111f1, 0x923f82a4, 0xab1c5ed5,
  0xd807aa98, 0x12835b01, 0x243185be, 0x550c7dc3, 0x72be5d74, 0x80deb1fe, 0x9bdc06a7, 0xc19bf174,
  0xe49b69c1, 0xefbe4786, 0x0fc19dc6, 0x240ca1cc, 0x2de92c6f, 0x4a7484aa, 0x5cb0a9dc, 0x76f988da,
  0x983e5152, 0xa831c66d, 0xb00327c8, 0xbf597fc7, 0xc6e00bf3, 0xd5a79147, 0x06ca6351, 0x14292967] ++ [
  0x27b70a85, 0x2e1b2138, 0x4d2c6dfc, 0x53380d13, 0x650a7354, 0x766a0abb, 0x81c2c92e, 0x92722c85,
  0xa2bfe8a1, 0xa81a664b, 0xc24b8b70, 0xc76c51a3, 0xd192e819, 0xd6990624, 0xf40e3585, 0x106aa070,
  0x19a4c116, 0x1e376c08, 0x2748774c, 0x34b0bcb5, 0x391c0cb3, 0x4ed8aa4a, 0x5b9cca4f, 0x682e6ff3,
  0x748f82ee, 0x78a5636f, 0x84c87814, 0x8cc70208, 0x90befffa, 0xa4506ceb, 0xbef9a3f7, 0xc67178f2]

/-- The eight words of the hash value. -/
structure Sha where
  a : Word
  b : Word
  c : Word
  d : Word
  e : Word
  f : Word
  g : Word
  h : Word
  deriving DecidableEq, Repr

def shaInit : Sha :=
  ⟨0x6a09e667, 0xbb67ae85, 0x3c6ef372, 0xa54ff53a, 0x510e527f, 0x9b05688c, 0x1f83d9ab, 0x5be0cd19⟩

def shaS0 (x : Word) : Word := x.rotateRight 2 ^^^ x.rotateRight 13 ^^^ x.rotateRight 22
def shaS1 (x : Word) : Word := x.rotateRight 6 ^^^ x.rotateRight 11 ^^^ x.rotateRight 25
def shaD0 (x : Word) : Word := x.rotateRight 7 ^^^ x.rotateRight 18 ^^^ (x >>> 3)
def shaD1 (x : Word) : Word := x.rotateRight 17 ^^^ x.rotateRight 19 ^^^ (x >>> 10)

/-- The message schedule, newest word first: n words more. -/
def shaExtend : Nat → List Word → List Word
  | 0, w => w
  | n + 1, w => shaExtend n ((shaD1 (nth 0 w 1) + nth 0 w 6 + shaD0 (nth 0 w 14) + nth 0 w 15) :: w)

/-- One round. -/
def shaRound (s : Sha) (kw : Word × Word) : Sha :=
  let t1 := s.h + shaS1 s.e + ((s.e &&& s.f) ^^^ (~~~s.e &&& s.g)) + kw.1 + kw.2
  let t2 := shaS0 s.a + ((s.a &&& s.b) ^^^ (s.a &&& s.c) ^^^ (s.b &&& s.c))
  ⟨t1 + t2, s.a, s.b, s.c, s.d + t1, s.e, s.f, s.g⟩

/-- The words of a block, most significant byte first. -/
def shaWords : List Byte → List Word
  | a :: b :: c :: d :: r => (a ++ b ++ c ++ d) :: shaWords r
  | _ => []

/-- One block of 64 bytes. -/
def shaBlock (s : Sha) (blk : List Byte) : Sha :=
  let w := (shaExtend 48 (shaWords blk).reverse).reverse
  let r := (shaK.zip w).foldl shaRound s
  ⟨s.a + r.a, s.b + r.b, s.c + r.c, s.d + r.d, s.e + r.e, s.f + r.f, s.g + r.g, s.h + r.h⟩

/-- Whole blocks in order; n bounds their number. -/
def shaBlocks : Nat → Sha → List Byte → Sha
  | 0, s, _ => s
  | n + 1, s, bs => if bs.length < 64 then s else shaBlocks n (shaBlock s (bs.take 64)) (bs.drop 64)

/-- SHA-256 of a byte string, as a number, most significant byte first. -/
def sha256 (bs : List Byte) : Nat :=
  let len := bs.length
  let zeros := (119 - len % 64) % 64
  let m := bs ++ [0x80] ++ List.replicate zeros 0 ++ beBytes 8 (8 * len)
  let s := shaBlocks (m.length / 64) shaInit m
  ([s.a, s.b, s.c, s.d, s.e, s.f, s.g, s.h].foldl (fun n w => n * 2 ^ 32 + w.toNat) 0)

/-! P-256: y² = x³ − 3x + b over the field of p elements, base point G of order n. -/

def ecP : Nat := 0xFFFFFFFF00000001000000000000000000000000FFFFFFFFFFFFFFFFFFFFFFFF
def ecN : Nat := 0xFFFFFFFF00000000FFFFFFFFFFFFFFFFBCE6FAADA7179E84F3B9CAC2FC632551
def ecB : Nat := 0x5AC635D8AA3A93E7B3EBBD55769886BC651D06B0CC53B0F63BCE3C3E27D2604B
def ecG : Nat × Nat :=
  (0x6B17D1F2E12C4247F8BCE6E563A440F277037D812DEB33A0F4A13945D898C296,
   0x4FE342E2FE1A7F9B8EE7EB4A7C0F9E162BCE33576B315ECECBB6406837BF51F5)

/-- a^e modulo m, e of at most k bits, from its top bit down. -/
def powMod (a m e : Nat) : Nat → Nat → Nat
  | 0, r => r
  | k + 1, r =>
    let r := r * r % m
    powMod a m e k (if e.testBit k then r * a % m else r)

/-- The inverse modulo a prime m of 256 bits. -/
def invMod (a m : Nat) : Nat := powMod (a % m) m (m - 2) 256 1

/-- A point of the curve; none: the point at infinity. -/
abbrev EcPoint := Option (Nat × Nat)

/-- Sum of two points. -/
def ecAdd (p q : EcPoint) : EcPoint :=
  match p, q with
  | none, q => q
  | p, none => p
  | some (x1, y1), some (x2, y2) =>
    let third (l : Nat) : EcPoint :=
      let x := (l * l + 2 * ecP - x1 - x2) % ecP
      some (x, (l * (x1 + ecP - x) + ecP - y1) % ecP)
    if x1 = x2 then
      if (y1 + y2) % ecP = 0 then none
      else third ((3 * x1 * x1 + ecP - 3) * invMod (2 * y1) ecP % ecP)
    else third ((y2 + ecP - y1) * invMod (x2 + ecP - x1) ecP % ecP)

/-- The multiple e of a point, e of at most k bits, from its top bit down. -/
def ecMul (p : EcPoint) (e : Nat) : Nat → EcPoint → EcPoint
  | 0, r => r
  | k + 1, r =>
    let r := ecAdd r r
    ecMul p e k (if e.testBit k then ecAdd r p else r)

/-- A point lies on the curve. -/
def ecOn (x y : Nat) : Bool := x < ecP && y < ecP && y * y % ecP == (x * x * x + (ecP - 3) * x + ecB) % ecP

/-- ECDSA: (r, s) is a signature over this hash under the public key (x, y). -/
def ecdsaOk (x y hash r s : Nat) : Bool :=
  let w := invMod s ecN
  0 < r && r < ecN && 0 < s && s < ecN && ecOn x y &&
    (match ecAdd (ecMul (some ecG) (hash * w % ecN) 256 none) (ecMul (some (x, y)) (r * w % ecN) 256 none) with
     | some v => v.1 % ecN == r
     | none => false)

/-- The public key of an image is the one whose hash is fused, and its signature verifies over bytes 0 to IMAGE_LEN − 65 (R475).
Key and signature are four numbers of 32 bytes, little-endian as R5 has them (assumption 97). -/
def signatureOk (keyHash : Nat) (img : List Byte) : Bool :=
  let end_ := img.length - 64
  sha256 (slice img 64 64) == keyHash &&
    ecdsaOk (fld img 64 32) (fld img 96 32) (sha256 (img.take end_)) (fld img end_ 32) (fld img (end_ + 32) 32)

end Sys2Proof.Machine
end

