-- ==== Sys2Proof/Machine/CaptureOps.lean ====
section
/-!
DEFINITION. The commands of the capture unit (chapter 12): arming, status and release of slots, triggers, and the end of a
capture's window and of its sealing.
-/
namespace Sys2Proof.Machine

/-- CAPTURE_ARM (R286 to R289). -/
def State.captureArm (s : State) (q : Req) : State :=
  s.gate q 0x0030 cOperate true fun s id =>
    let i := payU q 0 1
    let src := payU q 1 1
    let zone := payU q 2 2
    let pre := payU q 4 4
    let post := payU q 8 4
    let tiers := payU q 12 4
    let first := payU q 16 4
    let cnt := payU q 20 4
    if payLen q != 24 || 15 < i || src == 0 || 128 ≤ src || (4095 < zone && zone != 0xFFFF) || tiers == 0 || 7 < tiers ||
        pre + post == 0 || 86400000 < pre || 86400000 < post then s.final id .range []
    else
      let r := s.armCheck i pre post tiers first cnt
      if r.1 != .ok then s.final id r.1 []
      else
        let slot := s.armed src zone pre post tiers first cnt r.2
        let s := (s.modCap i fun _ => slot).ok id (leBytes 4 r.2 ++ leBytes 4 slot.flags)
        s.captureTrigger i 6 s.dev 0 0xFFFF 0 false

/-- CAPTURE_ARM. -/
def execCaptureArm (t : Tick) (q : Req) (s : State) : Host.Outcome State Fault Refusal := .next ((s.advance t).captureArm q)

/-- CAPTURE_STATUS (R296). -/
def State.captureStatus (s : State) (q : Req) : State :=
  s.gate q 0x0031 cObserve true fun s id =>
    let i := payU q 0 1
    if payLen q != 4 || 15 < i || payU q 1 3 != 0 then s.final id .range []
    else s.ok id ((s.capSlot i).bytes176 i)

/-- CAPTURE_STATUS. -/
def execCaptureStatus (t : Tick) (q : Req) (s : State) : Host.Outcome State Fault Refusal :=
  .next ((s.advance t).captureStatus q)

/-- CAPTURE_RELEASE (R295): the slot is FREE, and every pin and reservation of it is dropped. -/
def State.captureRelease (s : State) (q : Req) : State :=
  s.gate q 0x0032 cOperate true fun s id =>
    let i := payU q 0 1
    if payLen q != 4 || 15 < i || payU q 1 3 != 0 then s.final id .range []
    else (s.modCap i fun _ => {}).ok id []

/-- CAPTURE_RELEASE. -/
def execCaptureRelease (t : Tick) (q : Req) (s : State) : Host.Outcome State Fault Refusal :=
  .next ((s.advance t).captureRelease q)

/-- The input has held its new level since the edge for SILL.TRIG_MIN_NS (R286). -/
def State.edgeHeld (s : State) (edge : Tick) : Bool := edge + nsT (s.p K.sillTrigMinNs) ≤ s.now

/-- TRIG_EDGE (R286): TRIGn has held, until now, the level to which it went at edge. It is a trigger if the edge has the input's
polarity and the level has held long enough; the TIU, which runs from VIGIL on, has stamped the edge. -/
def execTrigEdge (t : Tick) (n : Nat) (falling : Bool) (edge : Tick) (frac : Nat) (s : State) :
    Host.Outcome State Fault Refusal :=
  let s := s.advance t
  .next (if n < 4 && 2 ≤ s.clk.mode && falling == bit (s.p K.sillTrigPolarity) n && s.edgeHeld edge then
      s.triggerAll n (s.dev16 edge / 65536) (frac % 65536) 0xFFFF 0 false
    else s)

/-- STAR_EDGE (R286, R287): STAR_N has been low since edge. A fall while the device drives the line, or within 1 µs after, is
ignored. -/
def execStarEdge (t : Tick) (edge : Tick) (frac : Nat) (s : State) : Host.Outcome State Fault Refusal :=
  let s := s.advance t
  .next (if 2 ≤ s.clk.mode && s.cap.starIgnore ≤ edge && s.edgeHeld edge then
      s.triggerAll 4 (s.dev16 edge / 65536) (frac % 65536) 0xFFFF 0 false
    else s)

/-- STAR_PULSE_END (R287): the line is released. -/
def execStarPulseEnd (t : Tick) (s : State) : Host.Outcome State Fault Refusal :=
  let s := s.advance t
  .next (match s.cap.starUntil with
    | some a => if a ≤ s.now then { s with cap := { s.cap with starUntil := none } } else s
    | none => s)

/-- CAPTURE_WINDOW_END (R293). -/
def execCaptureWindowEnd (t : Tick) (slot : Nat) (s : State) : Host.Outcome State Fault Refusal :=
  let s := s.advance t
  let c := s.capSlot slot
  .next (if c.state == 2 && c.windowEnd ≤ s.dev16 s.now then s.enterSealing slot else s)

/-- Rows of the window up to device time stop are still with a slice of the band-energy program: in a tile that it has, or in an
output of one (R242, R244). -/
def State.sliceDue (s : State) (stop : Nat) : Bool :=
  s.slices.tab.any fun e => e.1 < s.p K.chanBandSlices &&
    (e.2.tiles.any (fun x => x.tile.startTime ≤ stop) ||
      e.2.outQ.any (fun d => match d.tile with | some t => decide (t.startTime ≤ stop) | none => false) ||
      e.2.sets.any (fun b => b.2.held.any (fun x => x.1.startTime ≤ stop)))

/-- A base interval that takes in samples up to device time stop is not yet in the base note: it is complete and waits, or, while
shots launch, is in progress. -/
def State.baseDue (s : State) (stop : Nat) : Bool :=
  s.slices.tab.any fun e => e.2.bandRuns && e.2.sets.any fun b =>
    b.2.due.any (fun d => s.devRound d.start ≤ stop) || (s.run.state == 1 && 0 < b.2.tiles && s.devRound b.2.start ≤ stop)

/-- Every tile, heart tile and base interval of a capture's window has been indexed or replaced by a gap record (R293). -/
def State.windowSettled (s : State) (c : CapSlot) : Bool :=
  let stop := c.trigTime + c.postActual * 1000000
  let start := c.trigTime - c.preMs * 1000000
  let shotDue (j : ShotJob) : Bool := s.devRound j.launch ≤ stop
  let onWay := s.pce.jobs.any (fun js => js.any shotDue) || s.sill.elastic.any (fun r => s.devRound r.instant ≤ stop) ||
    s.sill.openTiles.any (fun t => t.startTime ≤ stop)
  let top := !bit c.tiers 0 ||
    (!onWay && !s.sill.closed.any (fun t => !t.settled && t.startTime ≤ stop && start ≤ t.stop))
  let heart := !bit c.tiers 1 ||
    (!onWay && !s.sliceDue stop && !s.sill.hearts.any (fun h => !h.indexed && h.start ≤ stop))
  let base := !bit c.tiers 2 || (!onWay && !s.sliceDue stop && !s.baseDue stop)
  top && heart && base

/-- The bound of R293 on SEALING, as device time in 1/65,536 ns: S + D + 2 ms after the window end. -/
def State.sealBound (s : State) (c : CapSlot) : Nat :=
  c.windowEnd + tickQ ((tiersOf c.tiers).foldl (fun m t => max m (s.tierSpan t)) 0 + s.longestTile + msT 2) / 65536

/-- CAPTURE_SEAL (R293, R294). -/
def execCaptureSeal (t : Tick) (slot : Nat) (s : State) : Host.Outcome State Fault Refusal :=
  let s := s.advance t
  let c := s.capSlot slot
  .next (if c.state == 3 && (s.windowSettled c || s.sealBound c ≤ s.dev16 s.now) then s.sealed slot else s)

/-- Entry to VIGIL (R299): the fresh ring, the heart note and the archive are lost, with every pin on them. -/
def State.captureVigil (s : State) : State :=
  (List.range 16).foldl (fun s i =>
    let c := s.capSlot i
    if c.state < 2 then s
    else
      let lostAny := bit c.tiers 0 || bit c.tiers 1
      let s := s.modCap i fun c =>
        { c with flags := setBit (setBit c.flags 3 (bit c.flags 3 || bit c.tiers 0)) 4 (bit c.flags 4 || bit c.tiers 1),
                 pins := c.pins.filter (fun p => p.1 == 2), bytes := [0, 0, nth 0 c.bytes 2] }
      let s := if lostAny then s.captureEvent i 5 s.dev 3 else s
      if c.state == 2 then
        let s := s.modCap i fun c =>
          { c with postActual := min c.postActual ((s.dev - c.trigTime) / 1000000), flags := setBit c.flags 2 true,
                   windowEnd := s.dev16 s.now }
        (s.captureEvent i 4 s.dev 3).enterSealing i
      else s) s

/-- A warm reset (R300): ARMED slots are disarmed, open captures are sealed at the reset instant. -/
def State.captureWarm (s : State) : State :=
  (List.range 16).foldl (fun s i =>
    let c := s.capSlot i
    if c.state == 1 then s.modCap i fun _ => {}
    else if c.state == 2 || c.state == 3 then
      s.modCap i fun c =>
        { c with state := 4, flags := setBit (setBit c.flags 6 true) 2 true, sealTime := s.dev,
                 postActual := min c.postActual ((s.dev - c.trigTime) / 1000000),
                 bytes := (List.range 3).map (fun t => ((c.pins.filter (fun p => p.1 == t)).length) * posBytes t) }
    else s) s

end Sys2Proof.Machine
end

