-- ==== Sys2Proof/Machine/DispOps.lean ====
section
/-!
DEFINITION. The waterfall display (chapter 19): layers and their descriptors (R431 to R433), the waterfall (R434), colour
maps (R435), blending (R436), check rectangles (R437), underruns (R438) and what a COMMIT does to the outputs (R430).
-/
namespace Sys2Proof.Machine

/-! Outputs (R429, R430). -/

/-- Output o carries an image of its own: output 1 only in clone mode. -/
def State.hasOutput (s : State) (o : Nat) : Bool := s.p K.dispMode != 0 && (o == 0 || (o == 1 && s.p K.dispMode == 2))

/-- The outputs scan: in MAINTAIN and FULL, with the pixel clock running. -/
def State.scans (s : State) (o : Nat) : Bool := s.hasOutput o && s.active && !s.disp.stopped && s.domainRuns 9

/-- A rectangle lies in the active area of a set. -/
def PS.inArea (ps : PSet) (x y w h : Nat) : Bool := x + w ≤ g ps K.dispHActive && y + h ≤ g ps K.dispVActive

/-- DISP.FRAME_MHZ. -/
def State.frameMhz (s : State) : Nat :=
  let h := s.p K.dispHActive + s.p K.dispHFp + s.p K.dispHSync + s.p K.dispHBp
  let v := s.p K.dispVActive + s.p K.dispVFp + s.p K.dispVSync + s.p K.dispVBp
  if s.scans 0 then rdiv (s.p K.dispPixelKhz * 1000000) (h * v) else 0

def State.modLayer (s : State) (n : Nat) (f : Layer → Layer) : State :=
  { s with disp := { s.disp with layers := modAt f s.disp.layers n } }
def State.layer (s : State) (n : Nat) : Layer := nth {} s.disp.layers n
def State.modCheck (s : State) (n : Nat) (f : Check → Check) : State :=
  { s with disp := { s.disp with checks := modAt f s.disp.checks n } }

/-! Descriptors (R432), by offset. -/

def dEnable (d : List Byte) : Bool := fld d 0 1 == 1
def dFormat (d : List Byte) : Nat := fld d 1 1
def dAlpha (d : List Byte) : Nat := fld d 2 1
def dX (d : List Byte) : Nat := fld d 4 2
def dY (d : List Byte) : Nat := fld d 6 2
def dW (d : List Byte) : Nat := fld d 8 2
def dH (d : List Byte) : Nat := fld d 10 2
def dAddr (d : List Byte) : Nat := fld d 16 4
def dStride (d : List Byte) : Nat := fld d 20 4
def dRowUs (d : List Byte) : Nat := fld d 24 4
def dSource (d : List Byte) : Nat := fld d 28 1
def dKind (d : List Byte) : Nat := fld d 29 1
def dMap (d : List Byte) : Nat := fld d 30 1
def dDown (d : List Byte) : Bool := fld d 31 1 == 1
def dLow (d : List Byte) : Int := fldI d 32 4
def dHigh (d : List Byte) : Int := fldI d 36 4

/-- Bytes per pixel of a format (R431). -/
def pixBytes (f : Nat) : Nat := f + 2

/-- Bytes of a surface, from its first to its last. -/
def surfaceLen (d : List Byte) : Nat := (dH d - 1) * dStride d + dW d * pixBytes (dFormat d)

/-- The field checks of R431 to R433. -/
def State.layerOk (s : State) (lay : Nat) (d : List Byte) : Bool :=
  fld d 0 1 ≤ 1 && fld d 3 1 == 0 && fld d 12 4 == 0 && 1 ≤ dW d && 1 ≤ dH d &&
    PS.inArea s.running (dX d) (dY d) (dW d) (dH d) &&
    (if lay == 0 then
      dFormat d == 0 && 1 ≤ dStride d && dStride d ≤ 64 && 10000 ≤ dRowUs d && dRowUs d ≤ 10000000 &&
        dSource d ≤ 1 && (if dSource d == 0 then dKind d == 0 else dKind d ≤ 11) && dMap d ≤ 3 && fld d 31 1 ≤ 1 &&
        decide (dLow d < dHigh d)
    else
      (if lay == 1 then dFormat d ≤ 1 else dFormat d == 2) && dAddr d % 64 == 0 && dStride d % 64 == 0 &&
        dW d * pixBytes (dFormat d) ≤ dStride d && 576 * PS.mib ≤ dAddr d && dAddr d + surfaceLen d ≤ 832 * PS.mib &&
        fld d 24 4 == 0 && fld d 28 4 == 0 && fld d 32 8 == 0)

/-- DISP_LAYER (R433). -/
def State.dispLayer (s : State) (q : Req) : State :=
  s.gate q 0x00B0 cOperate true fun s id =>
    let o := payU q 0 1
    let lay := payU q 1 1
    let d := slice q.payload 4 40
    if payLen q != 44 || 1 < o || 2 < lay || payU q 2 2 != 0 || !s.layerOk lay d then s.final id .range []
    else if !s.hasOutput o || !s.active then s.final id .state []
    else (s.modLayer (3 * o + lay) fun l => { l with next := some d }).ok id []

def execDispLayer (t : Tick) (q : Req) (s : State) : Host.Outcome State Fault Refusal := .next ((s.advance t).dispLayer q)

/-- DISP_CHECK (R437): the rectangle applies from the next frame start. -/
def State.dispCheck (s : State) (q : Req) : State :=
  s.gate q 0x00B1 cConfigure true fun s id =>
    let o := payU q 0 1
    let r := payU q 1 1
    let w := payU q 8 2
    if payLen q != 16 || 1 < o || 7 < r || payU q 2 2 != 0 || (o == 1 && s.p K.dispMode != 2) ||
        !(w == 0 || PS.inArea s.running (payU q 4 2) (payU q 6 2) w (payU q 10 2)) then s.final id .range []
    else
      let n := 8 * o + r
      let last := (nth {} s.disp.checks n).lastCrc
      let v := (payU q 4 2, payU q 6 2, w, payU q 10 2, payU q 12 4)
      (s.modCheck n fun c => { c with next := some v }).ok id (leBytes 4 last)

def execDispCheck (t : Tick) (q : Req) (s : State) : Host.Outcome State Fault Refusal := .next ((s.advance t).dispCheck q)

/-! The waterfall (R434). -/


/-- The thermal section that holds a channel's first bin, for kind TEMP. -/
def State.sectionOf (s : State) (c : Nat) : Option Nat :=
  let b := PS.chanBin s.running c
  let f := s.p K.thermSectionFirstBin
  let i := (b - f) / s.p K.thermSectionBins
  if f ≤ b && 0 < s.p K.thermSectionBins && i < s.p K.thermSections then some i else none

/-- The newest of the later of two records. -/
def newerRec (best : Option BaseRec) (r : BaseRec) : Option BaseRec :=
  match best with
  | some b => if b.time ≤ r.time then some r else some b
  | none => some r

/-- The newest value of a kind of a channel at device time t, under the rebuild rule of R231. -/
def State.baseValue (s : State) (c kind t : Nat) : Option Int :=
  match if kind == 11 then s.sectionOf c else some c with
  | none => none
  | some col =>
    let mine := s.sill.base.filter (fun r => r.chKind % 2 ^ 23 == col + kind * 2 ^ 17 && r.time ≤ t)
    match mine.foldl newerRec none with
    | none => none
    | some r =>
      let voided := s.sill.gaps.any (fun g =>
        g.tier == 2 && g.firstCol ≤ col && col < g.firstCol + g.cols && r.time ≤ g.start && g.start ≤ t)
      if voided || s.kindAbsent c kind || (kind == 11 && r.value == 0x80000000) then none
      else some (if kind ≤ 9 then (r.value : Int) else sext 32 r.value)

/-- The larger of two values that may be absent. -/
def maxVal (a b : Option Int) : Option Int :=
  match a, b with
  | some x, some y => some (max x y)
  | some x, none => some x
  | none, y => y

/-- Heart samples of a channel that stand for instants from a on and before b, oldest first, gaps left out: (instant, phase). -/
def State.heartSamples (s : State) (c : Nat) (a b : Tick) : List (Tick × Nat) :=
  let step := PS.heartStep s.running
  let lost (t : Tick) : Bool :=
    s.sill.gaps.any fun g => g.tier == 1 && g.firstCol ≤ c && c < g.firstCol + g.cols && g.start ≤ s.devRound t && s.devRound t < g.stop
  ((s.sill.hearts.filter (fun h => h.index == c / 64 && !h.voids.contains c)).flatMap fun h =>
    ((aget [] h.cols c).zipIdx).map fun e => (h.startTick + e.2 * step, e.1)).filter fun e => a ≤ e.1 && e.1 < b && !lost e.1

/-- The heart-note value of a channel for the row from a to b (R434): the mean square of the strain rate, which is the difference of
consecutive samples times their rate (R225), as a code of R229. -/
def State.heartValue (s : State) (c : Nat) (a b : Tick) : Option Int :=
  let step := PS.heartStep s.running
  let xs := s.heartSamples c (a - 2 * step) b
  let ds := ((xs.zip xs.tail).filter (fun e => a ≤ e.2.1 && e.2.1 < e.1.1 + 2 * step)).map fun e =>
    (sext 32 (uns 32 ((e.2.2 : Int) - e.1.2))).natAbs ^ 2
  if ds.isEmpty then none else some (PS.dbCode s.running ds.sum (ds.length * s.p K.chanHeartDecim ^ 2) : Nat)

/-- Values of the columns of the row from a to b (R434): the largest value among a column's channels. -/
def State.rowColumns (s : State) (d : List Byte) (a b : Tick) : List (Option Int) :=
  (List.range (dW d)).map fun x =>
    (List.range (dStride d)).foldl (fun (best : Option Int) i =>
      let c := dAddr d + x * dStride d + i
      if c < s.p K.chanChannels then
        maxVal best (if dSource d == 1 then s.baseValue c (dKind d) (s.devAtT b) else s.heartValue c a b)
      else best) none

/-- Index of a value (R434). -/
def waterIndex (low high v : Int) : Nat :=
  (1 + clampI 0 254 (rdivAway (254 * (v - low)) (high - low).toNat)).toNat

/-- WATERFALL_ROW (R434): every ROW_US one row of indexes, of what is held when the command comes: the manual does not say how long after
a row's end the steward forms it (assumption 42). A row made while no shots launch draws index 0. -/
def execWaterfallRow (t : Tick) (output : Nat) (s : State) : Host.Outcome State Fault Refusal :=
  let s := s.advance t
  let n := 3 * output
  .next (match (s.layer n).desc with
    | none => s
    | some d =>
      let a := (s.layer n).rowAt
      let b := a + usT (dRowUs d)
      if 1 < output || !s.hasOutput output || !s.active || !dEnable d || s.now < b then s
      else
        let idx (v : Option Int) : Nat :=
          match v with
          | some v => if s.run.state == 1 then waterIndex (dLow d) (dHigh d) v else 0
          | none => 0
        s.modLayer n fun l => { l with rowNext := (s.rowColumns d a b).map idx :: l.rowNext, rowAt := b })

/-! Frames (R433, R435 to R438). -/

/-- The fields whose change clears the waterfall history. -/
def waterShape (d : List Byte) : List Nat := [dSource d, dKind d, dAddr d, dStride d, dW d, dH d]

/-- A frame starts for a layer: its accepted descriptor and its completed rows apply. -/
def Layer.frame (water : Bool) (now : Tick) (l : Layer) : Layer :=
  let d := match l.next with | some d => some d | none => l.desc
  let fresh := match l.desc, l.next with
    | some a, some b => water && waterShape a != waterShape b
    | none, some _ => true
    | _, none => false
  let rows := l.rowNext ++ l.rows
  let h := match d with | some d => dH d | none => 0
  let was := match l.desc with | some d => dEnable d | none => false
  let l := { l with desc := d, next := none, offFrom := none, rowNext := [], rowAt := if fresh || !was then now else l.rowAt }
  { l with rows := if fresh then [] else rows.take h }

/-- A set check rectangle applies. -/
def Check.frame (c : Check) : Check :=
  match c.next with
  | some (x, y, w, h, e) => { x := x, y := y, w := w, h := h, expect := e, next := none, lastCrc := 0, bad := false }
  | none => c

/-- A layer is off from a line on for the rest of the frame (R438). -/
def State.underrun (s : State) (n line : Nat) : State :=
  match (s.layer n).offFrom with
  | some l => s.modLayer n fun x => { x with offFrom := some (min l line) }
  | none => ((s.modLayer n fun x => { x with offFrom := some line }).bump (K.dispUnderrun + n)).perfEvent 0x0901 n 0xFF 1

/-- The layers whose surfaces are fetched on an output. -/
def State.fetched (s : State) (n : Nat) : Bool :=
  s.scans (n / 3) && n < 6 && (match (s.layer n).desc with | some d => dEnable d | none => false)

/-- The protection check of the fetches of a layer, line by line (R69, R438). -/
def State.fetchCheck (s : State) (n : Nat) : State :=
  match (s.layer n).desc with
  | some d =>
    if n % 3 == 0 || !s.fetched n then s
    else
      match (List.range (dH d)).find? (fun j => !s.protOk mDisplay (dAddr d + j * dStride d) (dW d * pixBytes (dFormat d)) false) with
      | some j => (s.protFault mDisplay (dAddr d + j * dStride d)).underrun n (dY d + j)
      | none => s
  | none => s

/-- DISP_FRAME_START (R433, R434, R437, R438): accepted descriptors, completed rows, colour maps and check rectangles apply;
underruns names the layers whose data is missing in this frame. -/
def execDispFrameStart (t : Tick) (underruns : List (Nat × Nat)) (s : State) : Host.Outcome State Fault Refusal :=
  let s := s.advance t
  .next (if !s.scans 0 then s
    else
      let s := s.modDisp fun x =>
        { x with layers := x.layers.zipIdx.map (fun e => e.1.frame (e.2 % 3 == 0) s.now), checks := x.checks.map Check.frame,
                 cmapShown := x.cmap, bgShown := s.p K.dispBgRgb, frames := x.frames + 1, inFrame := true }
      let s := (List.range 6).foldl State.fetchCheck (s.pulse 4 0 9 1)
      underruns.foldl (fun s e => if s.fetched e.1 then s.underrun e.1 e.2 else s) s)

/-- Expansion to 8 bits per colour (R431): (A, R, G, B). -/
def expand (f v : Nat) : Nat × Nat × Nat × Nat :=
  if f == 0 then
    let r := v / 2048 % 32
    let g := v / 32 % 64
    let b := v % 32
    (255, r * 8 + r / 4, g * 4 + g / 16, b * 8 + b / 4)
  else (if f == 2 then v / 2 ^ 24 % 256 else 255, v / 65536 % 256, v / 256 % 256, v % 256)

/-- Colour of entry i of a map (R435), as (R, G, B). -/
def State.mapColour (s : State) (m i : Nat) : Nat × Nat × Nat :=
  if m == 0 then (i, i, i)
  else if m == 1 then
    if i == 0 then (64, 64, 64) else (min 255 (3 * i), min 255 (3 * i - 255), min 255 (3 * i - 510))
  else
    let v := aget 0 s.disp.cmapShown (i + 256 * (m - 2))
    (v / 65536 % 256, v / 256 % 256, v % 256)

/-- The blend of R436 for one colour. -/
def blend (a l c : Nat) : Nat := (a * l + (255 - a) * c + 127) / 255

def blend3 (a : Nat) (l c : Nat × Nat × Nat) : Nat × Nat × Nat := (blend a l.1 c.1, blend a l.2.1 c.2.1, blend a l.2.2 c.2.2)

/-- The descriptor of layer n where it covers pixel (x, y) in this frame. -/
def State.covers (s : State) (n x y : Nat) : Option (List Byte) :=
  match (s.layer n).desc with
  | some d =>
    let on := match (s.layer n).offFrom with | some l => decide (y < l) | none => true
    if dEnable d && on && dX d ≤ x && x < dX d + dW d && dY d ≤ y && y < dY d + dH d then some d else none
  | none => none

/-- The colour of a surface's pixel. -/
def State.surfacePix (s : State) (d : List Byte) (x y : Nat) : Nat × Nat × Nat × Nat :=
  let n := pixBytes (dFormat d)
  expand (dFormat d) (leNat (s.dramGet (dAddr d + (y - dY d) * dStride d + (x - dX d) * n) n))

/-- Index of a waterfall pixel. -/
def Layer.index (l : Layer) (d : List Byte) (x y : Nat) : Nat :=
  let line := y - dY d
  nth 0 (nth [] l.rows (if dDown d then dH d - 1 - line else line)) (x - dX d)

/-- The blended pixel of R436. -/
def State.pixel (s : State) (o x y : Nat) : Nat × Nat × Nat :=
  let bg := s.disp.bgShown
  let c : Nat × Nat × Nat := (bg / 65536 % 256, bg / 256 % 256, bg % 256)
  let c := match s.covers (3 * o + 1) x y with
    | some d => blend3 (dAlpha d) (s.surfacePix d x y).2 c
    | none => c
  let c := match s.covers (3 * o) x y with
    | some d => blend3 (dAlpha d) (s.mapColour (dMap d) ((s.layer (3 * o)).index d x y)) c
    | none => c
  match s.covers (3 * o + 2) x y with
  | some d =>
    let p := s.surfacePix d x y
    blend3 ((p.1 * dAlpha d + 127) / 255) p.2 c
  | none => c

/-- The colour that LVDS link o sends as pixel x of line y (R429): in dual link output 0 carries the even pixels and output 1 the odd ones;
in 18-bit colour the low 2 bits of each colour are dropped. None where the link is powered down. -/
def State.linkPixel (s : State) (o x y : Nat) : Option (Nat × Nat × Nat) :=
  let dual := s.p K.dispMode == 3
  if !(s.scans o || (dual && o == 1 && s.scans 0)) then none
  else
    let p := if dual then s.pixel 0 (2 * x + o) y else s.pixel o x y
    let cut (c : Nat) : Nat := if s.p K.dispColourDepth == 1 then c / 4 * 4 else c
    some (cut p.1, cut p.2.1, cut p.2.2)

/-- The CRC-32 of a rectangle's pixels (R437). -/
def State.rectCrc (s : State) (o : Nat) (c : Check) : Nat :=
  crc32 ((List.range c.h).flatMap fun j => (List.range c.w).flatMap fun i =>
    let p := s.pixel o (c.x + i) (c.y + j)
    [BitVec.ofNat 8 p.1, BitVec.ofNat 8 p.2.1, BitVec.ofNat 8 p.2.2])

/-- A check rectangle at the end of a frame (R437). -/
def State.checkEnd (s : State) (n : Nat) : State :=
  let c := nth {} s.disp.checks n
  if c.w == 0 || !s.scans (n / 8) then s
  else
    let v := s.rectCrc (n / 8) c
    let bad := v != c.expect
    let s1 := s.modCheck n fun c => { c with lastCrc := v, bad := bad }
    if !bad then s1
    else
      let s2 := s1.bump K.dispCheckFail
      if c.bad then s2 else (s2.health 24 n 0 1).raise 7

/-- DISP_FRAME_END (R437). -/
def execDispFrameEnd (t : Tick) (s : State) : Host.Outcome State Fault Refusal :=
  let s := s.advance t
  .next (if !s.disp.inFrame || !s.scans 0 then s
    else ((List.range 16).foldl State.checkEnd s).modDisp fun x => { x with inFrame := false })

/-! Writes (R430, R435). -/

/-- The keys whose change restarts the outputs (R430). -/
def dispTiming : List Nat := (List.range 12).map (fun i => K.dispMode + i)

/-- A COMMIT has taken effect over the set old: with changed timing keys the outputs stop and the VPLL relocks (R430). -/
def State.dispCommit (s : State) (old : PSet) : State :=
  if dispTiming.all (fun k => PS.g old k == s.p k) then s
  else
    let on := s.p K.dispMode != 0 && s.active
    (s.modDisp fun x => { x with stopped := on, inFrame := false }).modClk fun c => { c with locked := modAt (fun _ => false) c.locked 3 }

/-- A write of DISP.CMAP_DATAn (R435); an entry past 255 does not exist. -/
def State.cmapWrite (s : State) (n v : Nat) : State :=
  let i := s.p K.dispCmapIndex
  if i % 256 + n < 256 then
    s.modDisp fun x => { x with cmap := aset 0 x.cmap (i % 256 + n + 256 * (i / 256 % 2)) (v % 2 ^ 24) }
  else s

/-- The enabled rectangles of an output, accepted ones in place of those they replace: (x, y, width, height). -/
def State.rects (s : State) (o : Nat) : List (Nat × Nat × Nat × Nat) :=
  let lay (l : Nat) : Option (Nat × Nat × Nat × Nat) :=
    let x := s.layer (3 * o + l)
    match (match x.next with | some d => some d | none => x.desc) with
    | some d => if dEnable d then some (dX d, dY d, dW d, dH d) else none
    | none => none
  let chk (r : Nat) : Option (Nat × Nat × Nat × Nat) :=
    let c := (nth {} s.disp.checks (8 * o + r)).frame
    if c.w == 0 then none else some (c.x, c.y, c.w, c.h)
  (List.range 3).filterMap lay ++ (List.range 8).filterMap chk

/-- R430: the first key that a set fails under, in key order. -/
def State.dispRange (s : State) (ps : PSet) : Option Nat :=
  let mode := PS.g ps K.dispMode
  let rs := if mode == 0 then [] else if mode == 2 then s.rects 0 ++ s.rects 1 else s.rects 0
  if mode != 0 && (if mode == 3 then 224000 else 112000) < PS.g ps K.dispPixelKhz then some K.dispPixelKhz
  else if (mode == 3 && PS.g ps K.dispHActive % 2 == 1) || rs.any (fun r => PS.g ps K.dispHActive < r.1 + r.2.2.1) then
    some K.dispHActive
  else if rs.any (fun r => PS.g ps K.dispVActive < r.2.1 + r.2.2.2) then some K.dispVActive
  else none

end Sys2Proof.Machine
end

