-- ==== Sys2Proof/Machine/Inst.lean ====
section
/-!
DEFINITION. Instrumentation (chapter 18): results and ends of conversions, input faults and the fall-back path, the
window comparators, the frequency outputs, INST_READ and INST_INJECT.
-/
namespace Sys2Proof.Machine

/-! Conversions (R406 to R420). -/

/-- A flag of R422 arises in the conversion in progress: in its input's flags for a scan, in its own otherwise. -/
def State.convFlag (s : State) (c : Conv) (b : Nat) : State :=
  if c.req == 0 then
    s.modInst fun x => { x with accums := modAt (fun a => { a with flags := setBit a.flags b true }) x.accums c.input }
  else s.modInst fun x => { x with running := x.running.map (fun (c : Conv) => { c with flags := setBit c.flags b true }) }

/-- A result that is not discarded enters its input's accumulation (R420). -/
def Accum.take (a : Accum) (code : Int) (fallback coarse : Bool) : Accum :=
  let f := if fallback then setBit a.flags 3 true else a.flags
  if a.count == 0xFFFFFFFF then { a with flags := setBit f 4 true }
  else
    { a with sum := satI 64 (a.sum + code), count := a.count + 1, min := Min.min a.min code, max := Max.max a.max code, flags := f,
             settling := if coarse then Min.min 65535 (a.settling + 1) else a.settling }

/-- A result that is not discarded enters the accumulation of an input (R420). -/
def State.accumTake (s : State) (input : Nat) (code : Int) (fallback coarse : Bool) : State :=
  s.modInst fun x =>
    { x with accums := modAt (fun a => a.take code fallback coarse) x.accums input,
             lastTake := some { at_ := s.now, input := input, before := nth {} x.accums input, code := code, fallback := fallback,
                                coarse := coarse } }

/-- The result of this STW cycle in an input's accumulation: a restart now belongs before it (R421). -/
def State.takeNow (s : State) (i : Nat) : Option Take :=
  match s.inst.lastTake with
  | some k => if k.input == i && k.at_ / stwT == s.now / stwT then some k else none
  | none => none

/-- A result that is discarded (R418). -/
def State.discard (s : State) (c : Conv) (b : Nat) : State := (s.convFlag c b).bump K.instDiscarded

/-- Temperature of a thermistor reading at IEX0 and gain 1 (R109, R126); where no temperature satisfies the equation the
manual states no result: a FREE VALUE (assumption 4). -/
def State.thermistor (s : State) (code : Int) (r25 beta : Nat) : State × Int :=
  match ntcTemp (s.ratioRes code 0) (r25 * 1000 * 2 ^ 23) beta with
  | some v => (s, v)
  | none => (s.tookFree, sext 32 s.freeNat)

/-- A conversion's single result goes to its requester (R413); none: discarded. -/
def State.deliverConv (s : State) (c : Conv) : State :=
  match c.req with
  | 1 =>
    match c.result with
    | some v =>
      if s.modValid 1 then
        let r := s.thermistor v (s.recF 1 40 4) (s.recF 1 38 2)
        r.1.pumpReading r.2
      else s
    | none => if bit c.flags 0 then s.pumpFail else s
  | 2 =>
    match c.result with
    | some v =>
      let r := s.thermistor v (s.p K.recvApdThR25) (s.p K.recvApdThBeta)
      r.1.apdReading r.2
    | none => if bit c.flags 0 then s.apdBroken else s
  | 3 => s.coilReading c.result
  | 4 => s.refdivArrived c.run c.result
  | 5 =>
    match s.inst.hostReq with
    | some q =>
      let code := match c.result with | some v => uns 32 v | none => 0x80000000
      let out := if 12 ≤ c.input && nth false s.inst.outside (c.input - 12) then 32 else 0
      let scan := if bit (s.p K.instScanMask) c.input then 64 else 0
      (s.modInst fun x => { x with hostReq := none }).final q .ok (leBytes 4 code ++ leBytes 4 (c.flags + out + scan))
    | none => s
  | _ => s

/-- The conversion in progress ends; its result is delivered and the next one begins (R412, R414). -/
def State.endConv (s : State) : State :=
  match s.inst.running with
  | none => s
  | some c =>
    let s := (s.modInst fun x =>
      { x with running := none,
               busy := (c.startAt, s.now) :: x.busy.filter (fun (e : Tick × Tick) => s.now ≤ e.2 + secT 1) }).perfEvent 0x0A01 c.input 0xFF 1
    let s := s.deliverConv c
    if s.inst.running.isNone then s.nextConv else s

/-- The input's conversions turn to the fall-back path, or stay there (R419). -/
def State.chopperFault (s : State) (c : Conv) : State :=
  let known := s.inst.fallback.any (fun e => e.1 == c.input)
  let s1 := (s.modInst fun x =>
    { x with fallback := aput c.input (s.now + secT 60) x.fallback }).bump K.instDiscarded
  if known then s1 else s1.health 22 c.input 0 2

/-- A main-path conversion has worked again while a retry was due (R419). -/
def State.chopperGood (s : State) (c : Conv) : State :=
  if cfgPath c.cfg || c.fallback then s
  else s.modInst fun x => { x with fallback := x.fallback.filter (fun (e : Nat × Tick) => !(e.1 == c.input && e.2 == 0)) }

/-- One filtered output of the conversion in progress (R406, R411, R418, R420). coarse: before the filter has settled. -/
def State.convResult (s : State) (c : Conv) (code : Int) (coarse : Bool) : State :=
  let step (s : State) (v : Option Int) : State :=
    s.modInst fun x =>
      { x with running := x.running.map (fun (c : Conv) =>
          { c with given := if coarse && c.req == 0 then c.given else c.given + 1,
                   outs := if coarse then c.outs else c.outs + 1, coarse := if coarse then c.coarse + 1 else c.coarse,
                   result := if c.req == 0 then c.result else v }) }
  if 8388607 < code.natAbs then step (s.discard c 2) none
  else
    let v := if c.reversed then -code else code
    let s := s.bump K.instConversions
    let s := if c.req == 0 then s.accumTake c.input v c.fallback coarse
      else if coarse then s.convFlag c 8 else s
    step s (some v)

/-- CONVERSION_RESULT (R406, R409, R411, R418 to R420): an output of the filter, settled or coarse as its place since the filter began to
settle says. -/
def execConversionResult (t : Tick) (code : Int) (chopFault : Bool) (s : State) : Host.Outcome State Fault Refusal :=
  let s := s.advance t
  .next (match s.inst.running with
    | none => s
    | some c =>
      if cfgDwell c.cfg ≤ c.given then s
      else if chopFault && s.pB K.instFallbackAuto && !cfgPath c.cfg && !c.fallback then
        (s.chopperFault c).endConv
      else
        let preset := cfgPreset c.cfg
        if c.settleAt + usT (s.settleUs preset + c.outs * s.outputUs preset) ≤ s.now then (s.chopperGood c).convResult c code false
        else if cfgCoarse c.cfg && c.outs == 0 && c.settleAt + usT (400 + c.coarse * 100) ≤ s.now &&
            s.now < c.settleAt + usT (s.settleUs preset) && c.req % 5 == 0 then
          s.convResult c code true
        else s)

/-- CONVERSION_COMPLETE (R412 to R416). -/
def execConversionComplete (t : Tick) (s : State) : Host.Outcome State Fault Refusal :=
  let s := s.advance t
  .next (match s.inst.running with
    | none => if s.inst.queue.isEmpty && s.nextScan.isNone then s else s.nextConv
    | some c => if cfgDwell c.cfg ≤ c.given then s.endConv else s)

/-- INPUT_FAULT (R418): 0 BREAK, 1 OVERVOLT, 2 both. A configuration without excitation and burnout sees no BREAK. -/
def execInputFault (t : Tick) (kind : Nat) (s : State) : Host.Outcome State Fault Refusal :=
  let s := s.advance t
  .next (match s.inst.running with
    | none => s
    | some c =>
      let brk := kind != 1 && (cfgExc c.cfg != 0 || cfgBurnout c.cfg != 0)
      let volt := kind == 1 || kind == 2
      if (!brk && !volt) || cfgDwell c.cfg ≤ c.given then s
      else
        let s := if brk then s.convFlag c 0 else s
        let s := if volt then s.convFlag c 1 else s
        let s := s.modInst fun x => { x with running := x.running.map (fun (c : Conv) => { c with result := none }) }
        (s.bump K.instDiscarded).endConv)

/-- FALLBACK_RETRY (R419): the input's next main-path conversion tries that path. -/
def execFallbackRetry (t : Tick) (input : Nat) (s : State) : Host.Outcome State Fault Refusal :=
  let s := s.advance t
  .next (s.modInst fun x =>
    { x with fallback := x.fallback.map (fun (e : Nat × Tick) => if e.1 == input && e.2 ≤ s.now then (e.1, 0) else e) })

/-- Entry to STANDBY or OFF, or a reset: conversions end (R412, R416). -/
def State.instStop (s : State) : State :=
  let q := s.inst.hostReq
  let s := s.modInst fun x => { x with running := none, queue := [], scanAt := none, hostReq := none }
  let s := s.modTherm fun h => { h with coilBusy := false, coilFirst := none }
  match q with
  | some id => s.final id .aborted []
  | none => s

/-- A scan configuration changed (R417): its accumulation restarts, and a scan conversion of it ends at once. -/
def State.cfgChanged (s : State) (input : Nat) : State :=
  let s := s.modInst fun x => { x with accums := modAt (fun _ => { flags := 128 }) x.accums input }
  match s.inst.running with
  | some c => if c.req == 0 && c.input == input then s.endConv else s
  | none => s

/-- A change of an excitation current restarts the settling of a conversion that uses it (R407, R411). -/
def State.iexChanged (s : State) (n : Nat) : State :=
  match s.inst.running with
  | some c =>
    if cfgExc c.cfg == n + 1 then
      s.modInst fun x => { x with running := some { c with settleAt := max s.now c.settleAt, outs := 0, coarse := 0 } }
    else s
  | none => s

/-! Window comparators (R423, R424). -/

/-- A comparator takes a state, and judges its band from now. -/
def State.winGo (s : State) (n : Nat) (out : Bool) : State :=
  s.modInst fun x => { x with outside := modAt (fun _ => out) x.outside n, winSince := modAt (fun _ => s.now) x.winSince n }

/-- INST_WINDOW (R423, R424): comparator n, 0 to 3 for AIN12 to AIN15, leaves its band: the pin has stayed outside it for the filter time
since it left, judged no earlier than the band was set. -/
def execInstWindow (t : Tick) (n : Nat) (above : Bool) (leftAt : Tick) (s : State) : Host.Outcome State Fault Refusal :=
  let s := s.advance t
  .next (
    if n < 4 && 1 ≤ s.clk.mode && bit (s.p K.instWinEnable) n && !nth false s.inst.outside n &&
        max leftAt (nth 0 s.inst.winSince n) + usT (s.p K.instWinFilterUs) ≤ s.now then
      (s.winGo n true).deviceRecordAt (s.devAtT (max leftAt (nth 0 s.inst.winSince n))) 0x09
        (s.p K.instWinSeverity / 16 ^ n % 16) ((if above then 1 else 2) + 256 * (12 + n))
        (if above then s.p (K.instWinHigh + n) else s.p (K.instWinLow + n)) 0
    else s)

/-- WINDOW_RETURN (R423): the pin has stayed within the band and its hysteresis for the filter time. -/
def execWindowReturn (t : Tick) (n : Nat) (s : State) : Host.Outcome State Fault Refusal :=
  let s := s.advance t
  .next (
    if n < 4 && 1 ≤ s.clk.mode && bit (s.p K.instWinEnable) n && nth false s.inst.outside n &&
        nth 0 s.inst.winSince n + usT (s.p K.instWinFilterUs) ≤ s.now then s.winGo n false
    else s)

/-! Frequency outputs (R425 to R427). -/

/-- The source value of output n, none where it is invalid (R426). -/
def State.fqoValue (s : State) (n : Nat) : Option Int :=
  let src := s.p (K.instFqoSource + n)
  let zone := s.zone (src / 256 % 4096)
  match src % 256 with
  | 0 => some (s.pI (K.instFqoValue + n))
  | 1 =>
    match zone.desc, s.therm.frameAt with
    | some d, some at_ =>
      if at_ + msT (s.p K.instFqoTimeoutMs) < s.now then none
      else (deciding ((s.zoneSections d).map (fun e => (e.1, e.2.1)))).map (·.2)
    | _, _ => none
  | 2 =>
    match zone.desc with
    | some _ => some (if [1, 2, 3].any (fun i => (nth {} zone.crits i).st == .active) then 1 else 0)
    | none => none
  | _ => none

/-- The output value of R425 formed from v. -/
def State.fqoOut (s : State) (n : Nat) (v : Int) : Nat :=
  let vl := s.pI (K.instFqoVLow + n)
  let vh := s.pI (K.instFqoVHigh + n)
  let lo : Int := (s.p (K.instFqoOutLow + n) : Nat)
  let hi : Int := (s.p (K.instFqoOutHigh + n) : Nat)
  let num := (v - vl) * (hi - lo)
  let q := if vl < vh then rdivAway num (vh - vl).toNat else rdivAway (-num) (vl - vh).toNat
  (clampI (min lo hi) (max lo hi) (lo + q)).toNat

/-- What output n drives (R425, R427): held low or high, or a value of its mode, in mHz or in 65,536ths of the PWM period. -/
inductive FqoDrive where
  | low
  | high
  | value (v : Nat)
  deriving DecidableEq, Repr

/-- The drive of output n: off, its fail-safe state, or the value last written. During STANDBY fail-safe state 2 is driven low. -/
def State.fqoDrive (s : State) (n : Nat) : FqoDrive :=
  let f := nth {} s.inst.fqos n
  if s.p (K.instFqoMode + n) == 0 then .low
  else if f.failsafe then
    match s.p (K.instFqoFailsafe + n) with
    | 0 => .low
    | 1 => .high
    | _ => if s.clk.mode < 2 then .low else .value (s.p (K.instFqoFault + n))
  else .value f.out

/-- Output n enters its fail-safe state (R427). -/
def State.fqoFail (s : State) (n : Nat) : State :=
  if (nth {} s.inst.fqos n).failsafe then s
  else (s.modInst fun x => { x with fqos := modAt (fun f => { f with failsafe := true }) x.fqos n }).health 23 n 0 2

/-- FQO_UPDATE (R425 to R427): the steward writes output n. -/
def execFqoUpdate (t : Tick) (n : Nat) (s : State) : Host.Outcome State Fault Refusal :=
  let s := s.advance t
  .next (
    if 4 ≤ n || s.clk.mode < 2 || s.p (K.instFqoMode + n) == 0 then s
    else match s.fqoValue n with
      | some v =>
        s.modInst fun x =>
          { x with fqos := modAt (fun _ => { failsafe := false, lastWrite := some s.now, out := s.fqoOut n v }) x.fqos n }
      | none => s.fqoFail n)

/-- FQO_TIMEOUT (R427). -/
def execFqoTimeout (t : Tick) (n : Nat) (s : State) : Host.Outcome State Fault Refusal :=
  let s := s.advance t
  .next (match (nth {} s.inst.fqos n).lastWrite with
    | some a => if a + msT (s.p K.instFqoTimeoutMs) ≤ s.now then s.fqoFail n else s
    | none => s)

/-! Requests. -/

/-- The accumulation of an input that INST_READ reports: with a restart, the one before this cycle's result (R421). -/
def State.accumRead (s : State) (restart : Bool) (i : Nat) : Accum :=
  match restart, s.takeNow i with
  | true, some k => k.before
  | _, _ => nth {} s.inst.accums i

/-- The accumulation of an input after a restart: this cycle's result belongs to it (R421). -/
def State.accumAnew (s : State) (i : Nat) (a : Accum) : Accum :=
  let new : Accum := { revNext := a.revNext }
  match s.takeNow i with
  | some k => new.take k.code k.fallback k.coarse
  | none => new

/-- The 24 bytes of one input (R421, R422). -/
def State.instReadOne (s : State) (restart : Bool) (i : Nat) : List Byte :=
  let a := s.accumRead restart i
  let out := if 12 ≤ i && nth false s.inst.outside (i - 12) then 32 else 0
  let scan := if bit (s.p K.instScanMask) i then 64 else 0
  leBytes 8 (uns 64 a.sum) ++ leBytes 4 a.count ++ leBytes 4 (uns 32 a.min) ++ leBytes 4 (uns 32 a.max) ++
    leBytes 4 (a.flags + out + scan + 65536 * a.settling)

/-- INST_READ (R421, R422). -/
def State.instRead (s : State) (q : Req) : State :=
  s.gate q 0x0080 cObserve true fun s id =>
    let mask := payU q 0 2
    if payLen q != 4 || mask == 0 || 1 < payU q 2 1 || payU q 3 1 != 0 then s.final id .range []
    else
      let ins := (List.range 16).filter (bit mask)
      let again := payU q 2 1 == 1
      let out := ins.flatMap (s.instReadOne again)
      let s1 := if again then s.modInst fun x => { x with accums := ins.foldl (fun as i => modAt (s.accumAnew i) as i) x.accums } else s
      s1.ok id out

/-- INST_READ. -/
def execInstRead (t : Tick) (q : Req) (s : State) : Host.Outcome State Fault Refusal := .next ((s.advance t).instRead q)

/-- The configuration an INST_INJECT asks for (R416). -/
def State.injectCfg (s : State) (q : Req) : Nat :=
  let g := payU q 1 1
  let f := payU q 2 1
  let e := payU q 3 1
  mkCfg (cfgNeg (s.p (K.instCfg + payU q 0 1))) (e / 32 % 2) (g / 128) (g % 16) (f % 16) (f / 16 % 2) (f / 32 % 2) (e % 4)
    (e / 8 % 4) 1

/-- INST_INJECT (R413, R416). -/
def State.instInject (s : State) (q : Req) : State :=
  s.gate q 0x0081 cOperate true fun s id =>
    let bad := payLen q != 4 || 15 < payU q 0 1 || payU q 1 1 / 16 % 8 != 0 || 64 ≤ payU q 2 1 || 64 ≤ payU q 3 1
    let cfg := s.injectCfg q
    if bad || !s.cfgOk (payU q 0 1) cfg then s.final id .range []
    else if !s.instRuns then s.final id .state []
    else if s.reqBusy 5 then s.final id .busy []
    else
      let s := s.takes id
      (s.modInst fun x => { x with hostReq := some id }).inject 5 (payU q 0 1) cfg (bit (payU q 3 1) 2)

/-- INST_INJECT. -/
def execInstInject (t : Tick) (q : Req) (s : State) : Host.Outcome State Fault Refusal := .next ((s.advance t).instInject q)

end Sys2Proof.Machine
end

