-- ==== Sys2Proof/Machine/Ecc.lean ====
section
/-!
DEFINITION. Inline ECC (R348): the (72,64) Hsiao code over a word's 64 data bits and its usable word address, the check byte of a
word, and what a read finds of a word that comes back with bits in error.
-/
namespace Sys2Proof.Machine

/-! The code. Its columns are distinct and of odd weight, all 56 of weight 3 and 39 of weight 5; which column belongs to which bit the
manual does not give (log 122). -/

/-- Ones among the eight bits of a column. -/
def colWeight (c : Nat) : Nat := ((List.range 8).filter (bit c)).length

/-- The columns of a weight. -/
def colsOf (w : Nat) : List Nat := (List.range 256).filter (fun c => colWeight c == w)

/-- n different members of xs, as pick chooses them. -/
def chooseCols (pick : Nat → Nat) : Nat → List Nat → List Nat
  | 0, _ => []
  | n + 1, xs =>
    let c := xs.getD (pick n % xs.length) 0
    c :: chooseCols pick n (xs.erase c)

/-- The columns of data bits 0 to 63, then of word address bits 0 to 30, which are usable address bits [33:3]. -/
def eccCols : List Nat := chooseCols (Config.hsiao 1) 95 (colsOf 3 ++ chooseCols (Config.hsiao 0) 39 (colsOf 5))

/-- Sum of the columns whose bit in n is set. -/
def colSum : List Nat → Nat → Nat
  | [], _ => 0
  | c :: cs, n => (if n % 2 == 1 then c else 0) ^^^ colSum cs (n / 2)

/-- The check byte of a 64-bit word at a word address (R348). -/
def checkByte (word addr : Nat) : Nat := colSum (eccCols.take 64) word ^^^ colSum (eccCols.drop 64) addr

/-- The check byte that segment 7 holds for the word at usable address u: every write of the word makes it anew (R347 to R349). -/
def State.checkAt (s : State) (u : Nat) : Nat := checkByte (leNat (s.dramGet (u / 8 * 8) 8)) (u / 8)

/-! What a read finds. -/

/-- A word that comes back with these bits inverted: the syndrome, of its check byte against the one read. Word and address cancel. -/
def WordErr.syndrome (e : WordErr) : Nat := colSum (eccCols.take 64) e.data ^^^ e.check

/-- What is found, and the data bits still inverted in what is delivered (R348, R350). A word read from the wrong address is
uncorrectable, as is an even syndrome, and an odd one that no data or check bit has. -/
def WordErr.found (e : WordErr) : MemResult × Nat :=
  if e.astray then (.uncorrectable, 0)
  else
    let syn := WordErr.syndrome e
    if syn == 0 then (.clean, e.data)
    else if colWeight syn % 2 == 0 then (.uncorrectable, 0)
    else if colWeight syn == 1 then (.single, e.data)
    else
      match (eccCols.take 64).idxOf? syn with
      | some i => (.single, e.data ^^^ 2 ^ i)
      | none => (.uncorrectable, 0)

/-- Words that an access touches. -/
def wordsOf (a len : Nat) : Nat := if len == 0 then 0 else (a + len - 1) / 8 + 1 - a / 8

/-- The words in error among those of an access. -/
def errsIn (a len : Nat) (errs : List WordErr) : List WordErr := errs.filter (fun e => e.word < wordsOf a len)

/-- Addresses of the words of an access that come out with a result. -/
def wordsWith (r : MemResult) (a len : Nat) (errs : List WordErr) : List Nat :=
  ((errsIn a len errs).filter (fun e => (WordErr.found e).1 == r)).map fun e => (a / 8 + e.word) * 8

/-- What an access finds as a whole. -/
def readFinds (a len : Nat) (errs : List WordErr) : MemResult :=
  if !(wordsWith .uncorrectable a len errs).isEmpty then .uncorrectable
  else if !(wordsWith .single a len errs).isEmpty then .single
  else .clean

/-- The data that an access delivers. -/
def State.readData (s : State) (a len : Nat) (errs : List WordErr) : List Byte :=
  let bs := s.dramGet a len
  let es := (errsIn a len errs).map fun e => (a / 8 + e.word, (WordErr.found e).2)
  if es.isEmpty then bs
  else bs.zipIdx.map fun b =>
    (es.filter (fun e => e.1 == (a + b.2) / 8)).foldl (fun x e => x ^^^ BitVec.ofNat 8 (e.2 / 256 ^ ((a + b.2) % 8))) b.1

end Sys2Proof.Machine
end

