-- ==== Sys2Proof/Machine/Deflate.lean ====
section
/-!
DEFINITION. DEFLATE streams (RFC 1951) as the flacon engines use them: the decoder of R311, the pre-conditioning of R304 and its
inverse, and the form that R306 gives the stream of a flacon.
-/
namespace Sys2Proof.Machine

/-! Bits and prefix codes. -/

/-- Bit i of a stream, the least significant of each byte first. -/
def streamBit (a : Array Byte) (i : Nat) : Nat := (a.getD (i / 8) 0).toNat / 2 ^ (i % 8) % 2

/-- The n-bit number at bit i. -/
def streamBits (a : Array Byte) (i n : Nat) : Nat := ((List.range n).map fun k => streamBit a (i + k) * 2 ^ k).sum

/-- A canonical prefix code: codes of each length 1 to 15, and the symbols in code order. -/
structure PrefixCode where
  counts : List Nat
  symbols : Array Nat

/-- The code whose symbol k has the k-th length; length 0 is unused. -/
def prefixCode (lens : List Nat) : PrefixCode :=
  { counts := (List.range 15).map fun l => lens.count (l + 1),
    symbols := ((List.range 15).flatMap fun l => idxWhere (· == l + 1) lens).toArray }

/-- The share of the code space that a code uses, in 1/32,768. -/
def PrefixCode.space (h : PrefixCode) : Nat := ((h.counts.zipIdx).map fun e => e.1 * 2 ^ (14 - e.2)).sum

/-- The code is complete, or has at most one symbol, of length 1. -/
def PrefixCode.ok (h : PrefixCode) : Bool :=
  h.space == 32768 || h.symbols.size == 0 || (h.symbols.size == 1 && h.space == 16384)

/-- The symbol at bit pos and the bit after it; counts are those of the lengths still to try. -/
def PrefixCode.scan (h : PrefixCode) (a : Array Byte) (pos code first index : Nat) : List Nat → Option (Nat × Nat)
  | [] => none
  | n :: rest =>
    let code := code + streamBit a pos
    if 8 * a.size ≤ pos then none
    else if code < first + n then some (h.symbols.getD (index + (code - first)) 0, pos + 1)
    else h.scan a (pos + 1) (2 * code) (2 * (first + n)) (index + n) rest

def PrefixCode.read (h : PrefixCode) (a : Array Byte) (pos : Nat) : Option (Nat × Nat) := h.scan a pos 0 0 0 h.counts

/-! Blocks. -/

/-- Output so far and the next bit. -/
structure Inflated where
  out : Array Byte
  pos : Nat

/-- How far back a match may reach: at most reach bytes, and not before the byte base of the output; and the output at which decoding
stops. -/
structure Reach where
  reach : Nat
  base  : Nat
  limit : Nat

/-- Least length of a match symbol from 257 on and its extra bits. -/
def matchLen (sym : Nat) : Nat × Nat :=
  if sym ≤ 264 then (sym - 254, 0)
  else if sym == 285 then (258, 0)
  else let e := (sym - 261) / 4; (2 ^ e * (4 + (sym - 265) % 4) + 3, e)

/-- Least distance of a distance symbol and its extra bits. -/
def matchDist (sym : Nat) : Nat × Nat :=
  if sym ≤ 3 then (sym + 1, 0) else let e := sym / 2 - 1; (2 ^ e * (2 + sym % 2) + 1, e)

/-- n bytes from dist back. -/
def copyBack (out : Array Byte) (dist : Nat) : Nat → Array Byte
  | 0 => out
  | n + 1 => copyBack (out.push (out.getD (out.size - dist) 0)) dist n

/-- The symbols of a compressed block, up to its end. n bounds them. -/
def inflateSymbols (a : Array Byte) (lits dists : PrefixCode) (r : Reach) (x : Inflated) : Nat → Option Inflated
  | 0 => none
  | n + 1 =>
    if r.limit < x.out.size then some x
    else
      match lits.read a x.pos with
      | none => none
      | some (sym, p) =>
        if sym < 256 then inflateSymbols a lits dists r { out := x.out.push (BitVec.ofNat 8 sym), pos := p } n
        else if sym == 256 then some { x with pos := p }
        else if 285 < sym then none
        else
          let l := matchLen sym
          match dists.read a (p + l.2) with
          | none => none
          | some (ds, q) =>
            let d := matchDist ds
            let dist := d.1 + streamBits a q d.2
            if 29 < ds || 8 * a.size < q + d.2 || min r.reach (x.out.size - r.base) < dist then none
            else
              inflateSymbols a lits dists r
                { out := copyBack x.out dist (l.1 + streamBits a p l.2), pos := q + d.2 } n

/-- The code lengths of a dynamic block, newest first, until there are need of them. n bounds the symbols. -/
def readLens (a : Array Byte) (h : PrefixCode) (need : Nat) (acc : List Nat) (pos : Nat) : Nat → Option (List Nat × Nat)
  | 0 => if acc.length == need then some (acc, pos) else none
  | n + 1 =>
    if need ≤ acc.length then (if acc.length == need then some (acc, pos) else none)
    else
      match h.read a pos with
      | none => none
      | some (sym, p) =>
        if sym < 16 then readLens a h need (sym :: acc) p n
        else if sym == 16 then
          match acc with
          | [] => none
          | x :: _ => readLens a h need (List.replicate (3 + streamBits a p 2) x ++ acc) (p + 2) n
        else if sym == 17 then readLens a h need (List.replicate (3 + streamBits a p 3) 0 ++ acc) (p + 3) n
        else readLens a h need (List.replicate (11 + streamBits a p 7) 0 ++ acc) (p + 7) n

/-- The order of the code length code's lengths. -/
def lensOrder : List Nat := [16, 17, 18, 0, 8, 7, 9, 6, 10, 5, 11, 4, 12, 3, 13, 2, 14, 1, 15]

/-- The two codes of a dynamic block whose header is at pos, and the bit after it. -/
def dynamicCodes (a : Array Byte) (pos : Nat) : Option (PrefixCode × PrefixCode × Nat) :=
  let nl := streamBits a pos 5 + 257
  let nd := streamBits a (pos + 5) 5 + 1
  let nc := streamBits a (pos + 10) 4 + 4
  let given := (lensOrder.take nc).zipIdx.map fun e => (e.1, streamBits a (pos + 14 + 3 * e.2) 3)
  let h := prefixCode ((List.range 19).map fun k => match given.find? (fun e => e.1 == k) with | some e => e.2 | none => 0)
  if 286 < nl || 30 < nd || h.space != 32768 then none
  else
    match readLens a h (nl + nd) [] (pos + 14 + 3 * nc) (nl + nd) with
    | none => none
    | some (acc, p) =>
      let lens := acc.reverse
      let lits := prefixCode (lens.take nl)
      let dists := prefixCode (lens.drop nl)
      if nth 0 lens 256 == 0 || !lits.ok || !dists.ok then none else some (lits, dists, p)

/-- The fixed codes. -/
def fixedLits : PrefixCode :=
  prefixCode (List.replicate 144 8 ++ List.replicate 112 9 ++ List.replicate 24 7 ++ List.replicate 8 8)
def fixedDists : PrefixCode := prefixCode (List.replicate 32 5)

/-- The block at x.pos. The header's type is 0 stored, 1 fixed, 2 dynamic. -/
def inflateBlock (a : Array Byte) (r : Reach) (x : Inflated) : Option Inflated :=
  let p := x.pos + 3
  let bits := 8 * a.size
  match streamBits a (x.pos + 1) 2 with
  | 0 =>
    let q := cdiv p 8
    let n := streamBits a (8 * q) 16
    if a.size < q + 4 + n || streamBits a (8 * q + 16) 16 + n != 65535 then none
    else some { out := (List.range n).foldl (fun o k => o.push (a.getD (q + 4 + k) 0)) x.out, pos := 8 * (q + 4 + n) }
  | 1 => inflateSymbols a fixedLits fixedDists r { x with pos := p } bits
  | 2 =>
    match dynamicCodes a p with
    | some (lits, dists, q) => inflateSymbols a lits dists r { x with pos := q } bits
    | none => none
  | _ => none

/-- Decode blocks up to the last. n bounds them. -/
def inflateAll (a : Array Byte) (r : Reach) (x : Inflated) : Nat → Option Inflated
  | 0 => none
  | n + 1 =>
    if r.limit < x.out.size then some x
    else if 8 * a.size < x.pos + 3 then none
    else
      match inflateBlock a r x with
      | none => none
      | some y => if streamBit a x.pos == 1 then some y else inflateAll a r y n

/-- What a whole stream decodes to; none where it is malformed (R311). Output past limit bytes is cut off there. -/
def inflate (limit : Nat) (stream : List Byte) : Option (List Byte) :=
  let a := stream.toArray
  match inflateAll a { reach := 32768, base := 0, limit := limit } { out := #[], pos := 0 } (8 * a.size) with
  | none => none
  | some x => if limit < x.out.size || cdiv x.pos 8 == a.size then some x.out.toList else none

/-! Pre-conditioning (R304). -/

/-- Undo the pre-conditioning of one part of n rows (R304): its four planes, to rows of 256 bytes. -/
def unplane (n : Nat) (bs : List Byte) : List Byte :=
  let a := bs.toArray
  let get (k i : Nat) : Nat := (a.getD (k * 64 * n + i) 0).toNat
  -- per column: running lo and hi over the rows
  let col (c : Nat) : List Nat :=
    ((List.range n).foldl (fun (acc : List Nat × Nat × Nat) r =>
      let i := c * n + r
      let lo := (acc.2.1 + get 0 i + 256 * get 1 i) % 65536
      let hi := (acc.2.2 + get 2 i + 256 * get 3 i) % 65536
      (acc.1 ++ [hi * 65536 + lo], lo, hi)) ([], 0, 0)).1
  let cols := ((List.range 64).map col).map List.toArray
  (List.range n).flatMap fun r => cols.flatMap fun c => leBytes 4 (c.getD r 0)

/-- The pre-conditioning of one part of n rows of 256 bytes (R304). -/
def planes (n : Nat) (bs : List Byte) : List Byte :=
  let a := bs.toArray
  let half (k c r : Nat) : Nat := (a.getD (256 * r + 4 * c + 2 * k) 0).toNat + 256 * (a.getD (256 * r + 4 * c + 2 * k + 1) 0).toNat
  let diff (k c r : Nat) : Nat := (half k c r + 65536 - (if r == 0 then 0 else half k c (r - 1))) % 65536
  (List.range 4).flatMap fun p => (List.range 64).flatMap fun c => (List.range n).map fun r =>
    BitVec.ofNat 8 (diff (p / 2) c r / 256 ^ (p % 2))

/-- First row and rows of each part that split rows make of a tile (R305). -/
def partSpans (a : Nat) : List Nat → List (Nat × Nat)
  | [] => [(a, 256 - a)]
  | b :: rest => (a, b - a) :: partSpans b rest

/-- The bytes of each part of a tile's data that the engine compresses (R304, R305). -/
def flaconParts (precond : Bool) (splits : List Nat) (data : List Byte) : List (List Byte) :=
  (partSpans 0 splits).map fun e =>
    let rows := (data.drop (256 * e.1)).take (256 * e.2)
    if precond then planes e.2 rows else rows

/-! The stream of a flacon (R306). -/

/-- The blocks of a part of which left bytes are to come, each dynamic and of block bytes but for the part's last; only the last of the
last part is final. n bounds them. -/
def partBlocks (a : Array Byte) (r : Reach) (block : Nat) (last : Bool) (left : Nat) (x : Inflated) : Nat → Option Inflated
  | 0 => if left == 0 then some x else none
  | n + 1 =>
    if left == 0 then some x
    else if streamBits a (x.pos + 1) 2 != 2 || (streamBit a x.pos == 1) != (last && left ≤ block) then none
    else
      match inflateBlock a r x with
      | none => none
      | some y =>
        if y.out.size == x.out.size + min block left then partBlocks a r block last (left - block) y n else none

/-- An empty stored block at bit pos, which is not final: the byte after it. -/
def emptyStored (a : Array Byte) (pos : Nat) : Option Nat :=
  let q := cdiv (pos + 3) 8
  if streamBits a pos (8 * q - pos) == 0 && streamBits a (8 * q) 32 == 0xFFFF0000 && q + 4 ≤ a.size then some (q + 4) else none

/-- The parts of a stream that obeys R306, of these lengths: what it decodes to, and the stream offsets of the parts after the
first. -/
def streamParts (a : Array Byte) (reach block : Nat) (x : Inflated) : List Nat → Option (List Byte × List Nat)
  | [] => none
  | len :: rest =>
    let r : Reach := { reach := reach, base := x.out.size, limit := 65536 }
    match partBlocks a r block rest.isEmpty len x (len + 1) with
    | none => none
    | some y =>
      if rest.isEmpty then (if cdiv y.pos 8 == a.size then some (y.out.toList, []) else none)
      else
        match emptyStored a y.pos with
        | none => none
        | some q => (streamParts a reach block { y with pos := 8 * q } rest).map fun w => (w.1, q :: w.2)

/-- The stream is one that R306 lets an engine make of these parts, with blocks of kib KiB and matches of at most 2^log2 bytes back: the
stream offsets of the parts after the first. -/
def flaconStream (kib log2 : Nat) (parts : List (List Byte)) (stream : List Byte) : Option (List Nat) :=
  match streamParts stream.toArray (2 ^ log2) (1024 * kib) { out := #[], pos := 0 } (parts.map List.length) with
  | some (out, offs) => if out == parts.flatten then some offs else none
  | none => none

end Sys2Proof.Machine
end

