-- ==== Sys2Proof/Machine/Flacon.lean ====
section
/-!
DEFINITION. The flacon engines (chapter 13): starting a job, splits, the flacon and its place in the archive, and
decompression for retrieval.
-/
namespace Sys2Proof.Machine

/-! Flush times and splits (R305). -/

/-- FLUSH_TIME_EXPIRY (R305): kept times older than twice the longest tile time are dropped. -/
def execFlushTimeExpiry (t : Tick) (s : State) : Host.Outcome State Fault Refusal :=
  let s := s.advance t
  let keep := tickNs (2 * s.longestTile)
  let f (e : Engine) : Engine := { e with flushes := e.flushes.filter (fun x => s.dev < x.1 + keep) }
  .next { s with engines := s.engines.map f }

/-- The split row of a flush time in a tile's span, or none (R305). -/
def splitRow (t : Tile) (time : Nat) : Option Nat :=
  if t.startTime ≤ time && time < t.stop then
    let r := cdiv ((time - t.startTime) * 256) t.period256
    if r == 0 || t.samples ≤ r then none else some r
  else none

def insertNat (n : Nat) : List Nat → List Nat
  | [] => [n]
  | x :: xs => if n ≤ x then n :: x :: xs else x :: insertNat n xs

/-- Distinct split rows in rising order. -/
def splitRows (t : Tile) (times : List Nat) : List Nat := ((times.filterMap (splitRow t)).eraseDups).foldr insertNat []

/-! Jobs (R303). -/

/-- The first decompression job of a queue. -/
def Engine.nextRestore (e : Engine) : Option FlaconJob :=
  e.queue.find? fun j =>
    match j with
    | .restore _ _ _ _ => true
    | .archive _ _ => false

/-- FLACON_JOB_START (R303, R305): archive jobs before decompression jobs, each kind in queue order; an archive job once the one read of
its tile is complete. -/
def execFlaconJobStart (t : Tick) (engine : Nat) (s : State) : Host.Outcome State Fault Refusal :=
  let s := (s.advance t).woken [6]
  .next (
    let e := s.eng engine
    if e.running.isSome || engine ≥ 2 || !s.domainRuns 6 then s
    else match e.nextArchive with
      | some (p, q) =>
        if e.buffer != some (p, q) || !(s.sill.closed.all (fun c => c.pos != p || c.seq != q || s.turned c)) then s
        else match e.bufTile with
          | none => s
          | some y =>
            let rows := splitRows y ((e.flushes.filter (fun x => s.cycles 6 x.2 s.now != 0 &&
              s.dev < x.1 + tickNs (2 * s.longestTile))).map (·.1))
            (s.count K.flacSplitIgnored (rows.length - 2)).modEng engine fun e =>
              { e with queue := e.queue.filter (· != .archive p q), running := some (.archive p q), splits := rows.take 2,
                       runData := e.bufData, runTile := some y, buffer := none, bufData := [], bufTile := none,
                       busySince := s.now }
      | none =>
        match e.nextRestore with
        | some j =>
          s.modEng engine fun e =>
            { e with queue := e.queue.erase j, running := some j, splits := [], busySince := s.now }
        | none => s)

/-- An engine's job ends: its busy time is kept for FLAC.LOAD_PCT. -/
def State.engineDone (s : State) (engine : Nat) : State :=
  s.modEng engine fun e =>
    { e with running := none, splits := [], runData := [], runTile := none,
             busy := (e.busySince, s.now) :: e.busy.filter (fun b => s.now ≤ b.2 + secT 1) }

/-- FLACON_OUTPUT_DRAIN (R309): a stalled engine resumes. How long it had stalled within its job is a FREE VALUE, and adds to
FLAC.STALL_US. -/
def execFlaconOutputDrain (t : Tick) (engine : Nat) (s : State) : Host.Outcome State Fault Refusal :=
  let s := s.advance t
  .next (
    if (s.eng engine).running.isSome && engine < 2 then
      let us := (s.now - (s.eng engine).busySince) / usT 1
      s.tookFree.count K.flacStallUs (s.freeNat % (us + 1))
    else s)

/-! The flacon (R307, R308). -/

/-- The stored stream of 65,536 bytes (R307). -/
def storedStream (data : List Byte) : List Byte :=
  leBytes 1 0 ++ leBytes 2 65535 ++ leBytes 2 0 ++ data.take 65535 ++ leBytes 1 1 ++ leBytes 2 1 ++ leBytes 2 65534 ++
    slice data 65535 1

/-- The bytes of a flacon, padded to a multiple of 8 (R308). -/
def flaconBytes (stored precond : Bool) (engine : Nat) (splits : List Nat) (off1 off2 time : Nat) (image data stream : List Byte) :
    List Byte :=
  let n := if stored then 0 else splits.length
  let row (k : Nat) : Nat := if k < n then nth 0 splits k else 0
  let head := leBytes 4 0x464C5345 ++ leBytes 1 1 ++ leBytes 1 (b2n stored + 2 * b2n (precond && !stored)) ++ leBytes 1 n ++
    leBytes 1 engine ++ leBytes 4 65536 ++ leBytes 4 stream.length ++ leBytes 4 (crc32 data) ++ leBytes 2 (row 0) ++
    leBytes 2 (row 1) ++ leBytes 4 (if 1 ≤ n then off1 else 0) ++ leBytes 4 (if 2 ≤ n then off2 else 0) ++ leBytes 8 time ++
    leBytes 20 0
  let body := head ++ leBytes 4 (crc32c head) ++ image.take 320 ++ stream
  body ++ List.replicate ((8 - body.length % 8) % 8) 0

/-- The next segment after the newest allocated, in ring order, that is neither pinned nor open (R281). n bounds the search. -/
def State.nextSegment (s : State) (seg : Nat) : Nat → Nat
  | 0 => seg
  | n + 1 =>
    let p := seg % max 1 s.archiveMib
    if s.pinned 0 p || s.sill.segments.any (fun x => x.index == p) then s.nextSegment (p + 1) n else p

/-- The open segment of an engine with at least 68 KiB of room, opening a new one where needed (R281). -/
def State.openSegment (s : State) (engine : Nat) : State × Segment :=
  match s.sill.segments.find? (fun x => x.openBy == some engine) with
  | some x =>
    if 69632 ≤ PS.mib - x.used then (s, x)
    else
      let s := s.modSill fun y => { y with segments := y.segments.filter (fun z => z.openBy != some engine) }
      let i := s.nextSegment s.sill.segNext s.archiveMib
      let x : Segment := { index := i, used := 0, openBy := some engine }
      (s.modSill fun y => { y with segments := y.segments ++ [x], segNext := i + 1,
                                   flacons := y.flacons.filter (fun f => f.segment != i) }, x)
  | none =>
    let i := s.nextSegment s.sill.segNext s.archiveMib
    let x : Segment := { index := i, used := 0, openBy := some engine }
    (s.modSill fun y => { y with segments := y.segments ++ [x], segNext := i + 1,
                                 flacons := y.flacons.filter (fun f => f.segment != i) }, x)

def State.flaconAddr (s : State) (seg off : Nat) : Nat := PS.archiveStart s.running + seg * PS.mib + off

/-- A finished archive job stores its Flacon in the open segment (R281 to R284). -/
def State.flaconStore (s : State) (engine p q : Nat) (y : Tile) (stored : Bool) (out bytes : List Byte) : State :=
  let time := s.dev
  let r := s.openSegment engine
  let s := r.1
  let x := r.2
  let a := s.flaconAddr x.index x.used
  let s := s.engineDone engine
  let settle (s : State) : State :=
    s.modClosed p fun c => if c.seq == q && c.group == y.group then { c with settled := true } else c
  if !s.protOk mFlacon a bytes.length true then settle (s.protFault mFlacon a)
  else
    let f : Flacon := { segment := x.index, offset := x.used, len := bytes.length, group := y.group, start := y.startTime,
                        stop := y.stop, newest := s.devRound y.lastTick, commitTime := time, seq := q }
    let s := (s.dramPut a bytes).modSill fun z =>
      { z with flacons := z.flacons ++ [f],
               segments := z.segments.map (fun g => if g.openBy == some engine then { g with used := g.used + bytes.length } else g) }
    let s := (s.bump K.flacArchived).count K.flacStoredCount (b2n stored)
    let s := s.objectOut 3 21 q (fun z => PS.setGroup s.running z.chanSet y.group) bytes
    let s := s.modEng engine fun e =>
      { e with recent := (s.now, out.length) :: e.recent.filter (fun c => s.now ≤ c.1 + secT 1) }
    ((settle s).wrote 0 bytes.length).pinWritten 0 x.index y.startTime y.stop

/-- FLACON_COMMIT (R306 to R309): the running archive job's flacon is in memory and indexed. stream is the engine's DEFLATE stream, one
of those that R306 allows for the tile and its parts; one not shorter than the stored stream is abandoned for it. A stream that R306
does not allow is none that an engine makes, and does nothing. -/
def execFlaconCommit (t : Tick) (engine : Nat) (stream : List Byte) (s : State) :
    Host.Outcome State Fault Refusal :=
  let s := s.advance t
  .next (match (s.eng engine).running, (s.eng engine).runTile with
    | some (.archive p q), some y =>
      let data := (s.eng engine).runData
      let splits := (s.eng engine).splits
      let commit (stored : Bool) (offs : List Nat) (out : List Byte) : State :=
        s.flaconStore engine p q y stored out
          (flaconBytes stored y.precond engine splits (nth 0 offs 0) (nth 0 offs 1) s.dev y.header data out)
      if 65546 ≤ stream.length then commit true [] (storedStream data)
      else match flaconStream y.blockKib y.windowLog (flaconParts y.precond splits data) stream with
        | some offs => commit false offs stream
        | none => s
    | _, _ => s)

/-! Decompression (R304, R311). -/


/-- The parts of a decoded stream: rows a to b − 1 of each. -/
def unpart (rows : List Nat) (bs : List Byte) : List Byte :=
  match rows with
  | [] => []
  | n :: rest => unplane n (bs.take (256 * n)) ++ unpart rest (bs.drop (256 * n))

/-- Rows of each part from the split rows. -/
def partRows (splits : Nat) (r1 r2 : Nat) : List Nat :=
  match splits with
  | 0 => [256]
  | 1 => [r1, 256 - r1]
  | _ => [r1, r2 - r1, 256 - r2]

/-- A tile slot image from its header's first 320 bytes and its data (R308, R311). -/
def slotImage (image data : List Byte) : List Byte :=
  let body := slice image 0 320 ++ leBytes 700 0
  body ++ leBytes 4 (crc32c body) ++ data

/-- HDR_CRC and MAGIC of a flacon hold (R311). -/
def flaconHead (flacon : List Byte) : Bool := crc32c (flacon.take 60) == fld flacon 60 4 && fld flacon 0 4 == 0x464C5345

/-- What the DEFLATE stream of a flacon decodes to, up to one byte past ORIG_LEN or more (R308, R311). -/
def flaconOut (flacon : List Byte) : Option (List Byte) := inflate 65536 ((flacon.drop 384).take (fld flacon 12 4))

/-- What a decompression job makes of a stored flacon and the decoder's output (R311): none for CHECK_FAIL. -/
def restore (flacon : List Byte) (out : Option (List Byte)) : Option (List Byte) :=
  let f := fld flacon
  match out with
  | none => none
  | some raw =>
    if !flaconHead flacon then none
    else
      let data := if bit (f 5 1) 1 then unpart (partRows (f 6 1) (f 20 2) (f 22 2)) raw else raw
      if raw.length != 65536 || crc32 data != f 16 4 then none
      else some (slotImage (slice flacon 64 320) data)

/-- The end of a decompression job: its output goes to its retrieval job; none is a failure. -/
def State.restored (s : State) (seg off mb tag : Nat) (img : Option (List Byte)) : State :=
  let put (j : RetrJob) : RetrJob :=
    if j.who.mb == mb && j.who.tag == tag && j.decomp == some (seg, off) then { j with out := some img } else j
  s.modAtom fun a => { a with jobs := a.jobs.map put }

/-- DECOMPRESSION_DONE (R310, R311): the flacon is checked, decoded and restored. Past ORIG_LEN the job fails with NO_SPACE; a failed
check raises a HEALTH event. -/
def execDecompressionDone (t : Tick) (engine : Nat) (s : State) : Host.Outcome State Fault Refusal :=
  let s := s.advance t
  .next (match (s.eng engine).running with
    | some (.restore seg off mb tag) =>
      let s := s.engineDone engine
      match s.sill.flacons.find? (fun f => f.segment == seg && f.offset == off) with
      | none => s.restored seg off mb tag none
      | some f =>
        let r := s.masterRead mFlacon (s.flaconAddr seg off) f.len
        let s := r.1
        let data := flaconOut r.2
        if flaconHead r.2 && (match data with | some d => decide (65536 < d.length) | none => false) then
          (s.bump K.flacNoSpace).restored seg off mb tag none
        else match restore r.2 data with
          | some img => s.restored seg off mb tag (some img)
          | none => ((s.bump K.flacCrcFail).health 17 engine 0 1).restored seg off mb tag none
    | _ => s)

/-- On entry to VIGIL and at a reset every job ends uncommitted (R312). -/
def State.flaconStop (s : State) : State :=
  { s with engines := s.engines.map fun e =>
      { e with queue := [], running := none, splits := [], buffer := none, bufData := [], bufTile := none, runData := [],
               runTile := none } }

end Sys2Proof.Machine
end

