-- ==== Sys2Proof/Machine/Memc.lean ====
section
/-!
DEFINITION. The memory controller (chapter 15): the map of usable addresses (R347), ECC results and re-reads (R350, R351),
the scrubber (R353), ageing of requests (R356), panic (R357), refresh (R359, R360), DQS tracking (R346) and the fill (R363).
-/
namespace Sys2Proof.Machine

/-! The map of R347. -/

/-- Segment size in bytes. -/
def State.segBytes (s : State) : Nat := s.memc.fittedMib * PS.mib / 8

/-- Where a byte of physical memory lies. -/
structure PhysAddr where
  segment : Nat
  rank : Nat
  sc : Nat
  bank : Nat
  row : Nat
  column : Nat
  byte : Nat
  deriving DecidableEq, Repr

/-- Offset o of segment k, with two ranks or one. -/
def physOf (two : Bool) (k o : Nat) : PhysAddr :=
  let r := (if two then o / 2 ^ 17 else o / 2 ^ 16) % 2 ^ 14
  { segment := k, rank := if two then o / 2 ^ 16 % 2 else 0, sc := (o / 256 % 4) ^^^ (r % 4),
    bank := (o / 2 ^ 13 % 8) ^^^ (r % 8), row := k * 2 ^ 14 + r, column := o / 2 ^ 10 % 8 * 128 + o / 2 % 128, byte := o % 2 }

/-- The data byte at usable address u. -/
def State.phys (s : State) (u : Nat) : PhysAddr := physOf (s.memc.ranks == 2) (u / s.segBytes) (u % s.segBytes)

/-- The ECC byte of the word at u. -/
def State.physEcc (s : State) (u : Nat) : PhysAddr := physOf (s.memc.ranks == 2) 7 (u / 8)

/-- Sub-channel of the word at u. -/
def State.subChan (s : State) (u : Nat) : Nat := (s.phys u).sc

/-- The address exists (R347). -/
def State.usable (s : State) (a len : Nat) : Bool := a + len ≤ s.usableMib * PS.mib

/-- Class of a master's reads (R354): steward C3, tile mover and display C1, the others C2; the scrubber (7) C3. -/
def readClass (master : Nat) : Nat :=
  if master == 0 || master == 7 then 3 else if master == mTile || master == mDisplay then 1 else 2

/-! ECC (R350, R351). -/

/-- A corrected error (R350). Its write-back queues in C3. -/
def State.corrected (s : State) (a : Nat) : State :=
  let s := ((s.bump K.memcCeCount).perfEvent 0x0604 0xFF 0xFF 1).modMemc fun m =>
    { m with lastCe := a, ceHour := m.ceHour + 1, queue := m.queue ++ [{ cls := 3, since := s.now, addr := a / 8 * 8 }] }
  if s.p K.memcCeHealth < s.memc.ceHour && !s.memc.ceRaised then
    (s.modMemc fun m => { m with ceRaised := true }).health 14 (s.subChan a) 0 0
  else s

/-- Data reach their initiator. -/
def State.readDone (s : State) (data : List Byte) (fault : Bool) : State :=
  s.modMemc fun m => { m with readData := data, readFault := fault }

/-- The closed tile whose slot holds an address. -/
def State.tileAt (s : State) (a : Nat) : Option Tile :=
  s.sill.closed.find? (fun t => !t.dropped && s.slotAddr t.pos ≤ a && a < s.slotAddr t.pos + 66560)

/-- The decompression job whose flacon holds an address. -/
def State.restoreAt (s : State) (a : Nat) : Option (Nat × Nat × Nat × Nat × Nat) :=
  let hit (i : Nat) : Option (Nat × Nat × Nat × Nat × Nat) :=
    match (s.eng i).running with
    | some (.restore seg off mb tag) =>
      match s.sill.flacons.find? (fun f => f.segment == seg && f.offset == off) with
      | some f => if s.flaconAddr seg off ≤ a && a < s.flaconAddr seg off + f.len then some (i, seg, off, mb, tag) else none
      | none => none
    | _ => none
  match hit 0 with | some x => some x | none => hit 1

/-- The surface layers in force that hold an address, each with the line it is fetched for. -/
def State.layersAt (s : State) (a : Nat) : List (Nat × Nat) :=
  (List.range 6).filterMap fun n =>
    match (s.layer n).desc with
    | some d =>
      if n % 3 != 0 && s.fetched n && dAddr d ≤ a && a < dAddr d + surfaceLen d then
        some (n, dY d + (a - dAddr d) / max 1 (dStride d))
      else none
    | none => none

/-- A display fetch at an address has failed: its layers have underrun (R438). -/
def State.fetchFails (s : State) (a : Nat) : State := (s.layersAt a).foldl (fun s e => s.underrun e.1 e.2) s

/-- A read at a stays uncorrectable, the word at bad (R351): counted, reported, and its initiator answered. Master 7 is the
scrubber. -/
def State.uncorrectable (s : State) (master a bad : Nat) : State :=
  let s := (s.bump K.memcUeCount).modMemc fun m => { m with lastUe := bad }
  let report (s : State) (outcome : Nat) : State :=
    s.healthFull 15 (s.subChan bad) 0 1 bad (if master == 7 then 0xFF else master) outcome
  if master == 7 then report s 0
  else if master == mDisplay then (report s 0).fetchFails a
  else match (if master == mTile then s.tileAt a else none), (if master == mFlacon then s.restoreAt a else none) with
    | some t, _ => (report s 2).tileLost t 2
    | _, some (i, seg, off, mb, tag) =>
      ((((report s 2).engineDone i).bump K.flacCrcFail).health 17 i 0 1).restored seg off mb tag none
    | none, none => (report s 1).readDone [] true

/-- The first uncorrectable word of a read. -/
def badWord (a len : Nat) (errs : List WordErr) : Nat := ((wordsWith .uncorrectable a len errs).head?).getD a

/-- Every corrected word of a read (R350). -/
def State.correctedAll (s : State) (a len : Nat) (errs : List WordErr) : State :=
  (wordsWith .single a len errs).foldl State.corrected s

/-- What a read found, at its first completion. -/
def State.readResult (s : State) (master a len : Nat) (errs : List WordErr) : State :=
  match readFinds a len errs with
  | .clean => s.readDone (s.readData a len errs) false
  | .single => (s.readDone (s.readData a len errs) false).correctedAll a len errs
  | .uncorrectable =>
    if s.p K.memcRereadMax == 0 then s.uncorrectable master a (badWord a len errs)
    else s.modMemc fun m => { m with reread := m.reread ++ [(master, a, len, s.p K.memcRereadMax)] }

/-- Older requests of class C3 have issued before a younger one (R355). -/
def State.issueOlder (s : State) : State := s.modMemc fun m => { m with queue := [] }

/-- A read issues. -/
def State.issued (s : State) (master a : Nat) : State :=
  (if readClass master == 3 then s.issueOlder else s).perfEvent 0x0601 (readClass master) (s.subChan a) 1

/-- MEM_READ_COMPLETE (R350, R351, R69): a master's read is checked and delivered or corrected. The regions of R68 lie in usable
memory, so an address at or above MEMC.USABLE_MIB lies in none (R347). DEDUCED (log 5). -/
def execMemReadComplete (t : Tick) (master addr len : Nat) (errs : List WordErr) (s : State) :
    Host.Outcome State Fault Refusal :=
  let s := (s.advance t).woken [6]
  if !s.domainRuns 6 || 6 < master || len == 0 then .next s
  else if !s.usable addr len || !s.protOk master addr len false then
    let s := (s.protFault master addr).readDone (List.replicate len 0) true
    .next (if master == mDisplay then s.fetchFails addr else s)
  else .next ((s.issued master addr).readResult master addr len errs)

/-- The oldest re-read has given its data: it is delivered and counted as corrected (R351). -/
def State.rereadGood (s : State) (a len : Nat) (master : Nat) (errs : List WordErr) : State :=
  let s := if master == 7 then s else s.readDone (s.readData a len errs) false
  (s.corrected a).bump K.memcRereadOk

/-- MEM_REREAD (R351, R352): upperExpired says that the upper timer ran out in the same cycle; its action then stands and the
result is discarded and counted late. -/
def execMemReread (t : Tick) (errs : List WordErr) (upperExpired : Bool) (s : State) : Host.Outcome State Fault Refusal :=
  let s := s.advance t
  .next (match s.memc.reread with
    | [] => s
    | (master, a, len, left) :: rest =>
      let s := s.modMemc fun m => { m with reread := rest }
      if readFinds a len errs == .uncorrectable then
        if left ≤ 1 then s.uncorrectable master a (badWord a len errs)
        else s.modMemc fun m => { m with reread := (master, a, len, left - 1) :: m.reread }
      else if upperExpired then (s.bump K.memcLateCount).lateOnce
      else s.rereadGood a len master errs)

/-- SCRUB_READ (R353): the scrubber pauses in STANDBY, in VIGIL and until the fill has completed. -/
def execScrubRead (t : Tick) (errs : List WordErr) (s : State) : Host.Outcome State Fault Refusal :=
  let s := (s.advance t).woken [6]
  .next (if !s.domainRuns 6 || !s.memc.fillLeft.isEmpty || s.usableMib == 0 then s
    else
      let a := s.memc.scrubAt
      let s := (s.issued 7 a).modMemc fun m => { m with scrubAt := (a + 8) % (s.usableMib * PS.mib) }
      match readFinds a 8 errs with
      | .clean => s
      | .single => s.corrected a
      | .uncorrectable =>
        if s.p K.memcRereadMax == 0 then s.uncorrectable 7 a a
        else s.modMemc fun m => { m with reread := m.reread ++ [(7, a, 8, s.p K.memcRereadMax)] })

/-! Refresh (R359, R360). -/

/-- REFRESH: postponed while a C0 or panic request waits for the bank, at most 8 times; the ninth issues. One that issues with
nothing waiting takes the postponed ones with it (assumption 43). -/
def execRefresh (t : Tick) (sc rank bank : Nat) (waiting : Bool) (s : State) : Host.Outcome State Fault Refusal :=
  let s := s.advance t
  let k := (sc * 2 + rank) * 8 + bank
  let n := aget 0 s.memc.postponed k
  .next (if s.memc.power != 1 || 3 < sc || s.memc.ranks ≤ rank || 7 < bank then s
    else if waiting && n < 8 then
      s.modMemc fun m => { m with postponed := aset 0 m.postponed k (n + 1), postMax := max m.postMax (n + 1) }
    else if waiting then s
    else s.modMemc fun m => { m with postponed := aset 0 m.postponed k 0 })

/-- Factor code of an MR4 refresh rate: 0 ×4, 1 ×1, 2 ×0.5, 3 ×0.25. -/
def mr4Factor (code : Nat) : Nat := min code 3


/-- MR4_POLL (R359): every 16 ms; codes per rank, index SC × 2 + rank. The shortest interval any rank needs is the highest factor
code. -/
def execMr4Poll (t : Tick) (codes : List Nat) (s : State) : Host.Outcome State Fault Refusal :=
  let s := s.advance t
  .next (if s.memc.power != 1 || codes.isEmpty || !s.spaced s.memc.mr4At (msT 16) then s
    else
      let f := (codes.map mr4Factor).foldl max 0
      let s := s.modMemc fun m => { m with factor := f, mr4At := some s.now }
      (idxWhere (fun c => 4 ≤ c) codes).foldl (fun s i => s.health 16 (i / 2) 2 0xFF) s)

/-- DQS_TRACK (R346): every MEMC.TRACK_MS; the write delays follow the drift measured of every rank, index SC × 2 + rank; more than
8/64 UI since the training raises a HEALTH event, once until the drift has come back. -/
def execDqsTrack (t : Tick) (drift : List Int) (s : State) : Host.Outcome State Fault Refusal :=
  let s := s.advance t
  .next (if s.memc.power != 1 || s.clk.mode < 3 || !s.spaced s.memc.trackAt (msT (s.p K.memcTrackMs)) then s
    else
      let drifted := idxWhere (fun (d : Int) => decide (8 < d.natAbs)) drift
      let new := drifted.filter (fun i => !s.memc.driftRaised.contains i)
      let s := s.modMemc fun m => { m with drift := drift, driftRaised := drifted, trackAt := some s.now }
      new.foldl (fun s i => s.health 16 (i / 2) 1 0xFF) s)

/-- CE_HEALTH_HOUR (R350): an hour has passed since the last. -/
def execCeHealthHour (t : Tick) (s : State) : Host.Outcome State Fault Refusal :=
  let s := s.advance t
  .next (if !s.spaced s.memc.ceHourAt (secT 3600) then s
    else s.modMemc fun m =>
      { m with ceRaised := m.ceRaised && decide (s.p K.memcCeHealth < m.ceHour), ceHour := 0, ceHourAt := some s.now })

/-- The promotion of one waiting request (R356). -/
def State.promoteReq (s : State) (r : MemReq) : MemReq :=
  if r.cls == 3 && r.since + nsT (s.p K.memcAgeNsC3) ≤ s.now then { r with cls := 2, since := s.now }
  else if r.cls == 2 && r.since + nsT (s.p K.memcAgeNsC2) ≤ s.now then { r with cls := 1, since := s.now }
  else r

/-- AGE_PROMOTION (R356). -/
def execAgePromotion (t : Tick) (s : State) : Host.Outcome State Fault Refusal :=
  let s := s.advance t
  let n := (s.memc.queue.filter (fun r => s.promoteReq r != r)).length
  .next ((s.modMemc fun m => { m with queue := m.queue.map s.promoteReq }).count K.memcPromoted n)

/-! Panic (R357). -/

/-- The tile reader's condition: the oldest closed tile not yet read has waited too long. -/
def State.panicTileNow (s : State) : Bool :=
  match s.sill.closed.find? (fun t => !t.read && !t.dropped && !t.settled) with
  | some t => 256 * t.step * s.p K.memcPanicTilePct < (s.now - t.closedAt) * 100
  | none => false

/-- PANIC (R357): port 0 tile reader, 1 display, whose fetch buffer holds level percent; the port enters or leaves panic as
its condition stands. -/
def execPanic (t : Tick) (port level : Nat) (s : State) : Host.Outcome State Fault Refusal :=
  let s := s.advance t
  let tile := s.domainAllowed 6 && s.panicTileNow
  let disp := s.scans 0 && level < s.p K.memcPanicDispPct
  .next (if port == 0 then
      (s.count K.memcPanicCount (b2n (tile && !s.memc.panicTile))).modMemc fun m => { m with panicTile := tile }
    else if port == 1 then
      (s.count (K.memcPanicCount + 1) (b2n (disp && !s.memc.panicDisp))).modMemc fun m => { m with panicDisp := disp }
    else s)

/-! Self-refresh and the fill (R361 to R363). -/

/-- MEMC.PASR_MASK (R361): every segment from 1 to 6 with no usable byte below the end of the base-note region. -/
def State.pasrMask (s : State) : Nat :=
  let stop := (1024 + s.p K.sillBaseMib) * PS.mib
  ((List.range 7).filter (fun k => k != 0 && stop ≤ k * s.segBytes)).foldl (fun m k => m + 2 ^ k) 0

/-- MiB still to fill, [31:8] of MEMC.FILL_STATE. -/
def fillCount (xs : List (Nat × Nat)) : Nat := (xs.map (fun e => e.2 + 1 - e.1)).sum

def State.fillState (s : State) : Nat :=
  let n := fillCount s.memc.fillLeft
  b2n (n != 0) + 256 * n

/-- FILL (R363): the next usable MiB is filled with zeros and valid check bytes. What a MiB held is lost when its segment was
masked, so an unlisted byte reads 0 from then on. -/
def execFill (t : Tick) (s : State) : Host.Outcome State Fault Refusal :=
  let s := s.advance t
  .next (match s.memc.fillLeft with
    | [] => s
    | (lo, hi) :: rest =>
      if !s.domainRuns 6 then s
      else
        (s.issueOlder.dramZero (lo * PS.mib) PS.mib).modMemc fun m =>
          { m with fillLeft := if hi ≤ lo then rest else (lo + 1, hi) :: rest })

/-- The segments of PASR_MASK lose their contents at an entry to VIGIL, and the fill covers them on return (R361, R362). -/
def State.pasrLose (s : State) : State :=
  let ks := (List.range 7).filter (bit s.pasrMask)
  let seg := s.memc.fittedMib / 8
  let s := ks.foldl (fun s k => s.dramZero (k * s.segBytes) s.segBytes) s
  s.modMemc fun m => { m with fillLeft := ks.map (fun k => (k * seg, k * seg + seg - 1)), queue := [], power := 2 }

end Sys2Proof.Machine
end

