-- ==== Sys2Proof/Machine/SliceIsa.lean ====
section
/-!
DEFINITION. The instructions of a slice that stay within the slice (chapter 10): registers, accumulators, address
generators, data memory, branches and REP. A command names a slice and acts if the instruction at the slice's program
counter is its own.
-/
namespace Sys2Proof.Machine

/-! Fields of an instruction word (R239). -/

def wNat (w : Word) (hi lo : Nat) : Nat := w.toNat / 2 ^ lo % 2 ^ (hi + 1 - lo)
def wOp (w : Word) : Nat := wNat w 31 26
def wD (w : Word) : Nat := wNat w 25 22
def wA (w : Word) : Nat := wNat w 21 18
def wB (w : Word) : Nat := wNat w 17 14
def wImm18 (w : Word) : Word := BitVec.ofInt 32 (sext 18 (wNat w 17 0))
def wAg (w : Word) : Nat := wNat w 21 20
def wUpd (w : Word) : Bool := bit w.toNat 19
/-- Branch operands: a in [25:22], b in [21:18]. -/
def wBrA (w : Word) : Nat := wNat w 25 22
def wBrB (w : Word) : Nat := wNat w 21 18
def wSpr (w : Word) : Nat := wNat w 21 10

/-! Registers (R233). -/

/-- G0 reads 0. -/
def Slice.g (x : Slice) (r : Nat) : Word := if r = 0 then 0 else nth 0 x.regs r

/-- G0 ignores writes. -/
def Slice.setG (x : Slice) (r : Nat) (v : Word) : Slice :=
  if r = 0 then x else { x with regs := modAt (fun _ => v) ((List.range 16).map (nth 0 x.regs)) r }

def Slice.acc (x : Slice) (a : Nat) : Acc80 := nth 0 x.accs a
def Slice.setAcc (x : Slice) (a : Nat) (v : Acc80) : Slice :=
  { x with accs := modAt (fun _ => v) ((List.range 4).map (nth 0 x.accs)) a }

def Slice.ag (x : Slice) (n : Nat) : Agen := nth {} x.ags n
def Slice.setAg (x : Slice) (n : Nat) (f : Agen → Agen) : Slice :=
  { x with ags := modAt f ((List.range 4).map (nth {} x.ags)) n }

/-! Address generators (R235). -/

/-- The low k bits of n in reverse order. -/
def revBits : Nat → Nat → Nat
  | 0, _ => 0
  | k + 1, n => n % 2 * 2 ^ k + revBits k (n / 2)

/-- The address an access takes, modulo 2^32. -/
def Agen.addr (a : Agen) : Nat :=
  if a.mode ≠ 0 ∧ a.len = 0 then a.base
  else if a.mode = 2 then
    let k := Nat.log2 (a.len / 4)
    a.base + 4 * revBits k (a.idx.toNat / 4)
  else (BitVec.ofNat 32 a.base + a.idx).toNat

/-- After an access with the update bit set. -/
def Agen.step' (a : Agen) : Agen :=
  if a.mode = 0 then { a with idx := a.idx + a.step }
  else if a.len = 0 then a
  else { a with idx := BitVec.ofInt 32 ((a.idx.toInt + a.step.toInt) % (a.len : Int)) }

/-- Data memory is 160 KiB. -/
def dmemTop : Nat := 0x28000

/-- What an instruction gives: the slice after it, or the cause of a slice fault (R252). -/
abbrev SliceRes := Except Nat Slice

/-- An operand takes its address from generator n, then updates it; above 0x2_7FFF is a fault ADDRESS. -/
def Slice.operand (x : Slice) (n : Nat) (upd : Bool) (k : Slice → Nat → SliceRes) : SliceRes :=
  let a := (x.ag n).addr
  if dmemTop ≤ a then .error 1
  else k (if upd then x.setAg n Agen.step' else x) a

/-- The word at an address, its bits [1:0] taken as 0. -/
def Slice.word (x : Slice) (a : Nat) : Word := BitVec.ofNat 32 (leNat (Memory.readBytes x.dmem (a / 4 * 4) 4))
def Slice.setWord (x : Slice) (a : Nat) (v : Word) : Slice :=
  { x with dmem := Memory.writeBytes x.dmem (a / 4 * 4) (leBytes 4 v.toNat) }
def Slice.half (x : Slice) (a : Nat) : Nat := leNat (Memory.readBytes x.dmem (a / 2 * 2) 2)
def Slice.setHalf (x : Slice) (a v : Nat) : Slice :=
  { x with dmem := Memory.writeBytes x.dmem (a / 2 * 2) (leBytes 2 v) }

/-! Instructions that a REP may repeat. free feeds the values the manual leaves open. -/

/-- Gd = f Ga Gb. -/
def opReg (f : Word → Word → Word) (w : Word) (x : Slice) : SliceRes :=
  .ok (x.setG (wD w) (f (x.g (wA w)) (x.g (wB w))))

def aluShl (a b : Word) : Word := a <<< (b.toNat % 32)
def aluShr (a b : Word) : Word := a >>> (b.toNat % 32)
def aluSra (a b : Word) : Word := BitVec.sshiftRight a (b.toNat % 32)
def aluSlt (a b : Word) : Word := if a.toInt < b.toInt then 1 else 0

def opAddi (w : Word) (x : Slice) : SliceRes := .ok (x.setG (wD w) (x.g (wA w) + wImm18 w))
def opLui (w : Word) (x : Slice) : SliceRes := .ok (x.setG (wD w) (BitVec.ofNat 32 (wNat w 17 0 * 2 ^ 14)))

def opLd (w : Word) (x : Slice) : SliceRes :=
  x.operand (wAg w) (wUpd w) fun x a => .ok (x.setG (wD w) (x.word a))
def opLdh (w : Word) (x : Slice) : SliceRes :=
  x.operand (wAg w) (wUpd w) fun x a => .ok (x.setG (wD w) (BitVec.ofInt 32 (sext 16 (x.half a))))
def opSt (w : Word) (x : Slice) : SliceRes :=
  let v := x.g (wD w)
  x.operand (wAg w) (wUpd w) fun x a => .ok (x.setWord a v)
def opSth (w : Word) (x : Slice) : SliceRes :=
  let v := (x.g (wD w)).toNat % 65536
  x.operand (wAg w) (wUpd w) fun x a => .ok (x.setHalf a v)

/-- Lanes and the wide value of an accumulator (R236). -/
def accL (v : Acc80) : Int := sext 40 v.toNat
def accH (v : Acc80) : Int := sext 40 (v.toNat / 2 ^ 40)
def accW (v : Acc80) : Int := sext 56 v.toNat
def mkNarrow (h l : Int) : Acc80 := BitVec.ofNat 80 (uns 40 h * 2 ^ 40 + uns 40 l)
def mkWide (v : Int) : Acc80 := BitVec.ofInt 80 v

/-- The multiply-accumulates: f answers the new accumulator and whether a lane saturated. clr: CLR acts (R237). -/
def opMac (f : Acc80 → Word → Word → Bool → Acc80 × Bool) (clr : Bool) (w : Word) (x : Slice) : SliceRes :=
  let a := wNat w 25 24
  x.operand (wNat w 23 22) (bit w.toNat 21) fun y ax =>
    let vx := x.word ax
    y.operand (wNat w 20 19) (bit w.toNat 18) fun z ay =>
      let vy := x.word ay
      let old := if clr && bit w.toNat 16 then 0 else x.acc a
      let r := f old vx vy (bit w.toNat 17)
      .ok { z.setAcc a r.1 with sat := z.sat || r.2 }

def signed (neg : Bool) (v : Int) : Int := if neg then -v else v

/-- MACN: x[15:0] × y[15:0] to L, x[31:16] × y[31:16] to H. -/
def macNarrow (old : Acc80) (vx vy : Word) (neg : Bool) : Acc80 × Bool :=
  let l := accL old + signed neg (sext 16 vx.toNat * sext 16 vy.toNat)
  let h := accH old + signed neg (sext 16 (vx.toNat / 65536) * sext 16 (vy.toNat / 65536))
  (mkNarrow (satI 40 h) (satI 40 l), h != satI 40 h || l != satI 40 l)

/-- MACW: x[23:0] × y[23:0] to the wide value. -/
def macWide (old : Acc80) (vx vy : Word) (neg : Bool) : Acc80 × Bool :=
  let v := accW old + signed neg (sext 24 vx.toNat * sext 24 vy.toNat)
  (mkWide (satI 56 v), v != satI 56 v)

/-- ACCST (R238). -/
def opAccst (w : Word) (x : Slice) : SliceRes :=
  let v := x.acc (wNat w 25 24)
  let sh := wNat w 20 15
  x.operand (wNat w 23 22) (bit w.toNat 21) fun x a =>
    if bit w.toNat 14 then
      let l := rdivAway (accL v) (2 ^ sh)
      let h := rdivAway (accH v) (2 ^ sh)
      .ok { x.setWord a (BitVec.ofNat 32 (uns 16 (satI 16 h) * 65536 + uns 16 (satI 16 l))) with
            sat := x.sat || h != satI 16 h || l != satI 16 l }
    else
      let r := rdivAway (accW v) (2 ^ sh)
      .ok { x.setWord a (BitVec.ofInt 32 (satI 32 r)) with sat := x.sat || r != satI 32 r }

/-- ACCX: part 0, 1 or 2 unchanged; what part 3 writes is a FREE VALUE. -/
def opAccx (free : Nat) (w : Word) (x : Slice) : SliceRes :=
  let v := (x.acc (wNat w 25 24)).toNat
  let out : Word := match wNat w 13 12 with
    | 0 => BitVec.ofNat 32 v
    | 1 => BitVec.ofNat 32 (v / 2 ^ 32)
    | 2 => BitVec.ofInt 32 (sext 16 (v / 2 ^ 64))
    | _ => BitVec.ofNat 32 (Config.free free)
  x.operand (wNat w 23 22) (bit w.toNat 21) fun x a => .ok (x.setWord a out)

/-- ACCI: part 0, 1 or 2 from memory; what part 3 leaves in the accumulator is a FREE VALUE. -/
def opAcci (free : Nat) (w : Word) (x : Slice) : SliceRes :=
  let i := wNat w 25 24
  x.operand (wNat w 23 22) (bit w.toNat 21) fun y a =>
    let m := (x.word a).toNat
    let v := (x.acc i).toNat
    let out : Nat := match wNat w 13 12 with
      | 0 => v / 2 ^ 32 * 2 ^ 32 + m
      | 1 => v / 2 ^ 64 * 2 ^ 64 + m * 2 ^ 32 + v % 2 ^ 32
      | 2 => m % 65536 * 2 ^ 64 + v % 2 ^ 64
      | _ => Config.free free
    .ok (y.setAcc i (BitVec.ofNat 80 out))

/-- The effect of an instruction that a REP may repeat (R239), none for any other. first: CLR acts. -/
def sliceBody (free : Nat) (first : Bool) (w : Word) (x : Slice) : Option SliceRes :=
  match wOp w with
  | 0x00 => some (.ok x)
  | 0x01 => some (opReg (· + ·) w x)
  | 0x02 => some (opReg (· - ·) w x)
  | 0x03 => some (opReg (· &&& ·) w x)
  | 0x04 => some (opReg (· ||| ·) w x)
  | 0x05 => some (opReg (· ^^^ ·) w x)
  | 0x06 => some (opReg aluShl w x)
  | 0x07 => some (opReg aluShr w x)
  | 0x08 => some (opReg aluSra w x)
  | 0x0A => some (opAddi w x)
  | 0x0B => some (opLui w x)
  | 0x0C => some (opReg aluSlt w x)
  | 0x10 => some (opLd w x)
  | 0x11 => some (opLdh w x)
  | 0x12 => some (opSt w x)
  | 0x13 => some (opSth w x)
  | 0x18 => some (opMac macNarrow first w x)
  | 0x19 => some (opMac macWide first w x)
  | 0x1C => some (opAccst w x)
  | 0x1E => some (opAccx free w x)
  | 0x1F => some (opAcci free w x)
  | _ => none

/-- n repetitions (R241). -/
def sliceRep (free : Nat) (w : Word) : Nat → Bool → Slice → SliceRes
  | 0, _, x => .ok x
  | n + 1, first, x =>
    match sliceBody (free + n) first w x with
    | some (.ok y) => sliceRep free w n false y
    | some (.error c) => .error c
    | none => .error 3

/-! Issue. -/

/-- Registers and accumulators an instruction reads, as hazards. -/
def reads (w : Word) : List Nat :=
  match wOp w with
  | 0x01 | 0x02 | 0x03 | 0x04 | 0x05 | 0x06 | 0x07 | 0x08 | 0x09 | 0x0C => [wA w, wB w]
  | 0x0A | 0x39 => [wA w]
  | 0x12 | 0x13 | 0x31 => [wD w]
  | 0x18 | 0x19 => if bit w.toNat 16 then [] else [16 + wNat w 25 24]
  | 0x1C | 0x1E => [16 + wNat w 25 24]
  | 0x1F => [16 + wNat w 25 24]
  | 0x20 | 0x21 | 0x22 | 0x23 => [wBrA w, wBrB w]
  | 0x26 => [15]
  | 0x28 => if wD w = 0 then [] else [wD w]
  | _ => []

/-- What an instruction leaves that costs the next one a stall if it reads it (R239). -/
def leaves (w : Word) : Option Nat :=
  match wOp w with
  | 0x10 | 0x11 => if wD w = 0 then none else some (wD w)
  | 0x18 | 0x19 => some (16 + wNat w 25 24)
  | _ => none


/-- The instruction word at the slice's program counter, if the slice runs. -/
def State.sliceWord (s : State) (i : Nat) : Option Word :=
  let x := s.slc i
  if x.status == 2 && i < 128 && s.domainRuns 5 then
    match x.image with
    | some im => im.code[x.pc]?
    | none => none
  else none

/-- Words of the code. -/
def Slice.codeLen (x : Slice) : Nat :=
  match x.image with
  | some im => im.code.length
  | none => 0

/-- The slice goes on at pc; a pc outside the code is a fault CODE (R252). -/
def State.sliceGoto (s : State) (i : Nat) (pc : Int) : State :=
  if 0 ≤ pc && pc < ((s.slc i).codeLen : Int) then s.modSlc i fun x => { x with pc := pc.toNat, waiting := false }
  else s.sliceFault i 3

/-- The instruction needs slot B of a cycle (R234): a write, or two reads. -/
def needsB (w : Word) : Bool := [0x12, 0x13, 0x18, 0x19, 0x1C, 0x1E].contains (wOp w)

/-- A DMA transfer of slice i waits for a slot (R234): a column of a tile that has been read and has a free position, an output's data,
or the packet of a home slice that it follows. -/
def State.dmaWaits (s : State) (i : Nat) : Bool :=
  let x := s.slc i
  let free := match x.image with
    | some im => decide ((x.tiles.map (fun t => t.colsIn - t.freed)).sum < im.inCols)
    | none => false
  !x.outQ.isEmpty || (free && x.tiles.any (fun t => t.ready && t.colsIn < t.cols)) ||
    (match s.follows i with
     | some h => (s.slc h).outQ.any (fun d => fld d.bytes 6 1 != 2)
     | none => false)

/-- Cycles of an instruction that ends: its own and the interlock stall (R239). A DMA transfer uses slot B of every cycle that leaves
it free; one that has waited 16 cycles takes that of an instruction outside a REP, which stalls for a cycle, and the stall is counted
(R234). -/
def State.sliceCycles (s : State) (i : Nat) (w : Word) (n : Nat) : State :=
  let x := s.slc i
  let stall := match x.hazard with
    | some h => b2n ((reads w).contains h)
    | none => 0
  let waits := s.dmaWaits i
  let rep := wOp w == 0x28
  let dma := waits && !rep && needsB w && 16 ≤ x.dmaWait
  -- the interlock's cycle, and those of an instruction that needs no slot B, serve the transfer
  let wait := if !waits then 0
    else if rep then x.dmaWait + n
    else if needsB w then (if dma then 1 else if stall != 0 then 1 else x.dmaWait + 1)
    else 0
  let s := s.modSlc i fun x => { x with cycles := x.cycles + n + stall + b2n dma, hazard := leaves w, dmaWait := wait }
  if dma then s.perfEvent 0x0501 i 0xFF 1 else s

/-- Issue the instruction of opcode op at slice i: body gives the state and the index of the next instruction. -/
def State.issue (s : State) (i op : Nat) (body : State → Word → State) : State :=
  match s.sliceWord i with
  | some w => if wOp w == op then body s w else s
  | none => s

/-- An instruction that falls through: its result, n cycles. -/
def State.through (s : State) (i : Nat) (w : Word) (n : Nat) (r : SliceRes) : State :=
  match r with
  | .ok y => ((s.modSlc i fun _ => y).sliceCycles i w n).sliceGoto i ((y.pc : Int) + 1)
  | .error c => s.sliceFault i c

/-- One of the plain instructions. -/
def State.plain (s : State) (t : Tick) (i op n : Nat) (f : Word → Slice → SliceRes) : State :=
  (s.advance t).issue i op fun s w => s.through i w n (f w (s.slc i))

/-- A branch (R239). -/
def State.branch (s : State) (t : Tick) (i op : Nat) (taken : Word → Word → Bool) : State :=
  (s.advance t).issue i op fun s w =>
    let x := s.slc i
    let hit := taken (x.g (wBrA w)) (x.g (wBrB w))
    (s.sliceCycles i w (if hit then 3 else 1)).sliceGoto i
      ((x.pc : Int) + 1 + (if hit then sext 18 (wNat w 17 0) else 0))

/-! Meanings. -/

def execNop (t : Tick) (sl : Nat) (s : State) : Host.Outcome State Fault Refusal :=
  .next (s.plain t sl 0x00 1 fun _ x => .ok x)
def execAdd (t : Tick) (sl : Nat) (s : State) : Host.Outcome State Fault Refusal :=
  .next (s.plain t sl 0x01 1 (opReg (· + ·)))
def execSub (t : Tick) (sl : Nat) (s : State) : Host.Outcome State Fault Refusal :=
  .next (s.plain t sl 0x02 1 (opReg (· - ·)))
def execAnd (t : Tick) (sl : Nat) (s : State) : Host.Outcome State Fault Refusal :=
  .next (s.plain t sl 0x03 1 (opReg (· &&& ·)))
def execOr (t : Tick) (sl : Nat) (s : State) : Host.Outcome State Fault Refusal :=
  .next (s.plain t sl 0x04 1 (opReg (· ||| ·)))
def execXor (t : Tick) (sl : Nat) (s : State) : Host.Outcome State Fault Refusal :=
  .next (s.plain t sl 0x05 1 (opReg (· ^^^ ·)))
def execShl (t : Tick) (sl : Nat) (s : State) : Host.Outcome State Fault Refusal := .next (s.plain t sl 0x06 1 (opReg aluShl))
def execShr (t : Tick) (sl : Nat) (s : State) : Host.Outcome State Fault Refusal := .next (s.plain t sl 0x07 1 (opReg aluShr))
def execSra (t : Tick) (sl : Nat) (s : State) : Host.Outcome State Fault Refusal := .next (s.plain t sl 0x08 1 (opReg aluSra))
def execMul (t : Tick) (sl : Nat) (s : State) : Host.Outcome State Fault Refusal :=
  .next (s.plain t sl 0x09 2 (opReg (· * ·)))
def execAddi (t : Tick) (sl : Nat) (s : State) : Host.Outcome State Fault Refusal := .next (s.plain t sl 0x0A 1 opAddi)
def execLui (t : Tick) (sl : Nat) (s : State) : Host.Outcome State Fault Refusal := .next (s.plain t sl 0x0B 1 opLui)
def execSlt (t : Tick) (sl : Nat) (s : State) : Host.Outcome State Fault Refusal := .next (s.plain t sl 0x0C 1 (opReg aluSlt))
def execLd (t : Tick) (sl : Nat) (s : State) : Host.Outcome State Fault Refusal := .next (s.plain t sl 0x10 1 opLd)
def execLdh (t : Tick) (sl : Nat) (s : State) : Host.Outcome State Fault Refusal := .next (s.plain t sl 0x11 1 opLdh)
def execSt (t : Tick) (sl : Nat) (s : State) : Host.Outcome State Fault Refusal := .next (s.plain t sl 0x12 1 opSt)
def execSth (t : Tick) (sl : Nat) (s : State) : Host.Outcome State Fault Refusal := .next (s.plain t sl 0x13 1 opSth)
def execMacn (t : Tick) (sl : Nat) (s : State) : Host.Outcome State Fault Refusal :=
  .next (s.plain t sl 0x18 1 (opMac macNarrow true))
def execMacw (t : Tick) (sl : Nat) (s : State) : Host.Outcome State Fault Refusal :=
  .next (s.plain t sl 0x19 1 (opMac macWide true))
def execAccst (t : Tick) (sl : Nat) (s : State) : Host.Outcome State Fault Refusal := .next (s.plain t sl 0x1C 1 opAccst)
def execAccx (t : Tick) (sl : Nat) (s : State) : Host.Outcome State Fault Refusal :=
  .next ((s.advance t).issue sl 0x1E fun s w => s.tookFree.through sl w 1 (opAccx s.fresh w (s.slc sl)))
def execAcci (t : Tick) (sl : Nat) (s : State) : Host.Outcome State Fault Refusal :=
  .next ((s.advance t).issue sl 0x1F fun s w => s.tookFree.through sl w 1 (opAcci s.fresh w (s.slc sl)))

def execBeq (t : Tick) (sl : Nat) (s : State) : Host.Outcome State Fault Refusal :=
  .next (s.branch t sl 0x20 fun a b => a == b)
def execBne (t : Tick) (sl : Nat) (s : State) : Host.Outcome State Fault Refusal :=
  .next (s.branch t sl 0x21 fun a b => a != b)
def execBlt (t : Tick) (sl : Nat) (s : State) : Host.Outcome State Fault Refusal :=
  .next (s.branch t sl 0x22 fun a b => decide (a.toInt < b.toInt))
def execBge (t : Tick) (sl : Nat) (s : State) : Host.Outcome State Fault Refusal :=
  .next (s.branch t sl 0x23 fun a b => decide (b.toInt ≤ a.toInt))
def execJmp (t : Tick) (sl : Nat) (s : State) : Host.Outcome State Fault Refusal :=
  .next (s.branch t sl 0x24 fun _ _ => true)

/-- CALL: G15 = next index; jump. -/
def execCall (t : Tick) (sl : Nat) (s : State) : Host.Outcome State Fault Refusal :=
  .next ((s.advance t).issue sl 0x25 fun s w =>
    let x := s.slc sl
    ((s.modSlc sl fun x => x.setG 15 (BitVec.ofNat 32 (x.pc + 1))).sliceCycles sl w 3).sliceGoto sl
      ((x.pc : Int) + 1 + sext 18 (wNat w 17 0)))

/-- RET: jump to G15. -/
def execRet (t : Tick) (sl : Nat) (s : State) : Host.Outcome State Fault Refusal :=
  .next ((s.advance t).issue sl 0x26 fun s w =>
    (s.sliceCycles sl w 3).sliceGoto sl (((s.slc sl).g 15).toNat : Int))

/-- REP (R241): the next instruction n times, then on behind it. -/
def execRep (t : Tick) (sl : Nat) (s : State) : Host.Outcome State Fault Refusal :=
  .next ((s.advance t).issue sl 0x28 fun s w =>
    let x := s.slc sl
    let n := if wD w = 0 then wNat w 15 0 else (x.g (wD w)).toNat % 65536
    match x.image.bind (fun im => im.code[x.pc + 1]?) with
    | none => s.sliceFault sl 3
    | some b =>
      match sliceRep s.fresh b n true x with
      | .error c => s.sliceFault sl c
      | .ok y =>
        let s := { s with fresh := s.fresh + n }
        let s := (s.modSlc sl fun _ => y).sliceCycles sl w (1 + n)
        let s := s.modSlc sl fun z => { z with hazard := if n == 0 then none else leaves b }
        (s.perfEvent 0x0503 sl 0xFF n).sliceGoto sl ((x.pc : Int) + 2))

end Sys2Proof.Machine
end

