-- ==== Sys2Proof/Machine/SliceIo.lean ====
section
/-!
DEFINITION. What joins a slice to the rest of the array (chapter 10): special registers, tiles, outputs, followers,
CLASS events, and loading and starting.
-/
namespace Sys2Proof.Machine

/-! Tiles of a slice (R242, R243). -/

/-- Ring positions of an image's input ring; the supplied images' figures are not in the manual. -/
def Slice.inCols (x : Slice) : Nat :=
  match x.image with
  | some im => im.inCols
  | none => 0

/-- Positions that hold a column not yet freed. -/
def Slice.held (x : Slice) : Nat := (x.tiles.map (fun t => t.colsIn - t.freed)).sum

/-- TILE_STATUS of the oldest tile (R240, R243). -/
def Slice.tileStatus (x : Slice) : Nat :=
  match x.tiles with
  | [] => 0
  | t :: _ =>
    if t.ready then 1 + 2 * b2n t.reset + 4 * t.hdrSlot + 256 * (t.setIdx % 256) + 65536 * (t.colsIn % 65536) else 0

/-- Change tile k of a slice. -/
def State.modTileAt (s : State) (i k : Nat) (f : SliceTile → SliceTile) : State :=
  s.modSlc i fun x => { x with tiles := modAt f x.tiles k }

/-- Column c of a tile's data, 256 words. -/
def columnOf (data : List Byte) (c : Nat) : List Byte := (List.range 256).flatMap fun r => slice data (256 * r + 4 * c) 4

/-- Write up to n columns of tile k while positions are free, as the one read of the tile delivers them (R216, R242). -/
def State.dmaColumns (s : State) (i k : Nat) : Nat → State
  | 0 => s
  | n + 1 =>
    let x := s.slc i
    match x.tiles[k]?, x.image with
    | some t, some im =>
      if t.colsIn < t.cols && (im.supplied || x.held < im.inCols) then
        let s := if im.supplied then s
          else
            let data := columnOf (match t.read with | some r => r.2 | none => []) t.colsIn
            s.modSlc i fun x =>
              { x with dmem := Memory.writeBytes x.dmem (im.inBase + 1024 * x.inNext) data,
                       inNext := (x.inNext + 1) % im.inCols }
        (s.modTileAt i k fun t => { t with colsIn := t.colsIn + 1 }).dmaColumns i k n
      else s
    | _, _ => s

/-- TILE_DMA (R242): the tile DMA serves the oldest tile of a slice that is not whole: its header into the free slot, then its
columns into freed positions. -/
def execTileDma (t : Tick) (sl : Nat) (s : State) : Host.Outcome State Fault Refusal :=
  let s := (s.advance t).woken [5, 6]
  .next (
    let x := s.slc sl
    match (idxWhere (fun y => !y.ready || y.colsIn < y.cols) x.tiles).head?, x.image with
    | some k, some im =>
      if x.status != 2 then s
      else match x.tiles[k]? with
        | none => s
        | some y =>
          let used := (x.tiles.filter (·.ready)).map (·.hdrSlot)
          let slot := if used.contains 0 then 1 else 0
          if y.ready then s.dmaColumns sl k 64
          else match y.read with
            | none => s
            | some r =>
              if 2 ≤ used.length then s
              else
                let s := if im.supplied then s
                  else s.modSlc sl fun x => { x with dmem := Memory.writeBytes x.dmem (im.hdrBase + 1024 * slot) r.1 }
                let s := s.modTileAt sl k fun y =>
                  { y with ready := true, hdrSlot := slot, inPos := (s.slc sl).inNext,
                           startCycle := if k == 0 then (s.slc sl).cycles else y.startCycle,
                           startAt := if k == 0 then s.now else y.startAt }
                s.dmaColumns sl k 64
    | _, _ => s)

/-- Free n ring positions, oldest first (R240). -/
def freeCols : Nat → List SliceTile → List SliceTile
  | _, [] => []
  | n, t :: ts =>
    let k := min n (t.colsIn - t.freed)
    { t with freed := t.freed + k } :: freeCols (n - k) ts

/-- A tile is complete for the scheduler (R220, R243). Its cycles are those of the slice; a supplied program, whose instructions are not
in the manual, takes those of the time since it could begin the tile. -/
def State.tileComplete (s : State) (i : Nat) : State :=
  match (s.slc i).tiles with
  | [] => s
  | y :: rest =>
    let x := s.slc i
    let cyc := if x.supplied then (s.now - y.startAt) * 1200000000 / secT 1 else x.cycles - y.startCycle
    let s := s.modSlc i fun x =>
      { x with tiles := modAt (fun t => { t with startCycle := x.cycles, startAt := s.now }) rest 0,
               tileCycles := (cyc :: x.tileCycles).take 16 }
    let s := s.perfEvent 0x0502 i 0xFF 1
    let s := match x.image with
      | some im =>
        if im.supplied && im.kind == 0 then s.bandTile i y
        else if im.supplied && im.kind == 1 then s.shiftTile i y
        else s
      | none => s
    if y.deadline < s.now then (s.bump K.chanLateTiles).lateCount i else s.onTime i

/-! Special registers (R240). -/

/-- The performance counter's 48 bits that a slice may read (R254). -/
def State.perfFor (s : State) (sel : Nat) : Nat := if s.prot.perfSlice then (nth {} s.clk.perf sel).val % 2 ^ 48 else 0

/-- MFS of a register without an effect of its own. -/
def Slice.spr (x : Slice) (i n : Nat) : Word :=
  if n == 0x000 then BitVec.ofNat 32 i
  else if n == 0x001 then BitVec.ofNat 32 (b2n x.sat + 2 * b2n x.outDrop + 4 * b2n x.evtDrop)
  else if n == 0x003 then x.cycleHi
  else if 0x010 ≤ n && n ≤ 0x01F then
    let a := x.ag ((n - 0x010) / 4)
    match n % 4 with
    | 0 => BitVec.ofNat 32 a.base
    | 1 => a.idx
    | 2 => a.step
    | _ => BitVec.ofNat 32 (a.len + a.mode * 2 ^ 28)
  else if n == 0x020 then BitVec.ofNat 32 x.tileStatus
  else if n == 0x021 then BitVec.ofNat 32 (match x.tiles with | t :: _ => if t.ready then t.inPos else 0 | [] => 0)
  else if n == 0x025 then BitVec.ofNat 32 (16 - x.outQ.length)
  else if n == 0x027 then BitVec.ofNat 32 (16 - x.evtQ.length)
  else if n == 0x028 then x.finHead
  else if n == 0x029 then x.finTail
  else if n == 0x030 then BitVec.ofNat 32 x.perfSel
  else if n == 0x032 then BitVec.ofNat 32 (x.perfLatch / 2 ^ 32)
  else 0

/-- Modes of R235 that a write of AGn_LEN sets; for the undefined value 3 a FREE VALUE among the three. -/
def agMode (len mode free : Nat) : Nat :=
  let m := if mode == 3 then Config.free free % 3 else mode
  if m == 2 && !(8 ≤ len && len ≤ 131072 && len == 2 ^ Nat.log2 len) then 1 else m

/-- MTS to a register without an effect of its own. -/
def Slice.setSpr (x : Slice) (n free : Nat) (v : Word) : Slice :=
  if n == 0x001 then
    { x with sat := x.sat && !bit v.toNat 0, outDrop := x.outDrop && !bit v.toNat 1, evtDrop := x.evtDrop && !bit v.toNat 2 }
  else if 0x010 ≤ n && n ≤ 0x01F then
    x.setAg ((n - 0x010) / 4) fun a =>
      match n % 4 with
      | 0 => { a with base := v.toNat % 2 ^ 18 }
      | 1 => { a with idx := v }
      | 2 => { a with step := v }
      | _ => { a with len := v.toNat % 2 ^ 18, mode := agMode (v.toNat % 2 ^ 18) (wNat v 29 28) free }
  else if n == 0x029 then { x with finTail := v }
  else if n == 0x030 then { x with perfSel := v.toNat % 64 }
  else x

/-- A register with a command of its own. -/
def ownRead (n : Nat) : Bool := n == 0x002 || n == 0x031
def ownWrite (n : Nat) : Bool := n == 0x022 || n == 0x023 || n == 0x024 || n == 0x026

/-- Move from or to register n: body acts, and the slice goes on. -/
def State.special (s : State) (t : Tick) (i op : Nat) (sel : Nat → Bool) (body : State → Word → State) : State :=
  (s.advance t).issue i op fun s w =>
    if !sel (wSpr w) then s
    else
      let s := body s w
      if (s.slc i).status != 2 then s
      else (s.sliceCycles i w 1).sliceGoto i (((s.slc i).pc : Int) + 1)

/-- MFS: Gg = special register; an undefined or write-only number reads 0. -/
def execMfs (t : Tick) (sl : Nat) (s : State) : Host.Outcome State Fault Refusal :=
  .next (s.special t sl 0x30 (fun n => !ownRead n) fun s w => s.modSlc sl fun x => x.setG (wD w) (x.spr sl (wSpr w)))

/-- CYCLE_LO (R240): the read latches CYCLE_HI. -/
def execCycleLo (t : Tick) (sl : Nat) (s : State) : Host.Outcome State Fault Refusal :=
  .next (s.special t sl 0x30 (· == 0x002) fun s w => s.modSlc sl fun x =>
    { x.setG (wD w) (BitVec.ofNat 32 x.cycles) with cycleHi := BitVec.ofNat 32 (x.cycles / 2 ^ 32) })

/-- PERF_LO (R254): the read latches the whole count. -/
def execPerfLo (t : Tick) (sl : Nat) (s : State) : Host.Outcome State Fault Refusal :=
  .next (s.special t sl 0x30 (· == 0x031) fun s w =>
    let v := s.perfFor (s.slc sl).perfSel
    s.modSlc sl fun x => { x.setG (wD w) (BitVec.ofNat 32 v) with perfLatch := v })

/-- MTS: an undefined or read-only number is ignored. -/
def execMts (t : Tick) (sl : Nat) (s : State) : Host.Outcome State Fault Refusal :=
  .next (s.special t sl 0x31 (fun n => !ownWrite n) fun s w =>
    s.tookFree.modSlc sl fun x => x.setSpr (wSpr w) s.fresh (x.g (wD w)))

/-- COL_FREE: frees this many ring positions, oldest first. -/
def execColFree (t : Tick) (sl : Nat) (s : State) : Host.Outcome State Fault Refusal :=
  .next (s.special t sl 0x31 (· == 0x022) fun s w => s.modSlc sl fun x =>
    { x with tiles := freeCols ((x.g (wD w)).toNat % 128) x.tiles })

/-- TILE_DONE (R243): ends the oldest tile; while READY is 0 it is ignored. A slice of a supplied image ends its tile by this
command without an instruction of the manual. -/
def execTileDone (t : Tick) (sl : Nat) (s : State) : Host.Outcome State Fault Refusal :=
  .next (
    if (s.slc sl).supplied then
      let s := s.advance t
      if ((s.slc sl).status == 2 && bit (s.slc sl).tileStatus 0 && s.domainRuns 5) then s.tileComplete sl else s
    else s.special t sl 0x31 (· == 0x023) fun s w =>
      let x := s.slc sl
      if bit (x.g (wD w)).toNat 0 && bit x.tileStatus 0 then s.tileComplete sl else s)

/-- OUT_PUSH (R244). -/
def execOutPush (t : Tick) (sl : Nat) (s : State) : Host.Outcome State Fault Refusal :=
  .next (s.special t sl 0x31 (· == 0x024) fun s w =>
    let x := s.slc sl
    let a := (x.g (wD w)).toNat % 2 ^ 18
    if dmemTop < a + 16 then s.sliceFault sl 1
    else
      let d := Memory.readBytes x.dmem a 16
      if 16 ≤ x.outQ.length || 3 < fld d 6 1 then
        (s.modSlc sl fun x => { x with outDrop := true }).bump K.sliceOutDropped
      else
        let w : OutDesc := { bytes := d, tile := (x.tiles.head?).map (·.tile), reset := (x.tiles.head?.map (·.reset)).getD false }
        s.modSlc sl fun x => { x with outQ := x.outQ ++ [w] })

/-- EVT (R253). -/
def execEvt (t : Tick) (sl : Nat) (s : State) : Host.Outcome State Fault Refusal :=
  .next (s.special t sl 0x31 (· == 0x026) fun s w =>
    let x := s.slc sl
    let a := (x.g (wD w)).toNat % 2 ^ 18
    if dmemTop < a + 24 then s.sliceFault sl 1
    else
      let d := Memory.readBytes x.dmem a 24
      let ok := match (s.zone (fld d 8 2)).desc with
        | some z => z.first ≤ fld d 20 4 && fld d 20 4 ≤ z.last && fld d 10 1 ≤ 15 && x.evtQ.length < 16
        | none => false
      if ok then s.modSlc sl fun x => { x with evtQ := x.evtQ ++ [d] }
      else (s.modSlc sl fun x => { x with evtDrop := true }).bump K.sliceClassDropped)

/-- WAITT: waits for TILE_STATUS.READY with the clock gated (R243). -/
def execWaitt (t : Tick) (sl : Nat) (s : State) : Host.Outcome State Fault Refusal :=
  .next ((s.advance t).issue sl 0x38 fun s w =>
    if bit (s.slc sl).tileStatus 0 then (s.sliceCycles sl w 1).sliceGoto sl (((s.slc sl).pc : Int) + 1)
    else s.modSlc sl fun x => { x with waiting := true })

/-- WAITC: waits until COLS_IN ≥ Ga. -/
def execWaitc (t : Tick) (sl : Nat) (s : State) : Host.Outcome State Fault Refusal :=
  .next ((s.advance t).issue sl 0x39 fun s w =>
    let x := s.slc sl
    if (x.g (wA w)).toNat ≤ x.tileStatus / 65536 then (s.sliceCycles sl w 1).sliceGoto sl ((x.pc : Int) + 1)
    else s.modSlc sl fun x => { x with cycles := x.cycles + 1 })

/-! Outputs (R244). -/

/-- Device time of the last sample of a tile, that of the shifts made of it (R201). -/
def State.tileEnd (s : State) (t : Option Tile) : Nat := match t with | some t => s.devRound t.lastTick | none => s.dev

/-- A program's heart samples stand from the start of the tile that it pushed them in. true: a write was refused (R69). -/
def State.sliceHeart (s : State) (t : Option Tile) (c : Nat) (xs : List Nat) (reset : Bool) : State × Bool :=
  match t with
  | some t =>
    s.heartColumn (s.tileShot t) { chan := c, at_ := t.startTick, xs := xs, void := false, flags := t.flags % 8,
                                   src := some t.heartSrc, pred := t.predicted, cons := t.cons } reset
  | none =>
    s.heartColumn (fun _ => s.run.shot)
      { chan := c, at_ := s.now, xs := xs, void := false, flags := 0, src := none, pred := 0, cons := false } reset

/-- Base-note records that a program of slice i pushes in tile t reach the base note and the watchers; the first that R69 refuses faults
the slice. -/
def State.pushRecords (s : State) (i : Nat) (t : Option Tile) (recs : List (List Byte)) : State :=
  let w := recs.foldl (fun (acc : State × Bool) r =>
    let s := acc.1
    let ck := fld r 8 4
    let key := ck % 2 ^ 17 * 16 + ck / 2 ^ 17 % 64
    let last : LastBase := { value := fld r 12 4, flags := ck / 2 ^ 25, since := s.now }
    if acc.2 then acc
    else if s.baseRefused then ((s.protFault mSlice s.baseRoom.baseAt).sliceFault i 2, true)
    else ((s.baseAppend mSlice (fld r 0 8) ck (fld r 12 4)).modSill fun x => { x with lastBase := aput key last x.lastBase }, false))
    (s, false)
  let s := w.1
  let at_ := match t with | some t => t.lastTick | none => s.now
  let reds : List Reduction := recs.filterMap fun r =>
    let ck := fld r 8 4
    if ck / 2 ^ 17 % 64 ≤ 10 then
      some { channel := ck % 2 ^ 17, kind := ck / 2 ^ 17 % 64, value := fld r 12 4, predicted := bit ck 26, fade := bit ck 27,
             saturated := bit ck 28 }
    else none
  match reds, recs with
  | d :: _, r :: _ => s.deliverReds (PS.chanSetHead s.running d.channel) (fld r 0 8) at_ reds
  | _, _ => s

/-- Cut bytes into pieces of n. k bounds their number. -/
def cutInto (n : Nat) : Nat → List Byte → List (List Byte)
  | 0, _ => []
  | k + 1, bs => if bs.isEmpty then [] else bs.take n :: cutInto n k (bs.drop n)

/-- OUTPUT_DMA_COMPLETE (R244, R247, R200): the output DMA has read the oldest descriptor's data; the place is free. -/
def execOutputDmaComplete (t : Tick) (sl : Nat) (s : State) : Host.Outcome State Fault Refusal :=
  let s := s.advance t
  .next (match (s.slc sl).outQ with
    | [] => s
    | w :: rest =>
      if (s.slc sl).status != 2 then s
      else
        let d := w.bytes
        let addr := fld d 0 4 / 4 * 4
        let count := fld d 4 2
        let kind := fld d 6 1
        let ch := fld d 8 4
        let len := count * (match kind with | 0 => 4 | 1 => 16 | 2 => 8 | _ => 1)
        let s := s.modSlc sl fun x => { x with outQ := rest }
        if dmemTop < addr + len then s.sliceFault sl 1
        else
          let data := Memory.readBytes (s.slc sl).dmem addr len
          let stop := s.tileEnd w.tile
          let s := if kind == 2 then s else s.follow sl count kind ch data
          match kind with
          | 0 =>
            let r := s.sliceHeart w.tile ch ((cutInto 4 count data).map leNat) w.reset
            if r.2 then r.1.sliceFault sl 2 else r.1
          | 1 => s.pushRecords sl w.tile (cutInto 16 count data)
          | 2 =>
            ((cutInto 8 count data).zipIdx).foldl (fun s e =>
              let r := e.1
              let res : ShiftRes := { stop := stop, u := fldI r 0 4, rho := fld r 4 2, locked := bit (fld r 6 1) 0,
                                      renewed := bit (fld r 6 1) 1 }
              let old := newResults stop (aget [] s.therm.shifts (ch + e.2))
              s.modTherm fun h => { h with shifts := aput (ch + e.2) (old ++ [res]) h.shifts }) s
          | _ => s)

/-- CLASS_RECORD_MADE (R253): the oldest CLASS descriptor of the lowest slice that has one becomes a record of its zone. What complete
profiles and stitch evaluations decide by then is recorded first (R277). -/
def execClassRecordMade (t : Tick) (s : State) : Host.Outcome State Fault Refusal :=
  let s := s.advance t
  .next (match s.slices.tab.find? (fun e => !e.2.evtQ.isEmpty) with
    | none => s
    | some e =>
      match e.2.evtQ with
      | [] => s
      | d :: rest =>
        let s := (s.profilesAll s.prof.ready.length).stitchEval
        let s := (s.modSlc e.1 fun x => { x with evtQ := rest }).bump K.sliceClassSent
        s.zoneRecord (fld d 8 2) 8 (fld d 10 1) (fld d 12 4) (fld d 16 4) (fld d 20 4) (fld d 0 8))

/-! Loading and starting (R249 to R251). -/

/-- Slices 0 to BAND_SLICES + SHIFT_SLICES − 1 are assigned by the running set. -/
def State.assigned (s : State) (i : Nat) : Bool := i < s.p K.chanBandSlices + s.p K.chanShiftSlices

/-- Bits of each format that no field covers are reserved, and each opcode is defined (R239): the word is allowed. -/
def wordOk (w : Nat) : Bool :=
  let op := w / 2 ^ 26
  let low (n : Nat) : Bool := w % 2 ^ n == 0
  if op == 0x00 || op == 0x26 || op == 0x38 then w % 2 ^ 26 == 0
  else if (1 ≤ op && op ≤ 9) || op == 0x0C || op == 0x39 then low 14
  else if op == 0x0A || op == 0x0B then true
  else if 0x10 ≤ op && op ≤ 0x13 then low 19
  else if op == 0x18 || op == 0x19 then low 16
  else if op == 0x1C || op == 0x1E || op == 0x1F then low 12
  else if 0x20 ≤ op && op ≤ 0x25 then true
  else if op == 0x28 then w / 2 ^ 16 % 2 ^ 6 == 0
  else if op == 0x30 || op == 0x31 then low 10
  else false

/-- Opcodes that a REP may repeat. -/
def repOk (op : Nat) : Bool :=
  op ≤ 0x08 || op == 0x0A || op == 0x0B || op == 0x0C || (0x10 ≤ op && op ≤ 0x13) || op == 0x18 || op == 0x19 || op == 0x1C ||
    op == 0x1E || op == 0x1F

/-- Index of the first element that f refuses. -/
def firstBad {α : Type} (f : Nat → α → Bool) (xs : List α) : Option Nat :=
  ((xs.zipIdx).find? (fun e => !f e.2 e.1)).map (·.2)

/-- Two byte ranges are disjoint. -/
def apart (a b : Nat × Nat) : Bool := a.2 == 0 || b.2 == 0 || a.1 + a.2 ≤ b.1 || b.1 + b.2 ≤ a.1

/-- The check of a complete image (R250): none on a pass, else check number and failing byte offset. -/
def imageCheck (bs : List Byte) : Option (Nat × Nat) :=
  let f := fld bs
  let n := bs.length
  let code := f 8 4
  let data := f 12 4
  let kind := f 6 1
  let cols := f 28 2
  let words := (List.range (code / 4)).map (fun i => f (64 + 4 * i) 4)
  let rangesOf := [(f 24 4, 1024 * cols), (f 32 4, 2048), (f 36 4, f 44 4), (f 48 4, f 52 4)]
  if n < 68 || crc32c (bs.take (n - 4)) != f (n - 4) 4 then some (1, n - 4)
  else if f 0 4 != 0x504C5345 then some (2, 0)
  else if f 4 2 != 1 then some (2, 4)
  else if 2 < kind then some (2, 6)
  else if code < 4 || 32768 < code || code % 4 != 0 then some (3, 8)
  else if 163840 < data || n != 68 + code + data then some (3, 12)
  else if code / 4 ≤ f 20 4 then some (3, 20)
  else if f 24 4 % 1024 != 0 then some (3, 24)
  else if (kind == 2 && cols != 0) || (kind != 2 && !(2 ≤ cols && cols ≤ 64)) then some (3, 28)
  else if f 32 4 % 1024 != 0 then some (3, 32)
  else if f 48 4 % 16 != 0 then some (3, 48)
  else if f 52 4 != 0 && !(256 ≤ f 52 4 && f 52 4 ≤ 65536 && f 52 4 % 16 == 0) then some (3, 52)
  else if dmemTop < f 16 4 + data then some (4, 16)
  else if dmemTop < f 24 4 + 1024 * cols then some (4, 24)
  else if dmemTop < f 32 4 + 2048 then some (4, 32)
  else if dmemTop < f 36 4 + f 44 4 then some (4, 36)
  else if dmemTop < f 48 4 + f 52 4 then some (4, 48)
  else
    match firstBad (fun i a => (rangesOf.drop (i + 1)).all (apart a)) rangesOf with
    | some i => some (4, nth 24 [24, 32, 36, 48] i)
    | none =>
      if f 7 1 != 0 || f 30 2 != 0 || f 56 8 != 0 then some (5, if f 7 1 != 0 then 7 else if f 30 2 != 0 then 30 else 56)
      else match firstBad (fun _ w => wordOk w) words with
        | some i => some (5, 64 + 4 * i)
        | none =>
          let inCode (i w : Nat) : Bool :=
            let op := w / 2 ^ 26
            let dest : Int := (i : Int) + 1 + sext 18 w
            !(0x20 ≤ op && op ≤ 0x25) || (0 ≤ dest && dest < (words.length : Int))
          match firstBad inCode words with
          | some i => some (6, 64 + 4 * i)
          | none =>
            match firstBad (fun i w => w / 2 ^ 26 != 0x28 ||
                (i + 1 < words.length && repOk (nth 0 words (i + 1) / 2 ^ 26))) words with
            | some i => some (7, 64 + 4 * i)
            | none => none

/-- The image that these bytes hold. -/
def imageOf (bs : List Byte) : Image :=
  let f := fld bs
  let code := f 8 4
  { kind := f 6 1, entry := f 20 4, inBase := f 24 4, inCols := f 28 2, hdrBase := f 32 4, stateBase := f 36 4,
    stateBytesSet := f 40 4, stateLimit := f 44 4, finBase := f 48 4, finBytes := f 52 4, dataAddr := f 16 4,
    code := (List.range (code / 4)).map (fun i => BitVec.ofNat 32 (f (64 + 4 * i) 4)), data := slice bs (64 + code) (f 12 4),
    supplied := false }

/-- A slice holds an image and is not running. -/
def State.putImage (s : State) (i : Nat) (im : Image) : State :=
  s.modSlc i fun _ => { status := 1, image := some im }

/-- A slice starts (R251): at ENTRY, registers, accumulators and generators 0, the data image in place. -/
def State.startSlice (s : State) (i : Nat) : State :=
  match (s.slc i).image with
  | none => s
  | some im =>
    (s.woken [5]).modSlc i fun _ =>
      { status := 2, image := some im, pc := im.entry,
        dmem := Memory.writeBytes [] im.dataAddr im.data }

/-- SLICE_LOAD (R250). -/
def State.sliceLoad (s : State) (q : Req) : State :=
  s.gate q 0x0070 cConfigure s.prot.sliceLoadHost fun s id =>
    let first := payU q 0 1
    let cnt := payU q 1 1
    let total := payU q 4 4
    let off := payU q 8 4
    let chunk := q.payload.drop 12
    let names := (List.range cnt).map (· + first)
    if payLen q < 12 || payU q 2 2 != 0 || 4084 < chunk.length then s.final id .range []
    else if 128 < first + cnt then s.final id .range []
    else
      let goesOn := match s.slices.loading with
        | some l => l.total == total && l.bytes.length == off && l.first == first && l.count == cnt
        | none => false
      if off != 0 && !goesOn then s.final id .range []
      else if s.run.state != 0 && names.any (fun i => s.assigned i || (s.follows i).isSome) then s.final id .state []
      else
        let bytes := (if off == 0 then [] else match s.slices.loading with | some l => l.bytes | none => []) ++ chunk
        if total < bytes.length then s.final id .range []
        else if bytes.length < total then
          ({ s with slices := { s.slices with
              loading := some { first := first, count := cnt, total := total, bytes := bytes } } }).ok id []
        else
          let s := { s with slices := { s.slices with loading := none } }
          match imageCheck bytes with
          | some (n, o) =>
            ({ s with slices := { s.slices with loadResult := n + 256 * (o % 2 ^ 24) } }.begins id).final id .checkFail []
          | none =>
            let s := { s with slices := { s.slices with loadResult := 0 } }
            (names.foldl (fun s i => s.putImage i (imageOf bytes)) s).ok id []

/-- SLICE_LOAD. -/
def execSliceLoad (t : Tick) (q : Req) (s : State) : Host.Outcome State Fault Refusal := .next ((s.advance t).sliceLoad q)

/-- A faulted assigned slice that restarts resets each of its sets (R251). -/
def State.restartSets (s : State) (i : Nat) : State :=
  if i < s.p K.chanBandSlices then
    ((PS.setHeads s.running).filter (fun h => PS.homeSlice s.running h == i)).foldl (fun s h => s.chainReset h) s
  else if s.assigned i then
    let f (e : Nat × ShiftWin) : Bool := (s.windowSlice e.1).1 != i
    (s.modTherm fun h => { h with windows := h.windows.filter f }).modSill fun x =>
      { x with shiftResets := (PS.setHeads s.running).map (fun h => (i, h)) ++ x.shiftResets.filter (fun e => e.1 != i) }
  else s

/-- SLICE_START (R251). -/
def State.sliceStart (s : State) (q : Req) : State :=
  s.gate q 0x0071 cConfigure true fun s id =>
    let names := (List.range (payU q 1 1)).map (· + payU q 0 1)
    if payLen q != 4 || payU q 2 2 != 0 then s.final id .range []
    else if 128 < payU q 0 1 + payU q 1 1 then s.final id .range []
    else if names.any (fun i => (s.slc i).image.isNone ||
        (s.assigned i && s.run.state != 0 && (s.slc i).status != 3)) then s.final id .state []
    else
      (names.foldl (fun s i =>
        let was := (s.slc i).status == 3
        let s := s.startSlice i
        if was && s.assigned i then s.restartSets i else s) s).ok id []

/-- SLICE_START. -/
def execSliceStart (t : Tick) (q : Req) (s : State) : Host.Outcome State Fault Refusal := .next ((s.advance t).sliceStart q)

end Sys2Proof.Machine
end

