-- ==== Sys2Proof/Machine/TimeOps.lean ====
section
/-!
DEFINITION. The time base and the time-interval unit (chapter 16): ageing (R366, R367), TIME_SET (R369), PTP discipline
(R370 to R372), TIU stamps and TIU_MEASURE (R373 to R381), PAIRSYNC (R382, R383).
-/
namespace Sys2Proof.Machine

/-! Device time is set (R369). -/

/-- Device time is loaded with v nanoseconds. -/
def State.stepTime (s : State) (v : Nat) : State :=
  let s := s.settle
  let s := s.modTime fun b => { b with dev := v * 4294967296, devAt := s.now, slew := 0, stepped := true }
  (s.modTherm fun h => { h with accordFrom := v / 1000000000 * 1000000000 }).health 18 s.time.ptpState 1 0xFF

/-- TIME_SET (R369). -/
def State.timeSet (s : State) (q : Req) : State :=
  s.gate q 0x0091 cConfigure true fun s id =>
    let v := payU q 0 8
    let m := payU q 8 1
    if payLen q != 12 || 1 < m || payU q 9 3 != 0 then s.final id .range []
    else if s.p K.timePtpMode != 0 || (m == 0 && s.run.state != 0) then s.final id .state []
    else
      let s := if m == 0 then s.stepTime v
        else
          let s := s.settle
          let left : Int := ((v * 4294967296 : Nat) : Int) - (s.time.dev : Int)
          s.modTime fun b => { b with slew := left / 65536 }
      (s.modTime fun b => { b with valid := true, fromBackup := false }).ok id []

def execTimeSet (t : Tick) (q : Req) (s : State) : Host.Outcome State Fault Refusal := .next ((s.advance t).timeSet q)

/-! Ageing (R366, R367). -/

/-- AGEING_STEP: each millisecond the correction in force moves toward TIME.XA_AGEING_PPT by at most 1,000; while PTP is LOCKED the
frequency term moves by the opposite amount. -/
def execAgeingStep (t : Tick) (s : State) : Host.Outcome State Fault Refusal :=
  let s := s.advance t
  let d := clampI (-1000) 1000 (s.pI K.timeXaAgeingPpt - s.time.ageing)
  .next (if d == 0 || !s.spaced s.time.ageAt (msT 1) then s
    else if s.time.ptpState == 2 then
      s.settle.modTime fun b =>
        { b with ageing := b.ageing + d, ageAt := some s.now, ptpFreq := b.ptpFreq - d, ptpRate := b.ptpRate + d }
    else s.modTime fun b => { b with ageing := b.ageing + d, ageAt := some s.now })

/-! PTP (R370 to R372). -/

/-- A change of PTP state raises a HEALTH event (R371). -/
def State.ptpGo (s : State) (st : Nat) : State :=
  if s.time.ptpState == st then s
  else
    let s := s.modTime fun b =>
      { b with ptpState := st, ptpGood := 0, ptpSlewTold := false,
               valid := b.valid || st == 2, fromBackup := b.fromBackup && st != 2 }
    s.health 18 st 2 0xFF

/-- TIME.SLEW_MAX_PPB in 10^-12. -/
def State.slewPpt (s : State) : Int := ((s.p K.timeSlewMaxPpb * 1000 : Nat) : Int)

/-- The rate the loop applies from now on, within the limit. -/
def State.setRate (s : State) (r : Int) : State :=
  s.settle.modTime fun b => { b with ptpRate := clampI (-s.slewPpt) s.slewPpt r }

/-- A port PTP may use (R370), with its link up. -/
def State.ptpPort (s : State) (port : Nat) : Bool :=
  port < 2 && s.active && (s.port port).link && (s.p K.timePtpPort == 2 || s.p K.timePtpPort == port)

/-- Announce messages stand for three of their intervals: 2 s in the default profile, 1 s in the power profile (R370; PRESUMED of the
default profile, log 125). -/
def State.announceT (s : State) : Tick := secT (if s.p K.timePtpMode == 2 then 3 else 6)

/-- One master is better than another: by its announced data set, then by identity and port (R370; log 125). -/
def PtpMaster.better (a b : PtpMaster) : Bool :=
  a.quality < b.quality || (a.quality == b.quality && (a.master < b.master || (a.master == b.master && a.port < b.port)))

/-- The best of some masters. -/
def bestMaster : List PtpMaster → Option PtpMaster
  | [] => none
  | m :: ms =>
    match bestMaster ms with
    | some b => if m.better b then some m else some b
    | none => some m

/-- PTP_ANNOUNCE (R370, R371): of a domain, over IPv4 or IPv6, with the master's identity and the data set by which masters compare, lower
being better. The best of the masters whose Announce messages stand is chosen. -/
def execPtpAnnounce (t : Tick) (port domain : Nat) (ipv6 : Bool) (master quality : Nat) (utcOffset : Int) (s : State) :
    Host.Outcome State Fault Refusal :=
  let s := s.advance t
  .next (if s.p K.timePtpMode == 0 || !s.ptpPort port || domain != s.p K.timePtpDomain || b2n ipv6 != s.p K.timePtpTransport then s
    else
      let new : PtpMaster := { port := port, master := master, quality := quality, utcOffset := satI 32 utcOffset, at_ := s.now }
      let keep := s.time.ptpForeign.filter fun m =>
        !(m.port == port && m.master == master) && s.now < m.at_ + s.announceT && s.ptpPort m.port
      let s := s.modTime fun b => { b with ptpForeign := new :: keep }
      match bestMaster (new :: keep) with
      | none => s
      | some m =>
        let same := s.time.ptpMaster == some (m.port, m.master)
        let s := s.modTime fun b => { b with ptpMaster := some (m.port, m.master), utcOffset := m.utcOffset }
        if same && s.time.ptpState != 0 then s else s.ptpGo 1)

/-- The gains of the loop are open: its integral term and its rate are FREE VALUES within the limit of R371. -/
def State.ptpSteer (s : State) : State :=
  let f := clampI (-s.slewPpt) s.slewPpt (sext 64 s.freeNat)
  let s := s.tookFree
  let r := clampI (-s.slewPpt) s.slewPpt (sext 64 s.freeNat)
  (s.tookFree.setRate r).modTime fun b => { b with ptpFreq := f }

/-- A Sync message is taken: HOLDOVER ends, and its offset, instant and interval are kept. -/
def State.ptpHeard (s : State) (off : Int) (intervalNs : Nat) : State :=
  (if s.time.ptpState == 3 then s.ptpGo 1 else s).modTime fun b =>
    { b with ptpOffset := satI 32 (rdivI off 1000), ptpSyncAt := s.now, ptpInterval := intervalNs }

/-- What a taken Sync message's offset brings: a step, a slew, or steering and the count of good ones. -/
def State.ptpAct (s : State) (off : Int) : State :=
  let big := decide ((s.p K.timePtpStepNs : Int) * 1000 < off.natAbs)
  if s.time.ptpState == 1 && big && s.run.state == 0 then
    (s.stepTime (((s.devRound s.now : Nat) : Int) - rdivI off 1000).toNat).modTime fun b => { b with ptpGood := 0 }
  else if s.time.ptpState == 1 && big then
    let told := s.time.ptpSlewTold
    let s := (s.setRate (if off < 0 then s.slewPpt else -s.slewPpt)).modTime fun b => { b with ptpGood := 0, ptpSlewTold := true }
    if told then s else s.health 18 1 3 0xFF
  else
    let good := decide (off.natAbs ≤ s.p K.timePtpLockNs * 1000)
    let s := s.ptpSteer
    let s := s.modTime fun b => { b with ptpGood := if good then b.ptpGood + 1 else 0 }
    if s.time.ptpState == 1 && 16 ≤ s.time.ptpGood then s.ptpGo 2
    else if s.time.ptpState == 2 && !good then s.ptpGo 1
    else s

/-- PTP_SYNC (R370 to R372): a Sync message of this master on this port, with the raw offset from it that it gives; the loop runs on the
chosen master's alone. -/
def execPtpSync (t : Tick) (port master : Nat) (offPs : Int) (intervalNs : Nat) (s : State) :
    Host.Outcome State Fault Refusal :=
  let s := s.advance t
  .next (match s.time.ptpMaster with
    | none => s
    | some m =>
      if s.p K.timePtpMode == 0 || !s.ptpPort port || m != (port, master) then s
      else
        let off := offPs - s.pI K.timePtpAsymPs
        (s.ptpHeard off intervalNs).ptpAct off)

/-- PTP_HOLDOVER (R371): no Sync for 4 intervals while LOCKED; the frequency term is held. A positive term says that XA is
fast (R367), so the rate is its opposite. -/
def execPtpHoldover (t : Tick) (s : State) : Host.Outcome State Fault Refusal :=
  let s := s.advance t
  .next (if s.time.ptpState == 2 && s.time.ptpSyncAt + nsT (4 * s.time.ptpInterval) ≤ s.now then
      (s.setRate (-s.time.ptpFreq)).ptpGo 3
    else s)

/-- TIME.PTP_MODE has been written over old (R384). -/
def State.ptpModeWrite (s : State) (old : Nat) : State :=
  let new := s.p K.timePtpMode
  if new == old then s
  else if new == 0 then
    let s := s.settle
    (s.modTime fun b => { b with slew := 0, ptpMaster := none, ptpForeign := [] }).ptpGo 0
  else if old == 0 then (s.modTime fun b => { b with ptpMaster := none, ptpForeign := [] }).ptpGo 0
  else s

/-- TIME.PTP_PORT, TIME.PTP_DOMAIN or TIME.PTP_TRANSPORT has changed (R384): a master is chosen anew. -/
def State.ptpAgain (s : State) : State :=
  let s := s.modTime fun b => { b with ptpMaster := none, ptpForeign := [] }
  if s.time.ptpState == 0 then s else s.ptpGo 1

/-! TIU_MEASURE (R377 to R381). -/

/-- One LSB of a stamp (R374): 1 / (32 × 1.2288 GHz) is 175 ticks. -/
def tiuLsb : Tick := 175

def preK (c : Nat) : Nat := 4 ^ c

/-- Square root of a rational, rounded: round(sqrt(v) / n). -/
def sqrtOver (v n : Nat) : Nat := if n == 0 then 0 else (isqrt (4 * v) + n) / (2 * n)

/-- The response's payload over the results completed (R380). -/
def TiuJob.bytes (j : TiuJob) : List Byte :=
  let n := j.used.length
  let sum := j.used.sum
  let sq := (j.used.map (fun x => x * x)).sum
  let lo := j.used.foldl Min.min (j.used.headD 0)
  let hi := j.used.foldl Max.max (j.used.headD 0)
  leBytes 4 n ++ leBytes 4 j.excluded ++ leBytes 8 (uns 64 (rdivAway sum n)) ++
    leBytes 8 (sqrtOver ((n : Int) * sq - sum * sum).toNat n) ++ leBytes 8 (uns 64 lo) ++ leBytes 8 (uns 64 hi)

/-- The command ends. -/
def State.tiuEnd (s : State) (j : TiuJob) (st : Status) : State :=
  (s.modTime fun b => { b with tiu := none }).final j.who st j.bytes

/-- Entry to VIGIL, STANDBY or OFF (R381). -/
def State.tiuAbort (s : State) : State :=
  match s.time.tiu with
  | some j => s.tiuEnd j .aborted
  | none => s

/-- Arm (R376, R378, R379): the prescalers restart and the latched values are taken. -/
def State.tiuArmed (s : State) (j : TiuJob) (at_ : Tick) : TiuJob :=
  { j with armed := some at_, cntStart := 0, cntStop := 0, first := none, second := none, edges := s.p K.timeTiuEdge,
           timeoutMs := s.p K.timeTiuTimeoutMs, stopDelay := s.p K.timeTiuStopDelayNs }

/-- TIU_MEASURE (R377, R381). -/
def State.tiuMeasure (s : State) (q : Req) : State :=
  s.gate q 0x0090 cOperate true fun s id =>
    let a := payU q 0 1
    let b := payU q 1 1
    let mode := payU q 2 1
    let pre := payU q 3 1
    let n := payU q 4 4
    let period := mode % 16 == 2
    let arm := mode / 16 % 8
    if payLen q != 8 || n == 0 || 2 ^ 24 < n || 16 < a || 16 < b || 2 < mode % 16 || 3 < arm || 128 ≤ mode || 128 ≤ pre ||
        (period != (a == b)) || (7 < a && pre % 4 != 0) || (7 < b && pre / 4 % 4 != 0) then s.final id .range []
    else if !s.active || (arm == 1 && s.run.state != 1) then s.final id .state []
    else if s.time.tiu.isSome then s.final id .busy []
    else
      let s := s.takes id
      let j : TiuJob :=
        { who := id, startIn := a, stopIn := b, mode := mode % 16, arm := arm, preStart := pre % 4, preStop := pre / 4 % 4,
          gate := pre / 16 % 8, n := n, used := [], excluded := 0, armed := none, armFrom := s.now, cntStart := 0, cntStop := 0,
          first := none, second := none, inclFlagged := s.pB K.timeTiuStatsIncludeFlagged, edges := 0, timeoutMs := 0, stopDelay := 0 }
      s.modTime fun x => { x with tiu := some (if arm == 0 then s.tiuArmed j s.now else j) }

def execTiuMeasure (t : Tick) (q : Req) (s : State) : Host.Outcome State Fault Refusal := .next ((s.advance t).tiuMeasure q)

/-- A result is used, excluded or discarded (R379, R380): the job after it, and whether it was discarded. -/
def TiuJob.take (j : TiuJob) (a b : Tick) : TiuJob × Bool :=
  let d : Int := (b : Int) - (a : Int)
  let flagged (x : Int) : TiuJob :=
    if j.inclFlagged then { j with used := j.used ++ [x], excluded := j.excluded } else { j with excluded := j.excluded + 1 }
  if j.mode == 2 then ({ j with used := j.used ++ [rdivAway d (105 * preK j.preStart)] }, false)
  else if d.natAbs < tiuLsb then (flagged 0, false)
  else if d < 0 then
    if j.mode == 0 then (flagged (rdivAway d 105), false) else ({ j with excluded := j.excluded + 1 }, true)
  else ({ j with used := j.used ++ [rdivAway d 105] }, false)

/-- A measurement whose edges have arrived is taken; the next is armed or chained, or the command ends (R378 to R380). -/
def State.tiuTake (s : State) : State :=
  match s.time.tiu with
  | none => s
  | some j =>
    match j.first, j.second with
    | some a, some b =>
      let r := j.take a b
      let s := s.count K.timeTiuDiscarded (b2n r.2)
      let j := r.1
      if j.n ≤ j.used.length + j.excluded then s.tiuEnd j .ok
      else
        let done := max a b
        let from_ := done + nsT (s.p K.timeTiuRearmNs)
        let j := if j.mode == 2 && j.arm == 0 then { j with first := some b, second := none, armed := some done }
          else if j.arm == 0 then s.tiuArmed { j with armFrom := from_ } from_
          else { j with first := none, second := none, armed := none, armFrom := from_ }
        s.modTime fun x => { x with tiu := some j }
    | _, _ => s

/-- TIU_ARM (R378): at a shot-group boundary, at a whole second of device time, or while the gate input reads high. -/
def execTiuArm (t : Tick) (s : State) : Host.Outcome State Fault Refusal :=
  let s := s.advance t
  .next (match s.time.tiu with
    | none => s
    | some j =>
      let ok := match j.arm with
        | 1 => s.run.state == 1 && s.run.boundary == s.now
        | 2 => s.dev % 1000000000 == 0
        | 3 => bit s.time.tinHigh j.gate
        | _ => false
      if j.armed.isSome || s.now < j.armFrom || !ok then s
      else s.modTime fun x => { x with tiu := some (s.tiuArmed j s.now) })

/-- A prescaled edge of a source reaches the measurement. -/
def TiuJob.edge (j : TiuJob) (src : Nat) (now : Tick) : TiuJob :=
  if j.mode == 2 then
    if src != j.startIn then j
    else if j.first.isNone then { j with first := some now }
    else if j.second.isNone then { j with second := some now } else j
  else if src == j.startIn && j.first.isNone then { j with first := some now }
  else if src == j.stopIn && j.second.isNone then { j with second := some now }
  else j

/-- The stop input is armed (R379). -/
def TiuJob.stopArmed (j : TiuJob) (now : Tick) : Bool :=
  j.stopDelay == 0 || (match j.first with | some a => decide (a + nsT j.stopDelay ≤ now) | none => false)

/-- The edge passes the prescaler (R376): the job with its count, and whether it comes out. Before arming nothing is counted,
and every edge of a source that no measurement uses comes out. -/
def TiuJob.prescale (j : TiuJob) (src : Nat) (now : Tick) : TiuJob × Bool :=
  let live := match j.armed with | some a => decide (a ≤ now) | none => false
  if src == j.startIn then
    if !live then (j, false)
    else
      let c := j.cntStart + 1
      if c == preK j.preStart then ({ j with cntStart := if j.mode == 2 then 0 else c }, true) else ({ j with cntStart := c }, false)
  else if src == j.stopIn then
    if !live || !j.stopArmed now then (j, false)
    else
      let c := j.cntStop + 1
      ({ j with cntStop := c }, c == preK j.preStop)
  else (j, false)

/-- The direction of a source's edges that is stamped (R373). -/
def State.tiuDirection (s : State) (src : Nat) : Bool :=
  if src < 8 then !bit (match s.time.tiu with | some j => if j.armed.isSome then j.edges else s.p K.timeTiuEdge
                                              | none => s.p K.timeTiuEdge) src
  else if 10 ≤ src && src ≤ 13 then !bit (s.p K.sillTrigPolarity) (src - 10)
  else src != 14

/-- A prescaler above code 0 stands before this source's stamping channel. -/
def State.prescaled (s : State) (src : Nat) : Bool :=
  match s.time.tiu with
  | some j => src < 8 && ((src == j.startIn && j.preStart != 0) || (src == j.stopIn && j.preStop != 0))
  | none => false

/-- The stamp of an edge (R374): the phase of the TIU clock that it lies in; a virtual edge is exact (R373). DESIGN CHOICE (log 126): the
table leaves the phases equal. -/
def stampOf (source : Nat) (at_ : Tick) : Tick := if source == 9 || source == 16 then at_ else at_ / tiuLsb * tiuLsb

/-- An edge of source at an instant that pre makes of the prescaler: counted by the running job, or an overrun where it follows the last
one of its input within 3 ns. -/
def State.tiuStamped (s : State) (source : Nat) (at_ : Tick) (pre : Option (TiuJob × Bool)) : State :=
  let s := match pre with | some r => s.modTime fun b => { b with tiu := some r.1 } | none => s
  if s.prescaled source && (match pre with | some r => !r.2 | none => true) then s
  else
    let last := s.time.lastEdge.find? (fun e => e.1 == source)
    let early := match last with | some e => decide (at_ < e.2 + psT 3000) | none => false
    let s := s.modTime fun b => { b with lastEdge := aput source at_ b.lastEdge }
    if early then s.bump K.timeTiuOverrun
    else
      let s := s.perfEvent 0x0B01 source 0xFF 1
      match pre with
      | some (j, true) => s.modTime fun b => { b with tiu := some (j.edge source (stampOf source at_)) }
      | _ => s

/-- An edge of a source at an instant, in the direction that is stamped (R373 to R376). It is stamped while the TIU clock runs, unless it
follows the channel's previous edge by less than 3.0 ns. -/
def State.tiuEdge (s : State) (source : Nat) (at_ : Tick) : State :=
  if !s.domainRuns 11 then s
  else
    let s := s.tiuTake
    s.tiuStamped source at_ (match s.time.tiu with | some j => some (j.prescale source at_) | none => none)

/-- An edge at the balls of TRIG0 to TRIG3 or STAR_N: its stamp includes a buffer delay of 2.1 ns ± 0.4 ns, which is not removed (R499). How
long it is within that is a FREE VALUE. -/
def State.tiuBuffered (s : State) (source : Nat) : State :=
  s.tookFree.tiuEdge source (s.now + psT 1700 + s.freeNat % (psT 800 + 1))

/-- TIU_INPUT_EDGE (R373, R378): an edge of an input TINn, TRIGn or of STAR_N, or, as source 16, a whole second of device time. Launches,
launch-monitor crossings and PAIRSYNC pulses reach their sources with their own commands. -/
def execTiuInputEdge (t : Tick) (source : Nat) (rising : Bool) (s : State) : Host.Outcome State Fault Refusal :=
  let s := s.advance t
  let s := if source < 8 then s.modTime fun b => { b with tinHigh := setBit b.tinHigh source rising } else s
  .next (if source < 8 then (if rising == s.tiuDirection source then s.tiuEdge source s.now else s)
    else if 10 ≤ source && source ≤ 14 then (if rising == s.tiuDirection source then s.tiuBuffered source else s)
    else if source == 16 && s.dev % 1000000000 == 0 then s.tiuEdge 16 s.now
    else s)

/-- TIU_MEASUREMENT_DONE (R379, R380). -/
def execTiuMeasurementDone (t : Tick) (s : State) : Host.Outcome State Fault Refusal := .next (s.advance t).tiuTake

/-- TIU_TIMEOUT (R379, R381). -/
def execTiuTimeout (t : Tick) (s : State) : Host.Outcome State Fault Refusal :=
  let s := (s.advance t).tiuTake
  .next (match s.time.tiu with
    | some j =>
      match j.armed with
      | some a => if a + msT j.timeoutMs ≤ s.now then s.tiuEnd j .timeout else s
      | none => s
    | none => s)

/-- TIU_CODE_DENSITY_TEST (R374): at start-up, and when the die sensor has moved by more than 2 °C. -/
def execTiuCodeDensityTest (t : Tick) (temp : Int) (s : State) : Host.Outcome State Fault Refusal :=
  let s := s.advance t
  let moved := match s.time.tableTemp with | some x => decide (20000 < (temp - x).natAbs) | none => true
  .next (if moved && s.domainRuns 11 then s.modTime fun b => { b with tableTemp := some temp, tables := b.tables + 1 } else s)

/-! PAIRSYNC (R382, R383). -/

/-- PAIRSYNC runs: the key acts from the whole second after its write (R384). -/
def State.pairsync (s : State) : Bool :=
  (if s.dev < s.time.psFrom then s.time.psWas else s.pB K.timePairsyncEn) && s.clk.mode ≥ 2

/-- TIME.PAIRSYNC_EN has been written over old (R384). -/
def State.pairsyncWrite (s : State) (old : Bool) : State :=
  s.modTime fun b =>
    { b with psWas := if s.dev < b.psFrom then b.psWas else old, psFrom := (s.dev / 1000000000 + 1) * 1000000000 }

/-- The second S becomes the one that stamps are kept for. -/
def State.psSecond (s : State) (sec : Nat) : State :=
  if s.time.psSec == sec then s else s.modTime fun b => { b with psSec := sec, psOwn := none, psPeer := none }

/-- PAIRSYNC_DRIVE: identity 0 drives at S, identity 1 at S + 500 ms. The pair is ignored while the pulse of 100 ns is driven
and for 1 µs after. -/
def execPairsyncDrive (t : Tick) (s : State) : Host.Outcome State Fault Refusal :=
  let s := s.advance t
  .next (if s.pairsync && s.dev % 1000000000 == 500000000 * s.twinId then
      (s.psSecond (s.dev / 1000000000)).modTime fun b => { b with psIgnore := s.now + nsT 1100 }
    else s)

/-- Offset and delay from both stamps of a second (R382), in 1/65,536 ns. -/
def State.psResult (s : State) (a b : Nat) : State :=
  let base : Int := ((s.time.psSec * 1000000000 * 65536 : Nat) : Int)
  let x : Int := (a : Int) - base
  let y : Int := (b : Int) - base - 500000000 * 65536
  let theta := rdivI ((x - y) * 1000 - s.pI K.timePairsyncAsymPs * 65536) 131072
  let delay := rdivI ((x + y) * 1000) 131072
  s.modTime fun t =>
    { t with psOffset := satI 32 theta, psDelay := satU 32 delay, psAge := 0, psMiss := 0, psRaised := false,
             psDone := some t.psSec, psOwn := none, psPeer := none }

/-- Both stamps are in. Device 1 makes A, device 0 makes B. -/
def State.psTry (s : State) : State :=
  match s.time.psOwn, s.time.psPeer with
  | some own, some peer => if s.twinId == 1 then s.psResult own peer else s.psResult peer own
  | _, _ => s

/-- PAIRSYNC_PULSE: a pulse within ±1 ms of its expected instant is stamped, and the stamp sent (R382, R387). -/
def execPairsyncPulse (t : Tick) (s : State) : Host.Outcome State Fault Refusal :=
  let s := s.advance t
  let half := if s.twinId == 1 then 0 else 500000000
  let d := s.dev + 1000000000 - half + 1000000
  .next (if s.pairsync && s.time.psIgnore ≤ s.now && d % 1000000000 ≤ 2000000 && 1000000000 + 1000000 ≤ d then
      let sec := d / 1000000000 - 1
      let s := s.tiuEdge 15 s.now
      let stamp := s.dev16 s.now
      let s := (s.psSecond sec).modTime fun b => { b with psOwn := some stamp }
      let s := if s.twin.link ≥ 2 then
          s.linkWire (s.linkFrame 7 false 0 (leBytes 8 sec ++ leBytes 8 (stamp / 65536) ++ leBytes 2 (stamp % 65536) ++ leBytes 2 0))
        else s
      s.psTry
    else s)

/-- PAIRSYNC_RESULT_DEADLINE (R383): at S + 900 ms. A second without a result advances the age; the third in a row raises a
HEALTH event, once until a result. -/
def execPairsyncResultDeadline (t : Tick) (s : State) : Host.Outcome State Fault Refusal :=
  let s := s.advance t
  .next (if !s.pairsync || s.dev % 1000000000 < 900000000 then s
    else
      if s.time.psDone == some (s.dev / 1000000000) then s.modTime fun b => { b with psOwn := none, psPeer := none }
      else
        let s := s.modTime fun b =>
          { b with psAge := min (b.psAge + 1) 0xFFFFFFFF, psMiss := b.psMiss + 1, psOwn := none, psPeer := none }
        if 3 ≤ s.time.psMiss && !s.time.psRaised then (s.modTime fun b => { b with psRaised := true }).health 19 0 0 0xFF
        else s)

end Sys2Proof.Machine
end

