-- ==== Sys2Proof/Machine/TwinOps.lean ====
section
/-!
DEFINITION. Twin operation (chapter 17): the link and its frames (R386 to R391), holding and matching (R393 to R395), promotion
and handback (R396 to R398), split and rejoin (R399, R400), status and control (R402, R403).
-/
namespace Sys2Proof.Machine

/-- The lane is powered: TWIN.ENABLE, in MAINTAIN and FULL. -/
def State.lane (s : State) : Bool := s.pB K.twinEnable && s.active

/-- A device-level TWIN record (R404). -/
def State.twinRecord (s : State) (cause detail : Nat) : State :=
  s.deviceRecord 0x0B (if cause == 2 then 8 else if cause == 3 then 6 else 2) cause detail 0

/-- The link changes state (R386). -/
def State.linkGo (s : State) (st : Nat) : State :=
  if s.twin.link == st then s else s.modTwin fun w => { w with link := st, linkChange := s.dev }

/-- Take out what a rejoin keeps. -/
def clearJoin (w : Twin) : Twin :=
  { w with seqSent := false, doneSent := false, doneGot := false, peerSeqs := 0, peerDigs := 0, unacked := [], sendQ := [] }

/-! Records held (R393, R395, R400). -/

/-- A held record leaves under the zone's next sequence; its capture learns the sequence. -/
def State.sendHeld (s : State) (h : HeldRec) (split released : Bool) : State :=
  let r := h.record
  let seq := (s.zone r.zone).nextSeq
  ((s.sendZone { r with flags := recFlags s.twinId split false released (EventRec.sev r) } true).trigSeqKnown r seq)

/-- Every held record of a zone that f accepts leaves, in order of making. -/
def State.sendHeldOf (s : State) (z : Nat) (f : HeldRec → Bool) (split released : Bool) : State :=
  let hs := s.twin.held.filter (fun h => h.record.zone == z && f h)
  let s := s.modTwin fun w => { w with held := w.held.filter (fun h => !(h.record.zone == z && f h)) }
  let s := hs.foldl (fun s h => s.sendHeld h split released) s
  if released then s.count K.twinReleased hs.length else s

/-- Held records whose hold has ended are discarded and counted (R393, R395); those that a rejoin holds stay (R400). -/
def State.dropHeld (s : State) : State :=
  let gone (h : HeldRec) : Bool :=
    h.since + msT (s.p K.twinHoldMs) ≤ s.now && !(s.twin.link == 2 && (s.zone h.record.zone).lossAt.isNone)
  (s.modTwin fun w => { w with held := w.held.filter (fun h => !gone h) }).count K.twinUnconfirmed (s.twin.held.filter gone).length

/-- Match every held record, in order of making, with the ones still kept (R394, R395). -/
def State.matchHeld (s : State) : State :=
  s.twin.held.foldl (fun s h =>
    match s.twin.kept.find? (fun k => !k.matched && s.keepsStill k && s.matches h.record k.record) with
    | some k =>
      ((s.modTwin fun w =>
        { w with kept := markFirst (fun x => x == k) (fun x => { x with matched := true }) w.kept,
                 held := w.held.filter (fun x => x != h) }).trigSeqKnown h.record k.record.seq).bump K.twinMatched
    | none => s) s

/-! The link goes down (R390, R396, R399). -/

/-- What the loss of the link does to a zone: one this device does not act for, and is not dark for, waits for promotion; any
other is unpaired at once. -/
def State.zoneLost (s : State) (z : Nat) : State :=
  if (s.zone z).paired && !s.actsFor z && !s.isDark z then
    s.modZone z fun x => { x with lossAt := match x.lossAt with | some a => some a | none => some s.now }
  else (s.modZone z fun x => { x with lossAt := none }).repair z

/-- The link leaves JOINING or PAIRED for ALONE (R390, R400). Records that a broken rejoin held are made again: they carry
SPLIT (R399). -/
def State.linkDown (s : State) (reason : Nat) : State :=
  let joining := s.twin.link == 2
  let s := ((s.linkGo 1).modTwin clearJoin).twinRecord 2 reason
  let zs := s.definedZones
  let s := s.refreshDark
  let s := if joining then zs.foldl (fun s z =>
      if (s.zone z).lossAt.isSome then s else s.sendHeldOf z (fun _ => true) true false) s else s
  zs.foldl State.zoneLost s

/-- A frame that is not reliable. -/
def State.linkPlain (s : State) (typ : Nat) (payload : List Byte) : State :=
  if s.lane then s.linkWire (s.linkFrame typ false 0 payload) else s

/-- The dark bitmap: bit z for zone z (R387). -/
def State.darkMap (s : State) : List Byte :=
  let zs := s.definedZones.filter s.isDark
  (List.range 512).map fun i => BitVec.ofNat 8 ((zs.filter (fun z => z / 8 == i)).foldl (fun b z => b + 2 ^ (z % 8)) 0)

/-- A HEARTBEAT frame leaves (R387). -/
def State.heartbeatOut (s : State) (leaving : Bool) : State :=
  let caps := b2n s.capA + 2 * b2n s.capT
  s.linkPlain 1 (leBytes 1 (b2n leaving) ++ leBytes 1 caps ++ leBytes 2 (s.p K.twinHoldMs) ++ leBytes 4 (s.p K.twinHbLossUs) ++
    s.darkMap)

/-- LEAVING is sent (R390): the link goes to ALONE with reason LEAVING, and every zone is dark from here on (R392). -/
def State.sendLeaving (s : State) : State :=
  if s.twin.link == 0 then s
  else
    let s := ((s.heartbeatOut true).modTwin fun w => { w with leaving := true }).refreshDark
    if s.twin.link ≥ 2 then s.linkDown 2 else s

/-! Frames arrive (R386, R388, R390). -/

/-- Frames up to this LSEQ are acknowledged (R388, R389). -/
def State.ackTo (s : State) (ack : Nat) : State :=
  (s.modTwin fun w => { w with unacked := w.unacked.filter (fun o => serialLt 16 ack o.lseq) }).linkDrain 64

/-- A frame from the peer, before its content: after a loss of heartbeat that fell due first, in the same cycle it is discarded
and counted late (R390); a reliable one is accepted in LSEQ order or with RESYNC. Content is handled by body. -/
def State.linkIn (s : State) (h : LinkHdr) (reliable : Bool) (body : State → State) : State :=
  let due := match s.twin.peerAt with | some a => some (a + usT (s.p K.twinHbLossUs)) | none => none
  let late := match due with | some d => s.twin.link ≥ 2 && decide (d ≤ s.now) | none => false
  let same := match due with | some d => decide (s.now < d + stwT) | none => false
  if late then
    let s := s.linkDown 1
    if same then (s.bump K.twinLateCount).lateOnce else s
  else if s.twin.link < 2 || h.ident == s.twinId || !s.lane then s
  else
    let s := s.ackTo h.ack
    if !reliable then body (s.modTwin fun w => { w with peerAt := some s.now })
    else if h.resync || h.lseq == (s.twin.accepted + 1) % 65536 then
      body (s.modTwin fun w => { w with peerAt := some s.now, accepted := h.lseq })
    else s

/-- Both devices exchange SEQ_TABLE and DIGEST again (R388). -/
def State.exchange (s : State) : State := ((s.bump K.twinResyncCount).twinRecord 6 0).sendTables

/-- A reliable frame with RESYNC on a PAIRED link makes this device exchange too. -/
def State.resyncIn (s : State) (h : LinkHdr) : State := if h.resync && s.twin.link == 3 then s.exchange else s

/-! Rejoin (R400). -/

/-- The later of two next sequences under R15; where neither is later, the value of the device of identity 0. -/
def State.laterSeq (s : State) (own peer : Nat) : Nat :=
  let d := serialSub 32 peer own
  if d == 0 then own else if d == 2 ^ 31 then (if s.twinId == 0 then own else peer) else if d < 2 ^ 31 then peer else own

/-- Adopt the sequence of one zone. -/
def State.adopt (s : State) (z : Nat) : State :=
  match (s.zone z).peerSeq with
  | some q => s.modZone z fun x => { x with nextSeq := s.laterSeq x.nextSeq q, peerSeq := none }
  | none => s

/-- Zones that both devices define alike. -/
def State.agreeing (s : State) : List Nat := s.definedZones.filter s.digestAgrees

/-- The peer's digests are in: ZONE_PAIRED, then SEQ_TABLE for every zone (R387, R400 steps 1 and 2). -/
def State.seqPhase (s : State) : State :=
  if s.twin.link != 2 || s.twin.seqSent || s.twin.peerDigs < 4096 then s
  else
    let s := s.agreeing.foldl State.tellPaired s
    let s := s.modTwin fun w => { w with seqSent := true }
    zoneRuns.foldl (fun s r =>
      s.linkSend (.seqTable r.1 (((List.range r.2).map (· + r.1)).map fun z => (s.zone z).nextSeq))) s

/-- Both tables are in: the sequences are taken and REJOIN_DONE sent (R400 steps 3 and 4). -/
def State.donePhase (s : State) : State :=
  if s.twin.link != 2 || !s.twin.seqSent || s.twin.doneSent || s.twin.peerSeqs < 4096 then s
  else ((s.agreeing.foldl State.adopt s).modTwin fun w => { w with doneSent := true }).linkSend .rejoinDone

/-- Acting ownership of one zone is computed anew (R400 step 5), and its held records leave or stay held (step 6). -/
def State.ownAgain (s : State) (z : Nat) : State :=
  let own := s.isDark z
  let peer := s.twin.peerDark.contains z
  let mine := s.ownsZone z
  let s := s.modZone z fun x =>
    { x with paired := true, lossAt := none, handing := false, given := mine && own && !peer, taken := !mine && peer && !own }
  if s.actsFor z then s.sendHeldOf z (fun _ => true) false false else s

/-- Both REJOIN_DONE are acknowledged: the link is PAIRED (R400 steps 4 to 6). -/
def State.tryPair (s : State) : State :=
  let waits := s.twin.unacked.any (fun o => o.msg == .rejoinDone) || s.twin.sendQ.contains .rejoinDone
  if s.twin.link != 2 || !s.twin.doneSent || !s.twin.doneGot || waits then s
  else
    let s := ((s.linkGo 3).twinRecord 5 s.agreeing.length).refreshDark
    let s := s.agreeing.foldl State.ownAgain s
    ((s.definedZones.filter (fun z => !s.digestAgrees z)).foldl State.repair s).matchHeld

/-- The first peer heartbeat is accepted (R386, R391). The first reliable frame carries RESYNC, so that LSEQ orders agree. -/
def State.join (s : State) (h : LinkHdr) : State :=
  let s := (s.refreshDark.linkGo 2).modTwin fun w =>
    { clearJoin w with joinAt := s.now, resyncNext := true, leaving := false, peerDigest := [] }
  let s := { s with zones := s.zones.map fun (e : Nat × Zone) => (e.1, { e.2 with peerSeq := none }) }
  zoneRuns.foldl (fun s r => s.linkSend (.digest r.1 (((List.range r.2).map (· + r.1)).map fun z => (s.zone z).digest)))
    (s.twinRecord 1 h.ident)

/-! Ownership between owner and shadow (R393, R396, R398). -/

/-- Look at every paired zone after a heartbeat or a change of darkness: a configured owner that is dark where the peer is not
stops acting; a device that does not act detects loss of the acting one through the dark bitmap, or abandons a promotion. -/
def State.ownership (s : State) : State :=
  if s.twin.link != 3 then s
  else
    let s := s.refreshDark
    s.definedZones.foldl (fun s z =>
      let x := s.zone z
      let peer := s.twin.peerDark.contains z
      if !x.paired then s
      else if s.ownsZone z && !x.given && x.lossAt.isNone then
        if s.isDark z && !peer then s.modZone z fun x => { x with given := true } else s
      else if x.taken then s
      else if peer && !s.isDark z then
        s.modZone z fun x => { x with lossAt := match x.lossAt with | some a => some a | none => some s.now }
      else s.modZone z fun x => { x with lossAt := none }) s

/-! The frames as commands. -/

/-- HEARTBEAT (R386, R390, R396). -/
def execHeartbeat (t : Tick) (h : LinkHdr) (leaving : Bool) (caps holdMs hbLossUs : Nat) (dark : List Nat) (s : State) :
    Host.Outcome State Fault Refusal :=
  let s := s.advance t
  .next (if s.twin.link == 0 || !s.lane then s
    else if h.ident == s.twinId || holdMs != s.p K.twinHoldMs || hbLossUs != s.p K.twinHbLossUs then
      if s.twin.conflictTold then s else (s.modTwin fun w => { w with conflictTold := true }).twinRecord 2 4
    else
      let take (s : State) : State :=
        s.modTwin fun w => { w with peerAt := some s.now, peerCaps := caps % 4, peerDark := dark, conflictTold := false }
      if s.twin.link == 1 then
        if leaving then s.modTwin fun w => { w with conflictTold := false } else (take s).join h
      else s.linkIn h false fun s =>
        let s := take s
        if leaving then s.linkDown 2 else s.tryPair.ownership)

/-- CONFIRM (R394, R395). -/
def execConfirm (t : Tick) (h : LinkHdr) (recs : List EventRec) (s : State) : Host.Outcome State Fault Refusal :=
  .next ((s.advance t).linkIn h true fun s =>
    let one (s : State) (r : EventRec) : State :=
      let s := s.modTwin fun w => { w with kept := w.kept ++ [{ record := r, since := s.now, matched := false }] }
      if (s.zone r.zone).desc.isSome && !s.actsFor r.zone then
        let q := r.seq % 2 ^ 32
        let last := ((s.zone r.zone).nextSeq + 2 ^ 32 - 1) % 2 ^ 32
        if serialLt 32 last q then s.modZone r.zone fun x => { x with nextSeq := (q + 1) % 2 ^ 32 } else s
      else s
    ((recs.foldl one s).matchHeld.resyncIn h).tryPair)

/-- SEQ_TABLE (R400): the peer's next sequences; on a PAIRED link the later value is taken at once. -/
def execSeqTable (t : Tick) (h : LinkHdr) (firstZone : Nat) (next : List Nat) (s : State) : Host.Outcome State Fault Refusal :=
  .next ((s.advance t).linkIn h true fun s =>
    let s := (next.zipIdx).foldl (fun (s : State) e =>
      let z := firstZone + e.2
      if (s.zone z).desc.isNone then s
      else
        let s := s.modZone z fun x => { x with peerSeq := some (e.1 % 2 ^ 32) }
        if s.twin.link == 3 && (s.zone z).paired then s.adopt z else s) s
    ((s.modTwin fun w => { w with peerSeqs := w.peerSeqs + next.length }).resyncIn h).donePhase.tryPair)

/-- DIGEST (R387, R391, R400). -/
def execDigest (t : Tick) (h : LinkHdr) (firstZone : Nat) (entries : List Nat) (s : State) :
    Host.Outcome State Fault Refusal :=
  .next ((s.advance t).linkIn h true fun s =>
    let s := s.modTwin fun w =>
      { w with peerDigs := w.peerDigs + entries.length,
               peerDigest := (entries.zipIdx).foldl (fun (d : List (Nat × Nat)) e => aset 0 d (firstZone + e.2) (e.1 % 256)) w.peerDigest }
    let s := if s.twin.link == 3 then
        (s.definedZones.filter (fun z => firstZone ≤ z && z < firstZone + entries.length)).foldl State.repair s
      else s
    (s.resyncIn h).seqPhase.donePhase.tryPair)

/-- HANDBACK (R398): the configured owner adopts the sequence, acts at once and answers. Records it has held since the HANDBACK
was sent leave and are confirmed. -/
def execHandback (t : Tick) (h : LinkHdr) (zone next : Nat) (s : State) : Host.Outcome State Fault Refusal :=
  .next ((s.advance t).linkIn h true fun s =>
    let s := if s.twin.link == 3 && s.ownsZone zone && (s.zone zone).paired then
        let s := s.modZone zone fun x => { x with nextSeq := next % 2 ^ 32, given := false, lossAt := none }
        (s.sendHeldOf zone (fun r => h.sendTime ≤ r.record.time) false false).linkSend (.handbackAck zone)
      else s
    (s.resyncIn h).tryPair)

/-- HANDBACK_ACK (R398). -/
def execHandbackAck (t : Tick) (h : LinkHdr) (zone : Nat) (s : State) : Host.Outcome State Fault Refusal :=
  .next ((s.advance t).linkIn h true fun s =>
    let s := if (s.zone zone).handing then (s.modZone zone fun x => { x with handing := false }).twinRecord 4 1 else s
    (s.resyncIn h).tryPair)

/-- PAIRSYNC frame (R382): the peer's stamp of this device's pulse of second sec. -/
def execPairsyncFrame (t : Tick) (h : LinkHdr) (sec stamp frac : Nat) (s : State) : Host.Outcome State Fault Refusal :=
  .next ((s.advance t).linkIn h false fun s =>
    if s.pairsync && s.dev % 1000000000 < 900000000 && sec == s.dev / 1000000000 then
      ((s.psSecond sec).modTime fun b => { b with psPeer := some (stamp * 65536 + frac % 65536) }).psTry
    else s)

/-- REJOIN_DONE (R400). A peer that joins anew while this device stayed PAIRED is answered. -/
def execRejoinDone (t : Tick) (h : LinkHdr) (s : State) : Host.Outcome State Fault Refusal :=
  .next ((s.advance t).linkIn h true fun s =>
    let s := if s.twin.link == 3 then s.linkSend .rejoinDone else s.modTwin fun w => { w with doneGot := true }
    (s.resyncIn h).tryPair)

/-- TWIN_FRAME_CRC_ERROR (R387). -/
def execTwinFrameCrcError (t : Tick) (s : State) : Host.Outcome State Fault Refusal :=
  let s := s.advance t
  .next (if s.lane then s.bump K.twinCrcErrors else s)

/-- HEARTBEAT_SEND (R390): every TWIN.HB_US. -/
def execHeartbeatSend (t : Tick) (s : State) : Host.Outcome State Fault Refusal :=
  let s := s.advance t
  .next (if !s.lane || s.twin.link == 0 || s.sys.resetDue.isSome || s.now < s.twin.hbSent + usT (s.p K.twinHbUs) then s
    else
      let s := s.refreshDark.ownership
      (s.heartbeatOut false).modTwin fun w => { w with hbSent := s.now })

/-- HEARTBEAT_LOSS (R390). -/
def execHeartbeatLoss (t : Tick) (s : State) : Host.Outcome State Fault Refusal :=
  let s := s.advance t
  .next (match s.twin.peerAt with
    | some a => if s.twin.link ≥ 2 && a + usT (s.p K.twinHbLossUs) ≤ s.now then s.linkDown 1 else s
    | none => s)

/-- TWIN_RETX (R388): every unacknowledged frame that is due is resent in order; one that has been resent TWIN.RETX_MAX times is
dropped, the next reliable frame carries RESYNC and both devices exchange their tables. -/
def execTwinRetx (t : Tick) (s : State) : Host.Outcome State Fault Refusal :=
  let s := s.advance t
  let due (o : LinkOut) : Bool := o.sentAt + usT (s.p K.twinRetxUs) ≤ s.now
  .next (if s.twin.link < 2 || !s.lane then s
    else
      let again := s.twin.unacked.filter (fun o => due o && o.resends < s.p K.twinRetxMax)
      let gone := (s.twin.unacked.filter (fun o => due o && s.p K.twinRetxMax ≤ o.resends)).length
      let s1 := again.foldl (fun s o => s.linkWire (s.linkFrame o.msg.type o.resync o.lseq o.msg.payload)) s
      let s2 := s1.modTwin fun w =>
        { w with unacked := (w.unacked.filter (fun o => !(due o && s.p K.twinRetxMax ≤ o.resends))).map (fun (o : LinkOut) =>
            if due o then { o with resends := o.resends + 1, sentAt := s.now } else o) }
      if gone == 0 then s2
      else (((s2.count K.twinRetxFail gone).modTwin fun w => { w with resyncNext := true }).linkDrain 64).exchange)

/-- REJOIN_TIMEOUT (R400). -/
def execRejoinTimeout (t : Tick) (s : State) : Host.Outcome State Fault Refusal :=
  let s := s.advance t
  .next (if s.twin.link == 2 && s.twin.joinAt + msT 100 ≤ s.now then s.linkDown 3 else s)

/-- HELD_RECORD_EXPIRY (R393, R395): records that a rejoin holds stay. -/
def execHeldRecordExpiry (t : Tick) (s : State) : Host.Outcome State Fault Refusal :=
  .next (s.advance t).dropHeld

/-- CONFIRM_KEEP_EXPIRY (R394). -/
def execConfirmKeepExpiry (t : Tick) (s : State) : Host.Outcome State Fault Refusal :=
  let s := s.advance t
  .next (s.modTwin fun w => { w with kept := w.kept.filter s.keepsStill })

/-! Promotion (R396). -/

/-- The promotion of a zone whose loss was detected at a completes now: at a shot-group boundary that ends an evaluation
interval, or 1 ms after detection while no shots launch. -/
def State.promotes (s : State) (a : Tick) : Bool :=
  if s.run.state == 1 then
    s.run.boundary == s.now && 0 < s.run.groups && (s.run.groups - s.pce.ivlGroup) % PS.evalLen s.running == 0 && a < s.now
  else a + msT 1 ≤ s.now

/-- REPLAY of one kept record. -/
def State.replay (s : State) (r : EventRec) : State :=
  (s.deliver { r with flags := recFlags s.twinId (bit r.flags 1) true (bit r.flags 3) (EventRec.sev r) }).bump K.twinReplayed

/-- The promotion of one zone: replay, release, and ownership. -/
def State.promote (s : State) (z : Nat) : State :=
  let s := s.dropHeld
  let ks := s.twin.kept.filter (fun k => k.record.zone == z && s.keepsStill k)
  let s := s.modTwin fun w => { w with kept := w.kept.filter (fun k => k.record.zone != z) }
  let s := ks.foldl (fun s k => s.replay k.record) s
  let mine := s.ownsZone z
  let s := s.modZone z fun x => { x with lossAt := none, taken := !mine, given := false }
  let s := s.sendHeldOf z (fun h => !h.matched) false true
  if s.twin.link == 3 then s else s.repair z

/-- PROMOTION (R396). A zone that has become dark here is not promoted. -/
def execPromotion (t : Tick) (s : State) : Host.Outcome State Fault Refusal :=
  let s := (s.advance t).refreshDark
  let due := s.definedZones.filter fun z => match (s.zone z).lossAt with | some a => s.promotes a | none => false
  let zs := due.filter (fun z => !s.isDark z)
  let s := (due.filter s.isDark).foldl (fun s z => (s.modZone z fun x => { x with lossAt := none }).repair z) s
  .next (if zs.isEmpty then s else (zs.foldl State.promote s).twinRecord 3 zs.length)

/-- DARK_RETURN (R392). -/
def execDarkReturn (t : Tick) (zone : Nat) (s : State) : Host.Outcome State Fault Refusal :=
  let s := (s.advance t).refreshDark
  .next (match (s.zone zone).desc with
    | some d =>
      if (s.zone zone).dark && !s.darkCond d && (s.zone zone).darkAt + secT (s.p K.twinReturnS) ≤ s.now then
        s.modZone zone fun x => { x with dark := false }
      else s
    | none => s)

/-- HANDBACK_INITIATE (R398). -/
def execHandbackInitiate (t : Tick) (zone : Nat) (s : State) : Host.Outcome State Fault Refusal :=
  let s := (s.advance t).refreshDark
  let x := s.zone zone
  .next (if s.twin.link == 3 && x.paired && x.taken && !x.handing && !s.isDark zone && !s.twin.peerDark.contains zone then
      (s.modZone zone fun x => { x with taken := false, handing := true }).linkSend (.handback zone x.nextSeq)
    else s)

/-! COMMIT, status and control (R385, R402, R403). -/

/-- A COMMIT has taken effect over the set old: a change of TWIN.ENABLE or TWIN.IDENTITY makes the link anew (R385). -/
def State.twinCommit (s : State) (old : PSet) : State :=
  if PS.g old K.twinEnable == s.p K.twinEnable && PS.g old K.twinIdentity == s.p K.twinIdentity then s
  else
    let s := { s with zones := s.zones.map fun (e : Nat × Zone) => (e.1, { e.2 with lossAt := none }) }
    let s := (s.linkGo (b2n (s.pB K.twinEnable))).modTwin fun w =>
      { clearJoin w with peerAt := none, peerDigest := [], peerDark := [], held := [], kept := [], leaving := false, forceDark := false }
    s.definedZones.foldl State.repair s

/-- The 64 bytes of TWIN_STATUS (R402). -/
def State.twinStatusBytes (s : State) : List Byte :=
  let zs := s.definedZones
  let n (f : Nat → Bool) : Nat := (zs.filter f).length
  let age := match s.twin.peerAt with | some a => min ((s.now - a) / usT 1) 0xFFFFFFFF | none => 0xFFFFFFFF
  leBytes 1 (s.p K.twinEnable) ++ leBytes 1 s.twinId ++ leBytes 1 s.twin.link ++
    leBytes 1 (b2n s.capA + 2 * b2n s.capT + 4 * (s.twin.peerCaps % 4)) ++ leBytes 4 0 ++ leBytes 8 s.twin.linkChange ++
    leBytes 2 (n fun z => s.ownsZone z && s.actsFor z) ++ leBytes 2 (n fun z => !s.ownsZone z && s.actsFor z) ++
    leBytes 2 (n fun z => (s.zone z).paired && !s.actsFor z) ++ leBytes 2 (n fun z => !(s.zone z).paired) ++
    leBytes 2 (min s.twin.held.length 0xFFFF) ++ leBytes 2 (n s.isDark) ++ leBytes 4 age ++ leBytes 32 0

/-- TWIN_STATUS (R402). -/
def State.twinStatus (s : State) (q : Req) : State :=
  s.gate q 0x00A0 cObserve true fun s id =>
    if payLen q != 0 then s.final id .range [] else s.ok id s.refreshDark.twinStatusBytes

def execTwinStatus (t : Tick) (q : Req) (s : State) : Host.Outcome State Fault Refusal := .next ((s.advance t).twinStatus q)

/-- TWIN_CONTROL (R403). -/
def State.twinControl (s : State) (q : Req) : State :=
  s.gate q 0x00A1 cMaintain true fun s id =>
    let act := payU q 0 1
    let arg := payU q 4 4
    if payLen q != 8 || payU q 1 3 != 0 || act == 0 || 3 < act || (act != 3 && arg != 0) || 1 < arg then s.final id .range []
    else if (act == 1 && s.twin.link != 3) || s.twin.link == 0 then s.final id .state []
    else match act with
      | 1 => (s.modTwin fun w => { w with resyncNext := true }).exchange.ok id []
      | 2 => s.sendLeaving.ok id []
      | _ => ((s.refreshDark.modTwin fun w => { w with forceDark := arg == 1 }).refreshDark.ownership).ok id []

def execTwinControl (t : Tick) (q : Req) (s : State) : Host.Outcome State Fault Refusal := .next ((s.advance t).twinControl q)

end Sys2Proof.Machine
end

