-- ==== Sys2Proof/Machine/Commit.lean ====
section
/-!
DEFINITION. COMMIT: the checks of the staged set (R21, R58 to R60 and the conditions of every chapter), and what taking
effect does to each block (R20, R60, R140, R167, R191, R204, R212, R219, R221, R268, R271, R280, R385, R430).
-/
namespace Sys2Proof.Machine

/-- The set that a new snapshot will replace (R59). -/
def State.commitBase (s : State) : PSet :=
  match s.commits.getLast? with
  | some c => mergeSet s.running c.snap
  | none => s.running

/-- Some key of the list differs between two sets. -/
def differ (a b : PSet) (ks : List Nat) : Bool := ks.any (fun k => setGet a k != setGet b k)

/-- Keys that size the regions (R280). -/
def sizeKeys : List Nat := [K.sillBaseMib, K.sillHeartMib, K.chanFreshMib]
/-- Keys whose change resets the unwrapper (R167). -/
def unwrapKeys : List Nat :=
  [K.synthToneMask, K.synthChirpBwKhz, K.synthPulseNs, K.pceSpatialMode, K.pceBins, K.pceGauge]
/-- Keys whose change discards a Raman accumulation (R191). -/
def ramanKeys : List Nat :=
  [K.thermRamanPathNs, K.thermRamanCells, K.thermRamanCellLog2, K.thermRamanAccLog2, K.synthShotPeriodNs, K.synthRamanMode,
   K.synthRamanK, K.synthRamanPulseNs, K.synthRamanDelayNs]
/-- The thermal sections (R204, R268). -/
def sectionKeys : List Nat := [K.thermSections, K.thermSectionFirstBin, K.thermSectionBins]
/-- CHAN keys marked COMMIT (R221, R232). -/
def chanKeys : List Nat :=
  [K.chanChannels, K.chanFirstBin, K.chanDecimation, K.chanCombine, K.chanFreshMib, K.chanHeartDecim, K.chanHeartEn,
   K.chanBaseTiles, K.chanBandSlices, K.chanShiftSlices]

/-! Conditions refused with STATE (R60). -/

/-- R141, R232, R280, R385. -/
def State.commitState (s : State) (base new : PSet) : Bool :=
  (s.shots && s.pB K.calAuto && PS.drydown new < ((nsT 4000 : Nat) : Int)) ||
  (differ base new sizeKeys && (s.run.state != 0 || s.cap.slots.any (fun c => c.state != 0))) ||
  (s.run.state == 1 && differ base new [K.twinEnable, K.twinIdentity])

/-! Conditions refused with RANGE, each with the key it names. -/

/-- The largest sum of AMPk over pulses that cover one instant, and the first slot of that sum (R74). -/
def PS.ampSum (ps : PSet) : Nat × Nat :=
  let ks := tones ps
  let n := ks.length
  let m := min n (cdiv (pulseT ps * n) (period ps))
  let sum (i : Nat) : Nat := ((List.range m).map (fun j => g ps (K.synthAmp + nth 0 ks ((i + j) % n)))).sum
  (List.range n).foldl (fun best i => if best.1 < sum i then (sum i, nth 0 ks i) else best) (0, nth 0 ks 0)

/-- Conditions on the SYNTH and PCE keys (R74, R80, R82, R87, R88, R170). RAMAN_DELAY_NS and RAMAN_SLOT are judged only in the mode of
RAMAN_MODE that uses them: DESIGN CHOICE (log 123). -/
def PS.synthRange (ps : PSet) : List (Bool × Nat) :=
  let n := nTones ps
  let sum := ampSum ps
  [ (65024 < sum.1, K.synthAmp + sum.2),
    (drydown ps < ((nsT 1000 : Nat) : Int), K.synthShotPeriodNs),
    (period ps ≤ n * (pulseT ps + nsT (g ps K.synthSoaLeadNs + g ps K.synthSoaLagNs)), K.synthShotPeriodNs),
    (period ps ≤ n * nsT (2 * g ps K.synthLaunchWindowNs), K.synthShotPeriodNs),
    (g ps K.synthRamanMode == 1 && g ps K.synthShotPeriodNs ≤ g ps K.synthRamanDelayNs, K.synthRamanDelayNs),
    (g ps K.synthRamanMode == 2 && !bit (g ps K.synthToneMask) (g ps K.synthRamanSlot), K.synthRamanSlot),
    (g ps K.pceBins ≤ g ps K.pceGauge, K.pceGauge) ]

/-- The highest cell that a section or the coil span uses in either lane (R193, R194, R208). -/
def PS.topCell (ps : PSet) (coilM : Option Nat) : Int :=
  let gx := max (g ps K.thermGiAs) (g ps K.thermGiS)
  let sec := cellOf ps gx (centre2 ps (g ps K.thermSections - 1)) + ((g ps K.thermRamanAvgCells - 1) / 2 : Nat)
  match coilM with
  | some m => match (coilCells ps gx m).getLast? with
    | some c => max sec c
    | none => sec
  | none => sec

/-- Conditions on the thermal sections (R208). coilM: COIL_LENGTH_M while the coil box record is VALID. -/
def PS.thermRange (ps : PSet) (coilM : Option Nat) : List (Bool × Nat) :=
  if g ps K.thermSections == 0 then []
  else
    [ (g ps K.synthRamanMode == 0, K.synthRamanMode),
      (g ps K.pceBins < g ps K.thermSectionFirstBin + g ps K.thermSections * g ps K.thermSectionBins, K.thermSections),
      (ramanInterval ps < recordT ps, K.thermRamanCells),
      (g ps K.thermRamanCells < g ps K.thermDarkFirstCell + g ps K.thermDarkCells, K.thermDarkFirstCell),
      (((g ps K.thermDarkFirstCell : Nat) : Int) ≤ topCell ps coilM, K.thermDarkFirstCell),
      (g ps K.thermShiftMaxLag ≤ g ps K.thermShiftRenewLag + 1, K.thermShiftRenewLag),
      ((match coilM with | some m => m < 2 * g ps K.thermCoilGuardM | none => false), K.thermCoilGuardM) ]

/-- Kind of the image a slice holds, and how many sets its state has room for (R245); none: no program. -/
def State.sliceRoom (s : State) (i : Nat) : Option (Nat × Option Nat) :=
  match (s.slc i).image with
  | some im => some (im.kind, if im.stateBytesSet == 0 then none else some (im.stateLimit / im.stateBytesSet))
  | none => none

/-- Slice at place i of n, dealt total things round-robin, is not of this kind or has no room for its share (R245). -/
def State.sliceBad (s : State) (slot kind i n total : Nat) : Bool :=
  match s.sliceRoom slot with
  | some (k, room) => k != kind || (match room with | some r => r < cdiv (total - i) n | none => false)
  | none => false

/-- A follow entry of SLICE.FOLLOWn is refused (R248). -/
def PS.followBad (ps : PSet) (n : Nat) : Bool :=
  let w := g ps (K.sliceFollow + n)
  let band := g ps K.chanBandSlices
  (List.range 4).any fun i =>
    let home := w / 256 ^ i % 256
    home != 0xFF && (4 * n + i < band + g ps K.chanShiftSlices || band ≤ home)

/-- Conditions on the channels and the slices (R209, R219, R232, R245, R248, R259). -/
def State.chanRange (s : State) (ps : PSet) : List (Bool × Nat) :=
  let g := PS.g ps
  let band := g K.chanBandSlices
  let shift := g K.chanShiftSlices
  let on := g K.thermSections != 0 && g K.thermShiftEn == 1
  let sets := (PS.setHeads ps).length
  let wins := if on then PS.windows ps else 0
  let main : List (Bool × Nat) := [ (g K.pceBins < g K.chanFirstBin + g K.chanChannels * g K.chanDecimation, K.chanChannels),
    (128 < band + shift || (List.range (band + shift)).any (fun i => (s.sliceRoom i).isNone), K.chanBandSlices),
    ((List.range band).any (fun i => s.sliceBad i 0 i band sets), K.chanBandSlices),
    ((List.range shift).any (fun i => s.sliceBad (band + i) 1 i shift wins), K.chanShiftSlices),
    (on && shift == 0, K.chanShiftSlices),
    (s.zones.any (fun e => match e.2.desc with | some d => g K.chanChannels ≤ d.last | none => false), K.chanChannels) ]
  main ++ (List.range 32).map (fun n => (PS.followBad ps n, K.sliceFollow + n))

/-- Conditions on zones, tiers, sessions and twin operation (R278, R280, R336, R390, R397). -/
def State.otherRange (s : State) (base ps : PSet) : List (Bool × Nat) :=
  let g := PS.g ps
  let n := PS.nTones ps
  [ (g K.pceBins < g K.zoneFibreEndBin, K.zoneFibreEndBin),
    (s.archiveMibOf ps < 512, K.sillArchiveMib),
    (g K.sillHeartMib == 0 && g K.chanHeartEn == 1, K.sillHeartMib),
    (s.topRaised base ps (s.topSum base) (s.topSum ps), K.atomPcieTopLimitMbs),
    (g K.twinHbLossUs ≤ g K.twinRetxUs * g K.twinRetxMax, K.twinRetxMax),
    (g K.twinHoldMs * 1000000 * n < (g K.twinHbLossUs * 1000 + 1000000) * n + 256 * g K.synthShotPeriodNs, K.twinHoldMs) ]

/-- Keys named by the RANGE conditions that fail. -/
def State.commitRange (s : State) (base ps : PSet) : List Nat :=
  let coil := if s.modValid 4 then some (s.recF 4 34 2) else none
  let hits := PS.synthRange ps ++ PS.thermRange ps coil ++ s.chanRange ps ++ s.otherRange base ps
  (hits.filterMap (fun e => if e.1 then some e.2 else none)) ++ (s.dispRange ps).toList

/-! Taking effect. -/

/-- Resets of the signal chain at the boundary of a COMMIT over the set old (R167, R177, R181, R199, R212, R221, R271). -/
def State.commitChain (s : State) (old : PSet) : State :=
  let unwrap := differ old s.running unwrapKeys
  let tiles := unwrap || differ old s.running [K.synthShotPeriodNs]
  let chan := differ old s.running chanKeys
  let s := if unwrap then ((s.ivlRestart old s.run.groups).modPce fun p => { p with resets := p.resets + 1 }).shiftReset else s
  let s := if unwrap || differ old s.running [K.zoneLossAvgLog2, K.zoneLossRefLog2] then
      s.modProf fun x => { x with lossCnt := 0, lossSum := [], lossRef := [] } else s
  let s := if tiles then s.modPce fun p => { p with tileEpoch := p.tileEpoch + 1, rowCnt := [], tileNo := [] } else s
  let s := if unwrap || chan then s.chainResetAll else s
  let s := if tiles || chan then s.modSill fun x => { x with hearts := x.hearts.filter (·.indexed) } else s
  let all := List.range (PS.groups s.running)
  let s := s.modSill fun x => { x with afterCommit := all }
  (s.modPce fun p => { p with cons := p.cons.filter (· < all.length) }).planModes

/-- What a COMMIT over the set old does to the temperature path (R191, R204, R268). -/
def State.commitTherm (s : State) (old : PSet) : State :=
  let s := if differ old s.running ramanKeys then s.ramanDrop else s
  -- a new stride makes other windows (DEDUCED, log 117)
  let s := if differ old s.running [K.thermShiftStride] then s.shiftReset.modTherm fun h => { h with shifts := [] } else s
  if differ old s.running sectionKeys then s.accordReset
  else if differ old s.running [K.zoneRiseWindowS] then
    s.modTherm fun h =>
      { h with sections := h.sections.map fun (e : Nat × Section) => (e.1, { e.2 with smooth := none, rate := 0 }) }
  else s

/-- The snapshot of the oldest pending COMMIT takes effect at device time time in shot group shot, and its final response
leaves (R20, R60). -/
def State.commitEffect (s : State) (shot time : Nat) : State :=
  match s.commits with
  | [] => s
  | c :: rest =>
    let old := s.running
    let s := { s with commits := rest, running := mergeSet old c.snap }
    let s := (s.commitChain old).commitTherm old
    let s := if differ old s.running sizeKeys then s.emptyTiers else s
    let s := (((s.calCommit old).twinCommit old).dispCommit old).refreshDark
    s.final c.who .ok (leBytes 4 shot ++ leBytes 8 time)

/-- Shot number of an effect at no boundary (R60). -/
def noShot : Nat := 0xFFFFFFFF

/-- COMMIT_LOAD_COMPLETE (R58 to R60): the oldest pending COMMIT has loaded; while SYS.RUN_STATE is 0 or 3 it takes effect. -/
def execCommitLoadComplete (t : Tick) (s : State) : Host.Outcome State Fault Refusal :=
  let s := s.advance t
  .next (match s.commits with
    | [] => s
    | c :: rest =>
      if c.loaded then s
      else
        let s := { s with commits := { c with loaded := true, loadedAt := s.now } :: rest }
        if s.run.state == 0 || s.run.state == 3 then s.commitEffect noShot s.dev else s)

/-- COMMIT (R58 to R60). -/
def State.commit (s : State) (q : Req) : State :=
  s.gate q 0x0004 cConfigure true fun s id =>
    if payLen q != 4 || 1 < payU q 0 4 then s.final id .range []
    else if 2 ≤ s.commits.length then s.final id .busy []
    else
      let base := s.commitBase
      let new := mergeSet s.running s.staged
      if s.commitState base new then s.final id .state []
      else match s.commitRange base new with
        | k :: ks => s.final id .range (leBytes 2 (ks.foldl min k))
        | [] =>
          let s := s.takes id
          if payU q 0 4 == 1 then s.final id .ok (leBytes 4 noShot ++ leBytes 8 s.dev)
          else { s with commits := s.commits ++ [{ who := id, snap := s.staged, loaded := false, loadedAt := 0 }] }

def execCommit (t : Tick) (q : Req) (s : State) : Host.Outcome State Fault Refusal := .next ((s.advance t).commit q)

/-- At a shot-group boundary: a COMMIT that had loaded before it takes effect (R20). -/
def State.commitAtBoundary (s : State) (b : Tick) (shot : Nat) : State :=
  match s.commits with
  | c :: _ => if c.loaded && c.loadedAt < b then s.commitEffect shot (s.devRound b) else s
  | [] => s

/-- SYS.RUN_STATE has returned to 0: a loaded COMMIT takes effect (R60). -/
def State.commitAtEnd (s : State) : State :=
  match s.commits with
  | c :: _ => if c.loaded then s.commitEffect noShot s.dev else s
  | [] => s

end Sys2Proof.Machine
end

