-- ==== Sys2Proof/Machine/Run.lean ====
section
/-!
DEFINITION. Launch schedule, launch monitor, runs and the interlock (chapter 03): START and STOP, shot-group boundaries,
launches, crossings, the end of a run, ILK_N and ILK_CLEAR.
-/
namespace Sys2Proof.Machine

/-! Ends of a run (R91 to R94). -/

/-- Rows of the group that begins at boundary b leave an open tile: rows are a stagger, or a period, apart. -/
def State.trimTile (s : State) (b : Tick) (t : Tile) : Tile :=
  if t.dropped || t.lastTick < b || t.samples == 0 then t
  else
    let n := min t.samples ((t.lastTick - b) / max 1 t.step + 1)
    let last := t.lastTick - n * t.step
    let gone := t.marks.drop (t.samples - n)
    let less (f : RowMark → Nat) (v : Nat) : Nat := v - (gone.map f).sum
    { t with samples := t.samples - n, slotOf := t.slotOf.take (t.samples - n), lastTick := last,
             stopTime := s.devRound (last + t.step), marks := t.marks.take (t.samples - n), subst := less (·.subst) t.subst,
             ovr := less (·.ovr) t.ovr, slip := less (·.slip) t.slip, predicted := less (·.predicted) t.predicted }

/-- The launched tones of an incomplete group are discarded (R91): shots, rows and what they left in open tiles. -/
def State.discardGroup (s : State) : State :=
  let sh := s.run.shot
  let b := s.run.boundary
  let mine (js : List ShotJob) : Bool := match js with | j :: _ => j.shot == sh && j.boundary == b | [] => false
  let heads := s.pce.jobs.map mine
  let s := s.modPce fun p =>
    { p with lines := p.lines.zipIdx.map (fun e => if nth false heads e.2 then [] else e.1),
             part := p.part.zipIdx.map (fun e => if nth false heads e.2 then [] else e.1),
             partSlips := p.partSlips.zipIdx.map (fun e => if nth false heads e.2 then 0 else e.1),
             jobs := p.jobs.map (fun js => js.filter (fun j => !(j.shot == sh && j.boundary == b))),
             profSum := p.profSum.filter (fun e => e.1 / 4096 != sh), profCnt := p.profCnt.filter (fun e => e.1 / 4096 != sh) }
  s.modSill fun x =>
    { x with elastic := x.elastic.filter (fun r => !(r.shot == sh && b ≤ r.instant)),
             openTiles := (x.openTiles.map (s.trimTile b)).filter (fun t => t.dropped || t.samples != 0) }

/-- Nothing more launches: the run's last complete group is settled and SYS.RUN_STATE reads 2. cut: a pulse in progress is
cut, which leaves its group incomplete. Launch windows already open stay so. Corrections that wait for a boundary take effect
(R131, R135). -/
def State.endLaunches (s : State) (cut : Bool) : State :=
  let whole := s.allLaunched && !(cut && s.pulsing)
  let last := if whole then s.run.shot else (s.run.shot + 2 ^ 32 - 1) % 2 ^ 32
  let s := s.dropGates
  let s := if whole then s else s.discardGroup
  (((s.modRun fun r =>
    { r with state := 2, stopMode := none, lastShot := last, nextShot := (last + 1) % 2 ^ 32,
             lastLaunch := if whole then r.boundary + PS.launchOff s.running (PS.nTones s.running - 1)
               else r.lastLaunch }).calEffect s.dev).corrEffect).refreshDark

/-- SYS.RUN_STATE returns to 0 from 3: the START completes with ABORTED. -/
def State.abortStart (s : State) : State :=
  let s := s.dropGates
  let s1 := match s.run.startReq with | some q => s.final q .aborted [] | none => s
  s1.modRun fun r => { r with state := 0, startReq := none }

/-- A run ends as STOP mode 1 does; a START that waits is ABORTED (R94, R115). -/
def State.runEnds (s : State) (cut : Bool) : State :=
  if s.run.state == 1 then s.endLaunches cut
  else if s.run.state == 3 then s.abortStart
  else s

/-! START (R89, R90). -/

/-- Conditions refused with STATE (R89, R144). -/
def State.startState (s : State) : Bool :=
  s.clk.mode != 4 || s.run.state != 0 || s.ilk.latched || !([0, 1, 2].all s.modValid) ||
    (s.pB K.calAuto && (PS.drydown s.running < ((nsT 4000 : Nat) : Int) || !s.recv.passed)) || s.bench

/-- SYS.RUN_STATE reads 3: a START waits for its first shot group. -/
def State.startWaits (s : State) (id : Option ReqId) : State :=
  s.modRun fun r =>
    { r with state := 3, startReq := id, rampsDone := some s.now, stopMode := none, stopReqs := [],
             slots := r.slots.map fun (x : ToneSlot) =>
               { x with launched := false, window := false, crossing := none, extra := false } }

/-- START. -/
def State.start (s : State) (q : Req) : State :=
  s.gate q 0x0010 cOperate true fun s id =>
    if q.mb == 19 then s.final id .denied []
    else if payLen q != 4 || payU q 0 4 != 0 then s.final id .range []
    else if s.startState then s.final id .state []
    else (s.takes id).startWaits (some id)

def execStart (t : Tick) (q : Req) (s : State) : Host.Outcome State Fault Refusal := .next ((s.advance t).start q)

/-- Steps of a calibration run and of a live test are placed in the group that begins (R133, R134). -/
def State.placeSteps (s : State) : State :=
  let n (s : State) : Nat := match s.recv.cal with | some c => c.placed.length | none => 0
  let slot := match s.recv.cal with | some c => c.slot | none => 0
  let s1 := s.calPlace
  s1.testPlace (if n s < n s1 then some slot else none)

/-- RUN_FIRST_GROUP (R89, R90, R167, R177, R181, R212, R215, R221). -/
def execRunFirstGroup (t : Tick) (s : State) : Host.Outcome State Fault Refusal :=
  let s := s.advance t
  .next (match s.run.state == 3, s.firstBoundary with
    | true, some t0 =>
      if s.now < t0 then s
      else
        let req := s.run.startReq
        -- conditions of darkness that end with the first launch held up to now (R392)
        let s := (s.woken [2, 3, 4, 11]).refreshDark.modRun fun r =>
          { r with state := 1, startReq := none, t0 := t0, boundary := t0, shot := r.nextShot, firstShot := r.nextShot,
                   everRun := true, stopMode := none }
        let s := (s.ivlRestart s.running 0).modRun fun r => { r with groups := 0 }
        let s := s.modPce fun p =>
          { p with resets := p.resets + 1, tileEpoch := p.tileEpoch + 1, rowCnt := [], tileNo := [], skipShot := [], profSum := [],
                   profCnt := [], ivlRun := p.ivlBase }
        let s := s.modSill fun x => { x with firstRun := List.range (PS.groups s.running), skipNext := [] }
        let s := (s.chainResetAll.shiftReset.planModes.placeSteps).refreshDark
        match req with
        | some q => s.final q .ok (leBytes 4 s.run.shot ++ leBytes 8 (s.devRound t0))
        | none => s
    | _, _ => s)

/-! Boundaries and launches (R18 to R20, R78, R79, R83, R88, R91). -/

/-- Lanes that overranged in the group that ends (R125). -/
def State.overrangeHealth (s : State) : State :=
  let s1 := (List.range 4).foldl (fun (s : State) l =>
    if nth false s.recv.laneOvr l then
      let n := nth 0 s.recv.ovrRun l + 1
      let s := s.modRecv fun r => { r with ovrRun := modAt (fun _ => n) r.ovrRun l }
      if s.p K.recvOvrHealthGroups ≤ n && !nth false s.recv.ovrRaised l then
        (s.modRecv fun r => { r with ovrRaised := modAt (fun _ => true) r.ovrRaised l }).health 6 l 0 0xFF
      else s
    else s.modRecv fun r =>
      { r with ovrRun := modAt (fun _ => 0) r.ovrRun l, ovrRaised := modAt (fun _ => false) r.ovrRaised l }) s
  s1.modRecv fun r => { r with laneOvr := [false, false, false, false] }


/-- SHOT_GROUP_BOUNDARY (R18 to R20, R125, R131, R134, R135). -/
def execShotGroupBoundary (t : Tick) (s : State) : Host.Outcome State Fault Refusal :=
  let s := s.advance t
  let b := s.run.boundary + PS.period s.running
  .next (
    if s.run.state != 1 || s.run.stopMode.isSome || !s.allLaunched || s.now < b then s
    else
      let s := s.modRun fun r =>
        { r with boundary := b, shot := (r.shot + 1) % 2 ^ 32, groups := r.groups + 1,
                 lastLaunch := r.boundary + PS.launchOff s.running (PS.nTones s.running - 1),
                 slots := r.slots.map fun (x : ToneSlot) => { x with launched := false } }
      ((s.overrangeHealth.commitAtBoundary b s.run.shot).calEffect (s.devRound b)).corrEffect.placeSteps)

/-- TONE_LAUNCH (R71 to R73, R75, R76, R78, R79, R83, R88, R91). -/
def execToneLaunch (t : Tick) (slot : Nat) (s : State) : Host.Outcome State Fault Refusal :=
  let s := s.advance t
  .next (match s.posOf slot with
    | none => s
    | some pos =>
      let ps := s.running
      let l := s.launchAt pos
      let before := (PS.tones ps).take pos
      if s.run.state != 1 || (s.slot slot).launched || !before.all (fun k => (s.slot k).launched) || s.now < l then s
      else
        let disp := s.displaced slot s.run.shot
        let j : ShotJob :=
          { shot := s.run.shot, pos := pos, launch := l, boundary := s.run.boundary, origin := 0, subst := false,
            displaced := disp, ovr := false, epoch := s.pce.resets, tileEpoch := s.pce.tileEpoch, ps := ps, bins := 0,
            corr := s.recv.corr, ivl := s.ivlNow ps,
            ivlLast := (s.run.groups - s.pce.ivlGroup) % PS.evalLen ps + 1 == PS.evalLen ps }
        let s := s.modPce fun p => { p with jobs := modAt (fun js => js ++ [j]) p.jobs slot }
        let s := s.modSlot slot fun x => { x with launched := true, launch := l, shot := s.run.shot, window := !disp, ps := ps }
        let s :=
          if disp then s
          else
            let m := gateOf ps l (PS.g ps K.synthModLeadNs) (PS.g ps K.synthModLagNs)
            let a := gateOf ps l (PS.g ps K.synthSoaLeadNs) (PS.g ps K.synthSoaLagNs)
            let w := s.pulseCodes ps slot l
            ((s.count K.synthClipCount w.2.2).modRun fun r =>
              { r with modgate := addGate (nsT 10) m r.modgate, soagate := addGate 0 a r.soagate,
                       wave := some (w.1, w.2.1) }).perfEvent 0x0301 slot 0xFF 1
        -- the virtual edge of TIU source 9, at the exact instant of R79 (R373)
        let s := if disp then s else s.tiuEdge 9 l
        if s.run.stopMode.isSome && s.allLaunched then s.endLaunches false else s)

/-! The launch monitor (R84 to R86). -/

/-- An instant lies within the launch window of a launch at l. -/
def inWindow (ps : PSet) (l t : Tick) : Bool :=
  (((t : Int) - l) * 1000 - (PS.g ps K.synthLaunchPathPs * 6881280 : Nat)).natAbs ≤ PS.g ps K.synthLaunchWindowNs * 6881280000

/-- Launch offset of a crossing at t for a launch at l, in 1/65,536 ns (R84). -/
def launchOffset (ps : PSet) (l t : Tick) : Int :=
  rdivI (((t : Int) - l) * 1000 - (PS.g ps K.synthLaunchPathPs * 6881280 : Nat)) 105000

/-- The launch whose window a slot's crossings are judged by, with the set of its group (R20): its open window's, or its next coming
launch; none where no tone of the slot launches. -/
def State.windowLaunch (s : State) (slot : Nat) : Option (Tick × PSet) :=
  let x := s.slot slot
  if x.window then some (x.launch, x.ps)
  else (s.comingLaunches.find? (fun e => e.1 == slot)).map (·.2)

/-- LAUNCH_MON_CROSSING (R84, R85); the raw crossing is also an edge of TIU source 8 (R373). -/
def execLaunchMonCrossing (t : Tick) (s : State) : Host.Outcome State Fault Refusal :=
  let s := s.advance t
  let s := s.tiuEdge 8 s.now
  .next ((List.range 8).foldl (fun (s : State) k =>
    match s.windowLaunch k with
    | some (l, ps) =>
      if inWindow ps l s.now then
        s.modSlot k fun x =>
          match x.crossing with
          | none => { x with crossing := some (launchOffset ps l s.now) }
          | some _ => { x with extra := true }
      else s
    | none => s) s)

/-- The mean of a tone's accepted offsets that the origin uses (R84, R85), rounded to nearest with ties upward, as R158 rounds the
offset (assumption 112: R84 states no rounding). -/
def meanOffset (n : Nat) (xs : List Int) : Int := rdivI (xs.take (2 ^ n)).sum (xs.take (2 ^ n)).length

/-- Give the newest shot of a slot its origin. -/
def State.setOrigin (s : State) (slot shot : Nat) (o : Int) (subst : Bool) : State :=
  let put (js : List ShotJob) : List ShotJob :=
    js.map fun (j : ShotJob) => if j.shot == shot then { j with origin := o, subst := subst } else j
  (s.modPce fun p => { p with jobs := modAt put p.jobs slot }).modSlot slot fun x => { x with origin := o, subst := subst }

/-- LAUNCH_WINDOW_END (R84 to R86). -/
def execLaunchWindowEnd (t : Tick) (slot : Nat) (s : State) : Host.Outcome State Fault Refusal :=
  let s := s.advance t
  let x := s.slot slot
  let ps := x.ps
  let n := PS.g ps K.synthOriginAvgLog2
  .next (
    if !x.window || s.now < x.launch + psT (PS.g ps K.synthLaunchPathPs) + nsT (PS.g ps K.synthLaunchWindowNs) then s
    else
      let s := s.modSlot slot fun x => { x with window := false, crossing := none, extra := false }
      match x.crossing, x.extra with
      | some o, false =>
        let offs := (o :: x.offsets).take 1024
        let s := s.modSlot slot fun x => { x with offsets := offs, substRun := 0, substRaised := false }
        (s.modRun fun r => { r with lastOffset := o }).setOrigin slot x.shot (if n == 0 then o else meanOffset n offs) false
      | _, _ =>
        let s := (s.bump K.synthLaunchSubstCount).setOrigin slot x.shot (if n == 0 then 0 else meanOffset n x.offsets) true
        let s := s.modSlot slot fun x => { x with substRun := x.substRun + 1 }
        if 16 ≤ x.substRun + 1 && !x.substRaised then
          (s.modSlot slot fun x => { x with substRaised := true }).health 7 slot 0 0xFF
        else s)

/-! STOP (R91 to R93). -/

/-- Payload of a STOP's final response. -/
def stopPayload (shot dev : Nat) : List Byte := leBytes 4 shot ++ leBytes 8 dev

/-- STOP. -/
def State.stop (s : State) (q : Req) : State :=
  s.gate q 0x0011 cOperate true fun s id =>
    if q.mb == 19 then s.final id .denied []
    else if payLen q != 4 || 1 < payU q 0 1 || payU q 1 3 != 0 then s.final id .range []
    else
      let s := s.takes id
      match s.run.state with
      | 0 => s.final id .ok (stopPayload s.run.lastShot s.run.lastEnd)
      | 3 => s.abortStart.final id .ok (stopPayload s.run.lastShot s.dev)
      | 1 =>
        let s := s.modRun fun r => { r with stopReqs := r.stopReqs ++ [id] }
        if payU q 0 1 == 1 || s.allLaunched then s.endLaunches false
        else s.modRun fun r => { r with stopMode := some 0 }
      | _ => s.modRun fun r => { r with stopReqs := r.stopReqs ++ [id] }

def execStop (t : Tick) (q : Req) (s : State) : Host.Outcome State Fault Refusal := .next ((s.advance t).stop q)

/-- The latest end of processing (R92): R + 26.5 µs after the last launch. -/
def State.processBound (s : State) : Tick := s.run.lastLaunch + PS.roundTrip s.running + nsT 26500

/-- A stopping run is over (R60, R92, R273): SYS.RUN_STATE returns to 0, and what it left in the engine is dropped. -/
def State.runOver (s : State) : State :=
  let s := s.modPce fun p =>
    { p with jobs := List.replicate 8 [], lines := List.replicate 8 [], part := List.replicate 8 [],
             partSlips := List.replicate 8 0 }
  let s := s.suspendAll
  let reqs := s.run.stopReqs
  let s := s.modRun fun r => { r with state := 0, stopReqs := [], stopMode := none, lastEnd := s.dev }
  let s := reqs.foldl (fun (s : State) q => s.final q .ok (stopPayload s.run.lastShot s.run.lastEnd)) s
  (s.commitAtEnd).refreshDark

/-- RUN_PROCESSING_DONE (R60, R92, R273): no shot is left in the engine, or its bound has passed. -/
def execRunProcessingDone (t : Tick) (s : State) : Host.Outcome State Fault Refusal :=
  let s := s.advance t
  .next (
    if s.run.state != 2 || !(s.pce.jobs.all List.isEmpty || s.processBound ≤ s.now) then s else s.runOver)

/-! The interlock (R94 to R98). -/

/-- The latch sets (R94 to R96, R114, R121, R273). -/
def State.ilkTrip (s : State) : State :=
  let s := { s with ilk := { s.ilk with latched := true, trip := s.dev } }
  let run := s.run.state == 1
  let s := s.runEnds true
  let s := s.modRun fun r =>
    { r with modgate := cutGates s.now r.modgate, soagate := cutGates s.now r.soagate, rmngate := cutGates s.now r.rmngate }
  let s := (s.ramanAbort.dark [0, 1, 2, 3, 4, 5]).emitterAt s.ilk.trip 1 0xFF 0 0
  (if run then s.refreshDark.suspendAll else s).refreshDark

/-- ILK_N_FALL (R95): ILK_N falls and stays low for lowPs, or until further notice. A pulse below 2 ns may or may not set the
latch: a FREE VALUE. -/
def State.ilkFall (s : State) (lowPs : Option Nat) : State :=
  let s := { s with ilk := { s.ilk with highAt := lowPs.map (fun n => s.now + psT n) } }
  let short := match lowPs with | some n => decide (n < 2000) | none => false
  let hit := !short || s.freeBit
  let s := if short then s.tookFree else s
  if hit && !s.ilk.latched then s.ilkTrip else s

def execIlkNFall (t : Tick) (lowPs : Option Nat) (s : State) : Host.Outcome State Fault Refusal :=
  .next ((s.advance t).ilkFall lowPs)

/-- An ILK_N_FALL of this instant that still waits in the queue acts first: its record takes the lower number (R116). -/
def State.ilkFirst (s : State) : State :=
  match s.pending.findSome? (fun c => match c with
      | .ilkNFall t low => if t == s.now then some low else none
      | _ => none) with
  | some low => s.ilkFall low
  | none => s

/-- ILK_CLEAR (R97, R98). -/
def State.ilkClear (s : State) (q : Req) : State :=
  s.gate q 0x00E1 cOperate true fun s id =>
    if q.mb == 19 then s.final id .denied []
    else if payLen q != 0 then s.final id .range []
    else if !s.ilk.latched then s.ok id []
    else
      match s.ilk.highAt with
      | some h =>
        if h ≤ s.now then ({ s with ilk := { s.ilk with latched := false } }).riseAll.ok id []
        else s.final id .state []
      | none => s.final id .state []

def execIlkClear (t : Tick) (q : Req) (s : State) : Host.Outcome State Fault Refusal := .next ((s.advance t).ilkClear q)

end Sys2Proof.Machine
end

