-- ==== Sys2Proof/Machine/Modules.lean ====
section
/-!
DEFINITION. Module identity records (R115, R117 to R120, R506): insertion and removal, the reads of the identity memories, their
checks, and MODULE_READ.
-/
namespace Sys2Proof.Machine

/-- Class of a position; 0 for the spare one, which has none of its own. -/
def moduleClass (pos : Nat) : Nat := if pos < 5 then pos + 1 else 0

/-- The position at a bus and a 7-bit address. -/
def modulePos (bus addr : Nat) : Option Nat :=
  if 2 < bus then none
  else if addr == 0x50 then some (2 * bus)
  else if addr == 0x51 then some (2 * bus + 1)
  else none

/-- The channels whose drive needs a position's record (R101). -/
def moduleChans (pos : Nat) : List Nat := (List.range 6).filter (fun c => (chanNeeds c).contains pos)

/-- The steward serves the module buses: module discovery has been reached, and the device is not OFF (R117, R476). -/
def State.discovers (s : State) : Bool := 11 ≤ s.sys.bootStage && !s.sys.halted && s.clk.mode != 0

/-! The record (R118 to R120). -/

def inRange (lo hi x : Nat) : Bool := lo ≤ x && x ≤ hi

/-- An IEEE 754 binary32 that is neither infinite nor NaN. -/
def f32Finite (w : Nat) : Bool := w / 2 ^ 23 % 256 != 255

/-- Every field of a class body is within its range (R120). -/
def bodyOk (cls : Nat) (r : List Byte) : Bool :=
  let u (off len : Nat) : Nat := fld r off len
  let cur (off : Nat) : Bool := inRange 1 2500 (u off 2)
  let mpd (off : Nat) : Bool := inRange 1 2000000 (u off 4)
  match cls with
  | 1 => inRange 1260000 1675000 (u 32 4) && cur 36 && inRange 1 65535 (u 38 2) && mpd 40 && inRange 1 65535 (u 44 2)
  | 2 =>
    let knee := fldI r 44 4
    cur 32 && cur 34 && cur 36 && inRange 1000 10000 (u 38 2) && inRange 100 1000000 (u 40 4) && decide (-400000 ≤ knee) &&
      decide (knee ≤ 1500000) && mpd 48 && mpd 52
  | 3 => [32, 36, 40, 44].all (fun o => inRange 100 100000 (u o 4)) && inRange 100 3000 (u 48 2)
  | 4 =>
    cur 32 && mpd 36 && inRange 1 65535 (u 40 2) && inRange 1 65535 (u 44 2) && inRange 1000000 1700000 (u 48 4) &&
      inRange 1000000 1700000 (u 52 4)
  | 5 => inRange 1 2 (u 32 1) && inRange 1 4 (u 33 1) && inRange 1 65535 (u 34 2) && [36, 40, 44].all (fun o => f32Finite (u o 4))
  | _ => false

/-- Bytes 0 to 3 are "ESLX". -/
def hasMagic (r : List Byte) : Bool := fld r 0 4 == 0x584C5345

/-- The bytes to cache from what the two address widths returned (R117); none after a NACK at both. -/
def cacheOf (one two : Option (List Byte)) : Option (List Byte) :=
  let pick : Option (List Byte) :=
    match one, two with
    | some a, some b => if hasMagic a then some a else some b
    | some a, none => some a
    | none, b => b
  pick.map fun r =>
    let n := fld r 6 2
    slice r 0 (if inRange 64 4096 n then n else 4096)

/-- The reason of R118 that a cached record gives at a position; 0: VALID. -/
def recordReason (pos : Nat) (r : List Byte) : Nat :=
  let cls := fld r 5 1
  let len := fld r 6 2
  if !hasMagic r then 2
  else if fld r 4 1 != 1 then 3
  else if !(if pos < 5 then cls == moduleClass pos else inRange 1 5 cls) then 4
  else if !inRange 64 4096 len || len % 4 != 0 then 5
  else if fld r (len - 4) 4 != crc32 (r.take (len - 4)) then 6
  else if !bodyOk cls r then 7
  else 0

/-- Setpoints above the maximum code of a channel are lowered to it (R118). -/
def State.lowerSetpoints (s : State) (cs : List Nat) : State :=
  cs.foldl (fun (s : State) c =>
    if s.maxCode c < s.setpoint c then
      let old := s.setpoint c
      (s.putBoth (K.emitSetpoint + c) (s.maxCode c)).setpointWrite c old
    else s) s

/-- A record has been judged: reason 0 makes it VALID. -/
def State.moduleJudged (s : State) (pos reason : Nat) (cache : List Byte) : State :=
  let s := s.modModule pos fun m => { m with state := if reason == 0 then 2 else 3, reason := reason, cache := cache }
  if reason == 0 then
    let s := s.emitter 4 0xFF (moduleClass pos) 0
    let s := if pos == 1 then s.modEmit fun e => { e with pumpGood := s.now } else s
    let s := s.lowerSetpoints (moduleChans pos)
    let s := if pos == 3 then s.apdApply else s
    s.riseAll
  else s.emitter 3 0xFF (moduleClass pos) reason

/-- A removed module's consequences (R115, R127, R196). -/
def State.moduleGone (s : State) (pos : Nat) : State :=
  let cs := moduleChans pos
  let s := if pos == 4 then s.coilGone else s
  let s := s.modModule pos fun m => { m with state := 0, reason := 0, present := false, cache := [] }
  let s := s.dark cs
  let s := if cs.isEmpty then s
    else s.putBoth K.emitEnable (cs.foldl (fun m c => setBit m c false) (s.p K.emitEnable))
  let s := if cs.any (· < 4) then s.runEnds false else s
  let s := if pos == 3 then s.apdApply else s
  let s := s.emitter 2 0xFF (moduleClass pos) 0
  if s.wlRuns then s else s.wlDrop

/-- MODULE_REMOVED (R115): acts on the first high level of the presence input. -/
def execModuleRemoved (t : Tick) (pos : Nat) (s : State) : Host.Outcome State Fault Refusal :=
  let s := s.advance t
  .next (if !(s.modl pos).present then s
    else if (s.modl pos).state == 0 then s.modModule pos fun m => { m with present := false }
    else s.ilkFirst.moduleGone pos)

/-- MODULE_INSERTED (R117, R118): the presence input has been low for 50 ms. -/
def execModuleInserted (t : Tick) (pos : Nat) (s : State) : Host.Outcome State Fault Refusal :=
  let s := s.advance t
  .next (if (s.modl pos).present then s
    else s.modModule pos fun m => { m with present := true, state := if s.discovers then 1 else 0 })

/-- MODULE_RECORD_READ (R117, R118). -/
def execModuleRecordRead (t : Tick) (pos : Nat) (one two : Option (List Byte)) (s : State) :
    Host.Outcome State Fault Refusal :=
  let s := s.advance t
  .next (if (s.modl pos).state != 1 then s
    else match cacheOf one two with
      | none => s.moduleJudged pos 1 []
      | some r => s.moduleJudged pos (recordReason pos r) r)

/-- I2C_SCL_TIMEOUT (R506): the read in progress on the bus counts as NACK. -/
def execI2cSclTimeout (t : Tick) (bus : Nat) (s : State) : Host.Outcome State Fault Refusal :=
  let s := s.advance t
  .next (match [2 * bus, 2 * bus + 1].find? (fun p => (s.modl p).state == 1) with
    | some p => s.moduleJudged p 1 []
    | none => s)

/-- MODULE_READ (R117). -/
def State.moduleRead (s : State) (q : Req) : State :=
  s.gate q 0x00E0 cObserve true fun s id =>
    let off := payU q 2 2
    let len := payU q 4 2
    if payLen q != 8 || payU q 6 2 != 0 || !inRange 1 4092 len then s.final id .range []
    else match modulePos (payU q 0 1) (payU q 1 1) with
      | none => s.final id .range []
      | some p =>
        let m := s.modl p
        if m.state < 2 || (m.state == 3 && m.reason == 1) then s.final id .state []
        else if m.cache.length < off + len then s.final id .range []
        else s.ok id (leBytes 2 len ++ leBytes 2 0 ++ slice m.cache off len)

def execModuleRead (t : Tick) (q : Req) (s : State) : Host.Outcome State Fault Refusal := .next ((s.advance t).moduleRead q)

end Sys2Proof.Machine
end

