-- ==== Sys2Proof/Machine/PerfOps.lean ====
section
/-!
DEFINITION. Performance counters (R463 to R468): PERF_CONFIG, PERF_READ, the SNAP register; and MON_READ (R462).
-/
namespace Sys2Proof.Machine

/-! The events (R465). -/

/-- One row of the event table: event, first and last instance of [7:0] (none: must be 0xFF), last instance of [15:8]. -/
structure PerfRow where
  ev : Nat
  x  : Option (Nat × Nat)
  y  : Option Nat
  deriving DecidableEq, Repr

def perfEvents : List PerfRow :=
  (List.range 12).map (fun d => { ev := d * 256 + 255, x := if d == 5 then some (0, 127) else none, y := none }) ++
  [ ⟨0x0101, some (0, 18), none⟩, ⟨0x0102, some (1, 13), none⟩, ⟨0x0103, none, none⟩, ⟨0x0201, some (0, 3), none⟩,
    ⟨0x0202, none, none⟩, ⟨0x0301, some (0, 7), none⟩, ⟨0x0302, none, none⟩, ⟨0x0401, some (0, 15), none⟩,
    ⟨0x0402, none, none⟩, ⟨0x0403, none, none⟩, ⟨0x0501, some (0, 127), none⟩, ⟨0x0502, some (0, 127), none⟩,
    ⟨0x0503, some (0, 127), none⟩, ⟨0x0601, some (0, 3), some 3⟩, ⟨0x0602, some (0, 3), none⟩, ⟨0x0603, some (0, 1), none⟩,
    ⟨0x0604, none, none⟩, ⟨0x0605, some (0, 1), none⟩, ⟨0x0701, some (0, 3), none⟩, ⟨0x0702, none, none⟩,
    ⟨0x0801, none, none⟩, ⟨0x0802, none, none⟩, ⟨0x0901, some (0, 5), none⟩, ⟨0x0A01, some (0, 16), none⟩,
    ⟨0x0B01, some (0, 16), none⟩ ]

/-- A qualifier fits a row (R465). -/
def PerfRow.qualOk (r : PerfRow) (q : Nat) : Bool :=
  let x := q % 256
  let y := q / 256 % 256
  q / 65536 == 0 && (x == 0xFF || (match r.x with | some (a, b) => a ≤ x && x ≤ b | none => false)) &&
    (y == 0xFF || (match r.y with | some b => y ≤ b | none => false))

/-- A setting that PERF_CONFIG takes (R463). -/
def perfOk (counter mode event qual : Nat) : Bool :=
  if 63 < counter || 3 < mode then false
  else if mode == 0 || mode == 3 then event == 0 && qual == 0 && (mode == 0 || counter % 2 == 1)
  else match perfEvents.find? (fun r => r.ev == event) with
    | some r => r.qualOk qual && (mode == 1 || isLevel event)
    | none => false

/-- Clear a counter's value and overflow flag; the events of the clear's cycle count into the cleared counter (R13, R467): those
counted so far, or for a level that holds the cycle itself. -/
def State.clearPerf (s : State) (c : Perf) : Perf :=
  { c with val := max (s.perfCycle c) (if c.mode == 2 then (s.highNow c).length else 0), ovf := false }

/-- Apply a setting (R463, R466). -/
def State.perfSet (s : State) (i mode event qual : Nat) : State :=
  let c : Perf := { val := 0, ovf := false, mode := mode, event := event, qual := qual }
  let c := { c with was := if mode == 1 && isLevel event then s.highNow c else [] }
  s.modClk fun k =>
    let ps := modAt (fun _ => c) k.perf i
    { k with perf := if i % 2 == 0 then modAt s.clearPerf ps (i + 1) else ps }

/-- PERF_CONFIG (R463). -/
def State.perfConfig (s : State) (q : Req) : State :=
  s.gate q 0x00D0 cConfigure true fun s id =>
    if payLen q != 8 || !perfOk (payU q 0 1) (payU q 1 1) (payU q 2 2) (payU q 4 4) then s.final id .range []
    else (s.perfSet (payU q 0 1) (payU q 1 1) (payU q 2 2) (payU q 4 4)).ok id []

def execPerfConfig (t : Tick) (q : Req) (s : State) : Host.Outcome State Fault Refusal := .next ((s.advance t).perfConfig q)

/-- Flags of R467 for counter c. -/
def State.perfFlags (s : State) (c : Perf) : Nat :=
  b2n c.ovf + 2 * b2n (c.mode == 3) + 4 * b2n (c.mode != 0) +
    8 * b2n (c.mode != 0 && c.mode != 3 && !(c.event / 256 == 0 || s.modeRuns (c.event / 256)))

/-- Counters that selecting counter i selects (R467): both of a chained pair. -/
def chainOf (ps : List Perf) (i : Nat) : List Nat :=
  if i % 2 == 0 && (nth {} ps (i + 1)).mode == 3 then [i, i + 1]
  else if i % 2 == 1 && (nth {} ps i).mode == 3 then [i - 1, i]
  else [i]

/-- PERF_READ (R51, R467). -/
def State.perfRead (s : State) (q : Req) : State :=
  s.gate q 0x00D1 cObserve (s.prot.perfUser || s.holds q.mb cMaintain) fun s id =>
    let mask := payU q 0 8
    if payLen q != 12 || mask == 0 || 1 < payU q 8 1 || payU q 9 3 != 0 then s.final id .range []
    else
      let sel := (List.range 64).filter (bit mask)
      let rec12 (i : Nat) : List Byte :=
        let c := nth {} s.clk.perf i
        leBytes 8 c.val ++ leBytes 4 (s.perfFlags c)
      let out := sel.flatMap rec12
      let cleared := if payU q 8 1 == 1 then sel.flatMap (chainOf s.clk.perf) else []
      (s.modClk fun k => { k with perf := cleared.foldl (fun ps i => modAt s.clearPerf ps i) k.perf }).ok id out

def execPerfRead (t : Tick) (q : Req) (s : State) : Host.Outcome State Fault Refusal := .next ((s.advance t).perfRead q)

/-- A write of the SNAP register (R468, R70). -/
def State.snapWrite (s : State) (v : Word) : State :=
  if s.clk.pcie && s.prot.perfUser && bit v.toNat 0 then s.modClk fun k => { k with snapped := k.perf, snapFlags := k.perf.map s.perfFlags, snapTime := s.dev }
  else s

/-- SNAP (R468). -/
def execSnap (t : Tick) (v : Word) (s : State) : Host.Outcome State Fault Refusal := .next ((s.advance t).snapWrite v)

/-! Monitors (R462). -/

/-- A group is sampled in the present mode (R459). -/
def State.sampled (s : State) (group : Nat) : Bool := if group == 2 then s.clk.mode ≥ 3 else s.clk.mode ≥ 1

/-- Monitors of a group. -/
def State.monitors (s : State) (group : Nat) : List Monitor :=
  if group == 0 then s.clk.temps else if group == 1 then s.clk.volts else s.clk.procs

/-- A 16-byte monitor record (R462). -/
def State.monRecord (s : State) (group index : Nat) (m : Monitor) : List Byte :=
  let v (x : Option Int) : List Byte := leBytes 4 (match x with | some i => uns 32 i | none => 0x80000000)
  leBytes 1 group ++ leBytes 1 index ++
    leBytes 2 (b2n m.out + 2 * b2n m.everOut + 4 * b2n m.trip + 8 * b2n (!s.sampled group)) ++ v m.value ++ v m.min ++ v m.max

/-- A tracker restarts: from the present value on (R462). -/
def restartMon (m : Monitor) : Monitor := { m with min := m.value, max := m.value, everOut := m.out, trip := false }

/-- MON_READ (R462). -/
def State.monRead (s : State) (q : Req) : State :=
  s.gate q 0x00C0 cObserve true fun s id =>
    let mask := payU q 0 4
    if payLen q != 4 || mask % 8 == 0 || mask / 8 % 2 ^ 28 != 0 then s.final id .range []
    else
      let gs := (List.range 3).filter (bit mask)
      let out := gs.flatMap fun g => ((s.monitors g).zipIdx).flatMap fun (e : Monitor × Nat) => s.monRecord g e.2 e.1
      let r (g : Nat) (ms : List Monitor) : List Monitor := if bit mask 31 && gs.contains g then ms.map restartMon else ms
      (s.modClk fun k => { k with temps := r 0 k.temps, volts := r 1 k.volts, procs := r 2 k.procs }).ok id out

def execMonRead (t : Tick) (q : Req) (s : State) : Host.Outcome State Fault Refusal := .next ((s.advance t).monRead q)

end Sys2Proof.Machine
end

