-- ==== Sys2Proof/Machine/Retrieve.lean ====
section
/-!
DEFINITION. Retrieval (chapter 14): RETRIEVE, RETRIEVE_CANCEL, the objects of a job and its end.
-/
namespace Sys2Proof.Machine

/-! What a job reads. A source is (0, fresh-ring slot, TILE_SEQ), (1, segment, offset) or (2, heart slot, 0). -/

/-- Last channel of a job's range. -/
def State.jobLast (s : State) (j : RetrJob) : Nat := (if j.count == 0 then s.p K.chanChannels else j.firstCh + j.count) - 1

/-- The job's channels as a channel set; empty where it has none. -/
def State.jobSet (s : State) (j : RetrJob) : List (Nat × Nat) :=
  if (if j.count == 0 then s.p K.chanChannels ≤ j.firstCh else false) then [] else [(j.firstCh, s.jobLast j)]

/-- A span overlaps the job's. -/
def RetrJob.overlaps (j : RetrJob) (start stop : Nat) : Bool := start < j.stop && j.start < stop

/-- Objects of a job on tiers 0 and 1 with their order keys: START_TIME and first column (R339). -/
def State.jobObjects (s : State) (j : RetrJob) : List (Nat × Nat × (Nat × Nat × Nat)) :=
  let cs := s.jobSet j
  let ps := s.running
  if j.tier == 0 then
    let fl := s.sill.flacons.filter (fun f => j.overlaps f.start f.stop && PS.setGroup ps cs f.group)
    let archived (t : Tile) : Bool := s.sill.flacons.any (fun f => f.group == t.group && f.seq == t.seq && f.start == t.startTime)
    let ti := s.sill.closed.filter (fun t =>
      !t.dropped && j.overlaps t.startTime t.stop && PS.setGroup ps cs t.group && !archived t)
    fl.map (fun f => (f.start, 64 * f.group, (1, f.segment, f.offset))) ++
      ti.map (fun t => (t.startTime, 64 * t.group, (0, t.pos, t.seq)))
  else if j.tier == 1 then
    (s.sill.hearts.filter (fun h => h.indexed && j.overlaps h.start h.stop && setMeets cs (64 * h.index) (64 * h.index + 63))).map
      (fun h => (h.start, 64 * h.index, (2, h.pos, 0)))
  else []

/-- (a, b) before (c, d). -/
def keyLt (a b c d : Nat) : Bool := a < c || (a == c && b < d)

/-- The job's next object in order of START_TIME and column. -/
def State.jobNext (s : State) (j : RetrJob) : Option (Nat × Nat × (Nat × Nat × Nat)) :=
  ((s.jobObjects j).filter (fun e =>
    match j.pos with
    | some p => keyLt p.1 p.2 e.1 e.2.1
    | none => true)).foldl (fun b e =>
      match b with
      | none => some e
      | some q => if keyLt e.1 e.2.1 q.1 q.2.1 then some e else some q) none

/-- Channel of a base-note record: of its section for TEMP (R266). -/
def State.baseChan (s : State) (r : BaseRec) : Option Nat :=
  if r.chKind / 2 ^ 17 % 64 == 11 then PS.sectionChan s.running (r.chKind % 2 ^ 17) else some (r.chKind % 2 ^ 17)

/-- Records of a tier-2 job: the newest at or before START for each channel and kind, and every record in the span. -/
def State.jobBase (s : State) (j : RetrJob) : List BaseRec :=
  let cs := s.jobSet j
  let mine := s.sill.base.filter (fun r => (match s.baseChan r with | some c => inSet cs c | none => false) && r.time < j.stop)
  let rec pick : List BaseRec → List BaseRec
    | [] => []
    | r :: rest =>
      if j.start ≤ r.time || !rest.any (fun x => x.chKind % 2 ^ 23 == r.chKind % 2 ^ 23 && x.time ≤ j.start) then
        r :: pick rest
      else pick rest
  pick mine

/-- The next block of up to 4,096 records; pos counts blocks. -/
def State.jobBlock (s : State) (j : RetrJob) : List BaseRec :=
  let k := match j.pos with | some p => p.1 | none => 0
  ((s.jobBase j).drop (4096 * k)).take 4096

def BaseRec.bytes (r : BaseRec) : List Byte := leBytes 8 r.time ++ leBytes 4 r.chKind ++ leBytes 4 r.value

/-- Gap records of the job's tier in its span that overlap its columns. -/
def State.jobGaps (s : State) (j : RetrJob) : List Gap :=
  s.sill.gaps.filter (fun g => g.tier == j.tier && j.overlaps g.start g.stop && PS.setGap s.running (s.jobSet j) g)

/-! Decompression for a job (R303, R339). -/

/-- Decompression jobs in an engine's queue. -/
def Engine.restores (e : Engine) : Nat :=
  (e.queue.filter (fun j => match j with | .restore _ _ _ _ => true | .archive _ _ => false)).length

/-- A form-0 job whose next object is archived gives it to the engine with fewer jobs, within FLAC.DECOMP_SLOTS. -/
def State.jobQueue (s : State) (j : RetrJob) : State :=
  match s.jobNext j with
  | some (_, _, (1, seg, off)) =>
    if j.form != 0 || j.decomp.isSome || j.cancelled then s
    else
      let i := if (s.eng 1).depth < (s.eng 0).depth then 1 else 0
      if s.p K.flacDecompSlots ≤ (s.eng i).restores then s
      else
        let mine (x : RetrJob) : RetrJob :=
          if x.who.mb == j.who.mb && x.who.tag == j.who.tag then { x with decomp := some (seg, off), out := none } else x
        (s.modEng i fun e => { e with queue := e.queue ++ [.restore seg off j.who.mb j.who.tag] }).modAtom fun a =>
          { a with jobs := a.jobs.map mine }
  | _ => s

/-! Delivery (R325, R339 to R341). -/

/-- First and last sample time of a slot image (R215). -/
def imageTimes (img : List Byte) : Nat × Nat :=
  let a := fld img 0 8
  (a, a + rdiv ((fld img 18 2 - 1) * (fld img 24 4 + 2 ^ 32 * fld img 48 4)) 256)

/-- One frame of the retrieval ring (R323). -/
def State.ringFrame (s : State) (typ : Nat) (payload : List Byte) (last : Bool) : State :=
  let f : Frame := { typ := typ, session := 0xFFFF, seq := (s.ring 33).seq, withheld := 0, sendTime := s.dev, resumed := false,
                     last := last, payload := payload, dest := 0, destPort := 0, dscp := 0 }
  s.modRing 33 fun r => { r with seq := (r.seq + 1) % 2 ^ 32, queue := r.queue ++ [f] }

/-- The pieces of an object into the retrieval ring. n bounds their number. -/
def State.ringObject (s : State) (o : ObjJob) : Nat → State
  | 0 => s
  | n + 1 =>
    let len := min 131056 (o.data.length - o.sent)
    let last := o.sent + len == o.data.length
    let s := s.ringFrame 5 (o.head ++ slice o.data o.sent len) last
    if last then s else s.ringObject { o with sent := o.sent + len } n

/-- Change a job. -/
def State.modJob (s : State) (q : ReqId) (f : RetrJob → RetrJob) : State :=
  s.modAtom fun a => { a with jobs := a.jobs.map (fun j => if j.who.mb == q.mb && j.who.tag == q.tag then f j else j) }

/-- A job delivers an object of a kind; gaps are the gap records in it, a and b its first and last sample times where it has
any. -/
def State.jobDeliver (s : State) (j : RetrJob) (kind : Nat) (data : List Byte) (gaps : Nat) (times : Option (Nat × Nat)) :
    State :=
  let o : ObjJob := { kind := kind, objSeq := j.objects, tag := j.who.tag, mb := j.who.mb, data := data, sent := 0 }
  let s := if j.target == 0 then s.ringObject o 64
    else s.modSession j.session fun x => { x with objects := x.objects ++ [o] }
  s.modJob j.who fun j =>
    { j with objects := j.objects + 1, bytes := j.bytes + data.length, gaps := j.gaps + gaps,
             firstT := match times with
               | some p => if j.firstT == 0 then p.1 else min j.firstT p.1
               | none => j.firstT,
             lastT := match times with | some p => max j.lastT p.2 | none => j.lastT }

/-- One gap record in place of an object (R341). -/
def State.jobGap (s : State) (j : RetrJob) (start col cause : Nat) (stop : Nat) : State :=
  let cols := if j.tier == 0 then min 64 (s.p K.pceBins - col) else min 64 (s.p K.chanChannels - col)
  let g : Gap := { start := start, stop := stop, firstCol := col, cols := cols, tier := j.tier, cause := cause, tiles := 1 }
  s.jobDeliver j 6 g.bytes 1 none

/-- A job moves to the end of the round robin (R342). -/
def State.rotateJob (s : State) (q : ReqId) : State :=
  let mine (j : RetrJob) : Bool := j.who.mb == q.mb && j.who.tag == q.tag
  s.modAtom fun a => { a with jobs := a.jobs.filter (fun j => !mine j) ++ a.jobs.filter mine }

/-- Past an object at this key. -/
def State.jobPast (s : State) (j : RetrJob) (a b : Nat) : State :=
  let s := (s.modJob j.who fun j => { j with pos := some (a, b), decomp := none, out := none }).rotateJob j.who
  match s.atom.jobs.find? (fun x => x.who.mb == j.who.mb && x.who.tag == j.who.tag) with
  | some x => s.jobQueue x
  | none => s

/-- End of the span of a source, for a gap record. -/
def State.sourceStop (s : State) (start : Nat) (src : Nat × Nat × Nat) : Nat :=
  match src with
  | (0, pos, seq) => match s.sill.closed.find? (fun t => t.pos == pos && t.seq == seq) with | some t => t.stop | none => start
  | (1, seg, off) =>
    match s.sill.flacons.find? (fun f => f.segment == seg && f.offset == off) with | some f => f.stop | none => start
  | (_, pos, _) => match s.sill.hearts.find? (fun h => h.pos == pos && h.indexed) with | some h => h.stop | none => start

/-- Read a position as stored. -/
def State.sourceRead (s : State) (src : Nat × Nat × Nat) : State × List Byte :=
  match src with
  | (0, pos, _) => s.masterRead mRetrieval (s.slotAddr pos) 66560
  | (1, seg, off) =>
    match s.sill.flacons.find? (fun f => f.segment == seg && f.offset == off) with
    | some f => s.masterRead mRetrieval (s.flaconAddr seg off) f.len
    | none => (s, [])
  | (_, pos, _) => s.masterRead mRetrieval (s.heartAddr pos) 66560

/-- The block of gap records, after the other objects. -/
def State.gapsStep (s : State) (j : RetrJob) : State :=
  let gs := s.jobGaps j
  if j.gapsDone || gs.isEmpty then s
  else
    ((s.jobDeliver j 6 (gs.flatMap Gap.bytes) gs.length none).modJob j.who fun j => { j with gapsDone := true }).rotateJob j.who

/-- An object of the job still waits in its session, or a frame in the retrieval ring. -/
def State.jobWaits (s : State) (j : RetrJob) : Bool :=
  if j.target == 0 then !(s.ring 33).queue.isEmpty
  else match s.session j.session with
    | some x => x.objects.any (fun o => o.mb == j.who.mb && o.tag == j.who.tag)
    | none => false

/-- The job can deliver an object now: there is one, an engine has restored it if it must, and what the job delivered before is on its
way (R303, R318, R342). -/
def State.jobReady (s : State) (j : RetrJob) : Bool :=
  !j.cancelled && !s.jobWaits j &&
    (if j.tier == 2 then !(s.jobBlock j).isEmpty || (!j.gapsDone && !(s.jobGaps j).isEmpty)
     else match s.jobNext j with
      | some (_, _, src) => !(src.1 == 1 && j.form == 0) || j.out.isSome
      | none => !j.gapsDone && !(s.jobGaps j).isEmpty)

/-- The job delivers its next object. overwritten: the position was overwritten during the read (R341). -/
def State.jobStep (s : State) (j : RetrJob) (overwritten : Bool) : State :=
  if j.tier == 2 then
    match s.jobBlock j with
    | [] => s.gapsStep j
    | r :: rs =>
      let k := match j.pos with | some p => p.1 | none => 0
      let rs := r :: rs
      let last := match rs.getLast? with | some x => x.time | none => r.time
      let s := s.jobDeliver j 5 (rs.flatMap BaseRec.bytes) 0 (some (r.time, last))
      (s.modJob j.who fun j => { j with pos := some (k + 1, 0) }).rotateJob j.who
  else match s.jobNext j with
    | none => s.gapsStep j
    | some (start, col, src) =>
      let stop := s.sourceStop start src
      if overwritten then (s.jobGap j start col 5 stop).jobPast j start col
      else if src.1 == 1 && j.form == 0 then
        match j.out with
          | some (some img) => (s.jobDeliver j 2 img 0 (some (imageTimes img))).jobPast j start col
          | some none => (s.jobGap j start col 2 stop).jobPast j start col
          | none => s.jobQueue j
      else
        let r := s.sourceRead src
        let kind := if src.1 == 1 then 3 else if src.1 == 2 then 4 else 2
        let times := if src.1 == 1 then imageTimes (r.2.drop 64) else imageTimes r.2
        (r.1.jobDeliver j kind r.2 0 (some times)).jobPast j start col
/-- Every object of the job has been delivered. -/
def State.jobDone (s : State) (j : RetrJob) : Bool :=
  (if j.tier == 2 then (s.jobBlock j).isEmpty else (s.jobNext j).isNone) && (j.gapsDone || (s.jobGaps j).isEmpty)

/-- Bytes that a job has delivered. -/
def State.jobBytes (s : State) (q : ReqId) : Nat :=
  match s.atom.jobs.find? (fun x => x.who.mb == q.mb && x.who.tag == q.tag) with
  | some x => x.bytes
  | none => 0

/-- RETRIEVE_OBJECT (R303, R339, R341, R342): the job at this place of the round robin has its turn, if none before it is ready, and
ATOM.RETR_MAX_MBS lets a read begin. A job whose next object must be restored first gives it to an engine. -/
def execRetrieveObject (t : Tick) (job : Nat) (overwritten : Bool) (s : State) : Host.Outcome State Fault Refusal :=
  let s := s.advance t
  .next (match s.atom.jobs[job]? with
    | some j =>
      if j.cancelled || !s.domainRuns 6 then s
      else if !s.jobReady j then s.jobQueue j
      else if s.now < s.atom.retrAt || (s.atom.jobs.take job).any s.jobReady then s
      else
        let s' := s.jobStep j overwritten
        let n := s'.jobBytes j.who - j.bytes
        s'.modAtom fun a => { a with retrAt := s.now + n * secT 1 / (s.p K.atomRetrMaxMbs * 1000000) }
    | none => s)

/-- The 40 bytes of RETRIEVE_END (R340). -/
def RetrJob.endBytes (j : RetrJob) (st : Status) : List Byte :=
  leBytes 2 j.who.tag ++ leBytes 1 j.who.mb ++ leBytes 1 st.code ++ leBytes 4 j.objects ++ leBytes 8 j.bytes ++ leBytes 4 j.gaps ++
    leBytes 4 0 ++ leBytes 8 j.firstT ++ leBytes 8 j.lastT


/-- RETRIEVE_END (R340, R53): the frame follows the last object, and the final response the frame. -/
def execRetrieveEnd (t : Tick) (job : Nat) (s : State) : Host.Outcome State Fault Refusal :=
  let s := s.advance t
  .next (match s.atom.jobs[job]? with
    | none => s
    | some j =>
      if s.jobWaits j || !(j.cancelled || s.jobDone j) then s
      else
        let st : Status := if j.cancelled then .aborted else .ok
        let finish (s : State) : State :=
          (s.modAtom fun a => { a with jobs := a.jobs.filter (fun x => !(x.who.mb == j.who.mb && x.who.tag == j.who.tag)) }).final
            j.who st (leBytes 8 j.bytes ++ leBytes 4 j.gaps)
        if j.target == 0 then
          let s1 := (s.ringFrame 6 (j.endBytes st) false).ringWrite 33
          if (s1.ring 33).queue.isEmpty then finish s1 else s
        else finish (s.emitFrame j.session 6 (j.endBytes st) false false))

/-! Requests. -/

/-- RETRIEVE (R338). -/
def State.retrieve (s : State) (q : Req) : State :=
  s.gate q 0x0040 cObserve true fun s id =>
    let tier := payU q 0 1
    let target := payU q 1 1
    let ses := payU q 2 2
    let start := payU q 4 8
    let stop := payU q 12 8
    let first := payU q 20 4
    let cnt := payU q 24 4
    let form := payU q 28 1
    if payLen q != 32 || 2 < tier || 1 < target || 1 < form || (form == 1 && tier != 0) || payU q 29 3 != 0 ||
        stop ≤ start || s.p K.chanChannels < first + cnt then s.final id .range []
    else if (target == 1 && (match s.session ses with | some x => x.closing.isSome | none => true)) ||
        (target == 0 && (!(s.ring 33).enable || !s.active)) || (tier ≤ 1 && s.clk.mode == 2) then s.final id .state []
    else if 256 ≤ s.atom.jobs.length then s.final id .busy []
    else
      let s := s.takes id
      let j : RetrJob :=
        { who := id, tier := tier, target := target, session := ses, start := start, stop := min stop s.dev, firstCh := first,
          count := cnt, form := form, objects := 0, bytes := 0, gaps := 0, firstT := 0, lastT := 0, pos := none,
          gapsDone := false, cancelled := false, decomp := none, out := none }
      (s.modAtom fun a => { a with jobs := a.jobs ++ [j] }).jobQueue j

/-- RETRIEVE. -/
def execRetrieve (t : Tick) (q : Req) (s : State) : Host.Outcome State Fault Refusal := .next ((s.advance t).retrieve q)

/-- RETRIEVE_CANCEL (R53). -/
def State.retrieveCancel (s : State) (q : Req) : State :=
  s.gate q 0x0041 cObserve true fun s id =>
    let tag := payU q 0 2
    if payLen q != 4 || payU q 2 2 != 0 then s.final id .range []
    else if s.atom.jobs.any (fun j => j.who.mb == q.mb && j.who.tag == tag && !j.cancelled) then
      let mine (j : RetrJob) : Bool := j.who.mb == q.mb && j.who.tag == tag
      let s := (s.dropRestores { id with tag := tag }).modAtom fun a =>
        { a with jobs := a.jobs.map (fun j => if mine j then { j with cancelled := true } else j),
                 sessions := a.sessions.map (fun (x : Session) =>
                   { x with objects := x.objects.filter (fun o => !(o.mb == q.mb && o.tag == tag && o.sent == 0)) }) }
      s.ok id []
    else s.final id .state []

/-- RETRIEVE_CANCEL. -/
def execRetrieveCancel (t : Tick) (q : Req) (s : State) : Host.Outcome State Fault Refusal :=
  .next ((s.advance t).retrieveCancel q)

end Sys2Proof.Machine
end

