-- ==== Sys2Proof/Machine/Power.lean ====
section
/-!
DEFINITION. Clocks and power modes (R440 to R449, R454 to R461): loops and sources, gating, the transitions between power
modes, PWR_FAIL_N, the monitors and the thermal trip.
-/
namespace Sys2Proof.Machine

/-! Loops and sources (R440 to R446). -/

def State.loopLocked (s : State) (n : Nat) : Bool := nth false s.clk.locked n
def State.setLock (s : State) (n : Nat) (b : Bool) : State :=
  s.modClk fun k => { k with locked := modAt (fun _ => b) k.locked n }

/-- The power mode runs the loop (R441): 0 SPLL, 1 CPLL, 2 MPLL, 3 VPLL, 4 TPLL. -/
def State.loopRuns (s : State) (n : Nat) : Bool :=
  let m := s.clk.mode
  match n with
  | 0 | 1 => 2 ≤ m
  | 2 => 3 ≤ m
  | 3 => 3 ≤ m && s.p K.dispMode != 0
  | 4 => 3 ≤ m || (1 ≤ m && s.tiuNeeded)
  | _ => false

/-- Every loop that the mode runs is locked, and no other. -/
def State.loopsForMode (s : State) : State :=
  s.modClk fun k => { k with locked := (List.range 5).map s.loopRuns }

/-- A forced switch of multiplexer b (R446). -/
def State.forcedSwitch (s : State) (b : Nat) : State :=
  ((s.modClk fun k => { k with stoppedSource := k.stoppedSource ||| 2 ^ b }).health 3 b 0 2).pulse 3 (8 + b) 0 1

/-- The domain that a loop's alerts come from (R451). -/
def loopDomain (n : Nat) : Nat := nth 0 [2, 1, 6, 9, 4] n

/-- A loop loses lock (R140, R441, R446, R430). -/
def State.loopLost (s : State) (n : Nat) : State :=
  let s := (((s.setLock n false).bump K.clkLockLossCount).health 2 n 0 2).pulse 3 n (loopDomain n) 1
  match n with
  | 0 => ((s.runEnds false).calAbort false).trackStop
  | 1 =>
    let s := ((s.runEnds false).modClk fun k => { k with stwOnHfo := true }).forcedSwitch 1
    (s.slices.tab.map (·.1)).foldl (fun (s : State) i => if (s.slc i).status == 2 then s.sliceFault i 3 else s) s
  | 3 => s.modDisp fun d => { d with stopped := true }
  | 4 =>
    let s := s.runEnds false
    match s.time.tiu with
    | some j => s.tiuEnd j .fault
    | none => s
  | _ => s

/-- LOOP_LOCK_LOSS (R441). -/
def execLoopLockLoss (t : Tick) (loop : Nat) (s : State) : Host.Outcome State Fault Refusal :=
  let s := s.advance t
  .next (if s.loopLocked loop then s.loopLost loop else s)

/-- LOOP_LOCK (R441): the loop is one the mode runs, and its reference is there. -/
def execLoopLock (t : Tick) (loop : Nat) (s : State) : Host.Outcome State Fault Refusal :=
  let s := s.advance t
  .next (
    if s.loopLocked loop || !s.loopRuns loop || !s.clk.xa then s
    else
      let s := (s.setLock loop true).pulse 3 loop (loopDomain loop) 1
      match loop with
      | 0 => s.calTry
      | 1 => s.modClk fun k => { k with stwOnHfo := false }
      | 3 => (s.woken [9]).modDisp fun d => { d with stopped := false }
      | _ => s)

/-- XA_LOST (R442): every loop loses lock, and device time goes on on the backup counter. -/
def execXaLost (t : Tick) (s : State) : Host.Outcome State Fault Refusal :=
  let s := s.advance t
  .next (
    if !s.clk.xa then s
    else
      let s := (s.settle.modTime fun b => { b with backup := true, fromBackup := true }).modClk fun k => { k with xa := false }
      let s := (List.range 5).foldl (fun (s : State) n => if s.loopLocked n then s.loopLost n else s) s
      s.health 2 5 0 2)

/-- XA_RETURN (R442): device time resumes from the backup value; the loops relock by LOOP_LOCK. -/
def execXaReturn (t : Tick) (s : State) : Host.Outcome State Fault Refusal :=
  let s := s.advance t
  .next (if s.clk.xa then s
    else (s.settle.modTime fun b => { b with backup := s.clk.mode == 1 }).modClk fun k => { k with xa := true })

/-- XB_LOST (R440, R446): AON moves to LFO by a forced switch. -/
def execXbLost (t : Tick) (s : State) : Host.Outcome State Fault Refusal :=
  let s := s.advance t
  .next (if !s.clk.xb then s
    else ((s.settle.modTime fun b => { b with onLfo := true }).modClk fun k => { k with xb := false }).forcedSwitch 0)

/-- XB_START (R365, R440): AON runs on XB. -/
def execXbStart (t : Tick) (s : State) : Host.Outcome State Fault Refusal :=
  let s := s.advance t
  .next (if s.clk.xb || !s.sys.powered then s
    else (s.settle.modTime fun b => { b with onLfo := false }).modClk fun k => { k with xb := true })

/-- CLOCK_SWITCH_FORCED (R444, R446): the multiplexer's output runs on the other of its two sources, where that source is there. -/
def execClockSwitchForced (t : Tick) (mux : Nat) (s : State) : Host.Outcome State Fault Refusal :=
  let s := s.advance t
  .next (match mux with
    | 0 =>
      if s.time.onLfo && !s.clk.xb then s
      else (s.settle.modTime fun b => { b with onLfo := !b.onLfo }).forcedSwitch 0
    | 1 =>
      if s.clk.stwOnHfo && !s.loopLocked 1 then s
      else (s.modClk fun k => { k with stwOnHfo := !k.stwOnHfo }).forcedSwitch 1
    | 2 => (s.modClk fun k => { k with netOnMgmt := !k.netOnMgmt }).forcedSwitch 2
    | 3 => s.forcedSwitch 3
    | _ => s)

/-! Automatic gating (R447, R448). -/

/-- CLOCK_GATE (R447): the domain has been idle for CLK.GATE_IDLE of its cycles; one with work that the state shows is not. With SMP gated
no pilot is looked for (R129). -/
def execClockGate (t : Tick) (domain : Nat) (s : State) : Host.Outcome State Fault Refusal :=
  let s := s.advance t
  .next (if 1 ≤ domain && domain ≤ 11 && bit (s.p K.clkGateEn) domain && s.p K.clkClkoutSel != domain && s.domainRuns domain &&
      !s.domainBusy domain then
      let s := s.modClk fun k => { k with gated := domain :: k.gated }
      if domain == 2 then s.trackStop else s
    else s)

/-- CLOCK_WAKE (R448). -/
def execClockWake (t : Tick) (domain : Nat) (s : State) : Host.Outcome State Fault Refusal :=
  .next (((s.advance t).woken [domain]).pulse 2 domain 1 domain)

/-- DRAIN_TIMEOUT (R449): each access still outstanding is not performed, and is entered in a fault record. -/
def execDrainTimeout (t : Tick) (accesses : List (Nat × Nat)) (s : State) : Host.Outcome State Fault Refusal :=
  .next (accesses.foldl (fun (s : State) a => (s.bump K.clkForcedFaults).healthFull 25 a.1 0 1 a.2 a.1 1) (s.advance t))

/-- PCIE_ENDPOINT_STOP (R454). -/
def execPcieEndpointStop (t : Tick) (s : State) : Host.Outcome State Fault Refusal :=
  let s := s.advance t
  .next (match s.clk.pcieStop with
    | some a => if a ≤ s.now then s.modClk fun k => { k with pcieStop := none, pcie := false } else s
    | none => s)

/-! Transitions (R116, R246, R299, R312, R361, R362, R454 to R458). -/

/-- PWR_FAIL_N is low, as far as it has qualified (R30, R456). -/
def State.pwrIsLow (s : State) : Bool :=
  s.clk.pwrLow && (match s.clk.pwrRise with | some r => decide (s.now < r) | none => true)

/-- Payload of POWER_MODE's final response: the mode reached, and when (R454). -/
def State.modePayload (s : State) : List Byte := leBytes 1 s.clk.mode ++ leBytes 3 0 ++ leBytes 8 s.dev

/-- The same of a command that an entry to VIGIL overtakes: VIGIL from MAINTAIN or FULL, else the mode held (R29, R456). -/
def State.abortPayload (s : State) : List Byte :=
  leBytes 1 (if 3 ≤ s.clk.mode then 2 else s.clk.mode) ++ leBytes 3 0 ++ leBytes 8 s.dev

/-- The transition in progress is overtaken (R29, R455). -/
def State.transAborted (s : State) : State :=
  match s.clk.trans with
  | none => s
  | some tr =>
    let s := s.modClk fun k => { k with trans := none }
    let s := if tr.source ≥ 3 && s.clk.mode < 3 && s.clk.pcie then
        s.modClk fun k => { k with pcieStop := some (s.now + msT 10) } else s
    match tr.who with
    | some q => s.final q .aborted s.abortPayload
    | none => s

/-- A run in progress ends as STOP mode 1 does, and with it what the stopped engine still held. -/
def State.runCut (s : State) : State :=
  let s := s.runEnds false
  if s.run.state == 2 then s.runOver else s

/-- Emitters but the Raman source go dark, the wavelength loop lets go, and what needs shots or light ends (R116, R140, R144). -/
def State.lightsOut (s : State) : State :=
  let s := ((s.dark [0, 1, 2, 3, 5]).wlDrop).modEmit fun e => { e with tec0 := 0 }
  ((s.calAbort false).testAbort).trackStop.sendLeaving

/-- Oldest sample of each lost tier at entry (R31): the entry instant where the tier holds none. -/
def State.vigilMark (s : State) : State :=
  let f (tier : Nat) : Nat × Nat := (tier, (s.oldest tier).getD s.dev)
  s.modSill fun x => { x with vigilFrom := [f 0, f 1] }

/-- The fresh ring, the heart note and the archive are lost (R31, R299, R362). -/
def State.memoryLost (s : State) : State :=
  let s := (s.vigilMark).captureVigil
  let s := s.modSill fun x =>
    { x with elastic := [], openTiles := [], closed := [], nextSlot := 0, hearts := [], heartNext := 0, flacons := [],
             segments := [], segNext := 0, gaps := x.gaps.filter (fun g => g.tier == 2), lateRun := [] }
  (s.modMemc fun m => { m with queue := [], reread := [] }).pasrLose

/-- Slices stop: their programs are kept (R246). -/
def State.slicesStop (s : State) : State :=
  let f (x : Slice) : Slice :=
    match x.image with
    | some im => { status := 1, image := some im }
    | none => x
  { s with slices := { s.slices with loading := none, tab := s.slices.tab.map (fun (e : Nat × Slice) => (e.1, f e.2)) } }

/-- The 10G ports and the domains that need MAINTAIN stop; the mode is now m (R457 steps 5 and 6). -/
def State.domainsStop (s : State) (m : Nat) : State :=
  let down (p : Port) : Port := { p with link := false, evq := [], strq := [] }
  let s := s.modAtom fun a => { a with ports := modAt down (modAt down a.ports 0) 1 }
  let s := s.modDisp fun d => { d with inFrame := false }
  let s := s.modClk fun k => { k with mode := m, netOnMgmt := true, gated := [] }
  (s.loopsForMode).markResumed

/-- Jobs that VIGIL leaves: base-note retrievals to a session that the management port serves (R312, R322). -/
def State.jobsStop (s : State) : State :=
  let keep (j : RetrJob) : Bool :=
    j.tier == 2 && j.target == 1 && (match s.session j.session with | some x => bit x.ports 2 && x.transport != 2 | none => false)
  (s.flaconStop).abortJobs (fun j => !keep j)

/-- Entry to VIGIL from MAINTAIN or FULL (R457). -/
def State.vigilEnter (s : State) (cause : Nat) : State :=
  let s := (s.runCut.suspendAll).lightsOut.tiuAbort
  let s := (s.memoryLost.jobsStop.slicesStop).domainsStop 2
  ((s.modClk fun k => { k with lastCause := cause }).refreshDark)

/-- Entry to STANDBY (R116, R362, R368, R425, R454). -/
def State.standbyEnter (s : State) : State :=
  let s := (s.runCut.suspendAll).lightsOut.tiuAbort
  let s := (s.jobsStop.slicesStop.ramanAbort).dark [4]
  let s := s.instStop.domainsStop 1
  let s := (List.range 4).foldl (fun (s : State) n => if s.p (K.instFqoMode + n) != 0 then s.fqoFail n else s) s.apdApply
  let s := s.settle.modTime fun b => { b with backup := true }
  let s := s.modClk fun k => { k with stwOnHfo := true }
  (s.modMemc fun m => { m with power := 3, queue := [], reread := [] }).refreshDark

/-- What starts again on leaving STANDBY for a higher mode. -/
def State.standbyLeave (s : State) : State :=
  let s := s.settle.modTime fun b => { b with backup := !s.clk.xa, fromBackup := true }
  let s := s.modClk fun k => { k with stwOnHfo := false }
  -- conditions of darkness that end with the mode held up to now (R392)
  s.refreshDark.modEmit fun e => { e with pumpGood := s.now, apdGood := s.now }

/-- One gap record for each lost tier, from its oldest sample at entry to now (R31, R218). -/
def State.vigilGaps (s : State) : State :=
  let cols (tier : Nat) : Nat := if tier == 0 then s.p K.pceBins else s.p K.chanChannels
  let rec1 (e : Nat × Nat) : Gap :=
    { start := e.2, stop := s.dev, firstCol := 0, cols := cols e.1, tier := e.1, cause := 3, tiles := 0 }
  let gs := s.sill.vigilFrom.map rec1
  (gs.foldl (fun (s : State) g => s.addGap g) s).modSill fun x => { x with vigilFrom := [] }

/-- Return to MAINTAIN or FULL (R31, R136, R246, R322, R458). -/
def State.wakeTo (s : State) (target : Nat) (cause : Nat) : State :=
  let s := if s.clk.mode == 1 then s.standbyLeave else s
  let s := s.modClk fun k =>
    { k with mode := target, lastCause := cause, netOnMgmt := false, pcie := true, pcieStop := none, gated := [] }
  let s := (s.loopsForMode).modMemc fun m => { m with power := 1 }
  let s := s.vigilGaps.convGo.refreshDark
  let s := s.modDisp fun d => { d with layers := d.layers.map (fun l => { l with rowAt := s.now }) }
  let s := (s.slices.tab.map (·.1)).foldl (fun (s : State) i => s.startSlice i) s
  let s := (s.shiftReset.chainResetAll).modTwin fun w => { w with leaving := false }
  let due := s.recv.startupDue
  let s := (s.modRecv fun r => { r with startupDue := false }).calCause (if due then 1 else 2)
  (s.apdApply.riseAll).refreshDark

/-- A loop failed to lock, or memory to leave self-refresh: the mode held before stands (R455). -/
def State.transFailed (s : State) (tr : Transition) : State :=
  let s := s.modClk fun k => { k with trans := none }
  match tr.who with
  | some q => s.final q .fault s.modePayload
  | none => s

/-- The mode is reached: the final response, and an auto-resume's START (R454, R456). -/
def State.transReached (s : State) (tr : Transition) : State :=
  let s := s.modClk fun k => { k with trans := none, lastCause := tr.cause }
  let s := if tr.source ≥ 3 && tr.target < 3 then s.modClk fun k => { k with pcieStop := some (s.now + msT 10) } else s
  let s := match tr.who with
    | some q => s.final q .ok s.modePayload
    | none => s
  let s := if tr.target ≥ 3 then s.modClk fun k => { k with leftMode := none, leftRun := false } else s
  if tr.thenRun && !s.startState then
    s.startWaits none
  else s

/-- Begin a transition (R454). -/
def State.transBegin (s : State) (tr : Transition) : State :=
  let s := s.modClk fun k => { k with trans := some tr }
  if tr.source ≥ 3 && tr.target == 2 then s.vigilEnter tr.cause
  else if tr.source ≥ 3 && tr.target == 1 then (s.runEnds false).lightsOut
  else if tr.source == 4 && tr.target == 3 then s.runEnds false
  else s

/-- POWER_MODE (R29, R30, R52, R454, R455). A transition in progress answers BUSY before the STATE of R30 is looked at: DESIGN CHOICE,
the manual gives the two no order (log 121). -/
def State.powerMode (s : State) (q : Req) : State :=
  s.gate q 0x00F0 cOperate true fun s id =>
    let target := payU q 0 1
    if q.mb == 19 then s.final id .denied []
    else if payLen q != 4 || target == 0 || 4 < target || payU q 1 3 != 0 then s.final id .range []
    else if s.clk.trans.isSome then s.final id .busy []
    else if 3 ≤ target && (s.clk.trip || s.pwrIsLow) then s.final id .state []
    else if target == s.clk.mode then (s.takes id).final id .ok s.modePayload
    else
      let s := (s.takes id).modClk fun k => { k with leftMode := none, leftRun := false }
      s.transBegin { who := some id, source := s.clk.mode, target := target, cause := 1, thenRun := false }

def execPowerMode (t : Tick) (q : Req) (s : State) : Host.Outcome State Fault Refusal := .next ((s.advance t).powerMode q)

/-- POWER_TRANSITION_DONE (R454, R455, R458): ok is whether every loop locked and memory left self-refresh. -/
def execPowerTransitionDone (t : Tick) (ok : Bool) (s : State) : Host.Outcome State Fault Refusal :=
  let s := s.advance t
  .next (match s.clk.trans with
    | none => s
    | some tr =>
      let up := tr.source < tr.target
      if up && !ok then s.transFailed tr
      else if tr.target == 1 then (s.standbyEnter).transReached tr
      else if tr.source == 1 && tr.target == 2 then
        let s := if s.sill.vigilFrom.isEmpty then s.memoryLost else s.modMemc fun m => { m with power := 2 }
        let s := s.standbyLeave
        (((s.modClk fun k => { k with mode := 2 }).loopsForMode).apdApply.riseAll.convGo.refreshDark).transReached tr
      else if tr.source < 3 && 3 ≤ tr.target then (s.wakeTo tr.target tr.cause).transReached tr
      else if tr.source == 4 && tr.target == 3 then
        let s := s.runEnds false
        if s.run.state != 0 then s
        else ((s.modClk fun k => { k with mode := 3 }).refreshDark).transReached tr
      else if tr.source == 3 && tr.target == 4 then (s.modClk fun k => { k with mode := 4 }).transReached tr
      else s.transReached tr)

/-! PWR_FAIL_N (R29, R456). -/

/-- PWR_FAIL_QUALIFIED: PWR_FAIL_N has stayed low for CLK.PWR_FAIL_FILTER_US since fallAt. -/
def execPwrFailQualified (t : Tick) (fallAt : Tick) (rise : Option Tick) (s : State) : Host.Outcome State Fault Refusal :=
  let s := s.advance t
  let due := fallAt + usT (s.p K.clkPwrFailFilterUs)
  let short := match rise with | some r => decide (r < due) | none => false
  .next (
    if s.now < due || short then s
    else
      let s := s.modClk fun k => { k with pwrLow := true, pwrRise := rise }
      let s := s.transAborted
      if s.clk.mode < 3 then s
      else
        let m := s.clk.mode
        let ran := s.run.state == 1 || s.run.state == 3
        let s := s.modClk fun k => { k with leftMode := some m, leftRun := ran, pcie := false, pcieStop := none }
        s.vigilEnter 2)

/-- PWR_AUTO_RESUME (R456). -/
def execPwrAutoResume (t : Tick) (s : State) : Host.Outcome State Fault Refusal :=
  let s := s.advance t
  .next (match s.clk.leftMode, s.clk.pwrRise with
    | some m, some r =>
      if s.p K.clkPwrAutoResume == 0 || s.clk.mode != 2 || s.clk.trip || s.clk.trans.isSome || s.pwrIsLow ||
          s.now < r + secT (s.p K.clkPwrResumeS) then s
      else
        s.transBegin { who := none, source := 2, target := m, cause := 4,
                       thenRun := s.clk.leftRun && s.p K.clkPwrAutoResume == 2 }
    | _, _ => s)

/-! Monitors (R459 to R461). -/

/-- A monitor takes a sample: its value is the mean of the last 16 (R459, R462). -/
def monTake (m : Monitor) (x : Int) : Monitor :=
  let xs := (x :: m.samples).take 16
  let v := rdivI xs.sum xs.length
  { m with samples := xs, value := some v,
           min := some (match m.min with | some a => if v < a then v else a | none => v),
           max := some (match m.max with | some a => if a < v then v else a | none => v) }

/-- Nominal voltages in µV (R459). -/
def voltNominal : List Nat :=
  [750000, 750000, 750000, 750000, 900000, 1800000, 800000, 1800000, 3300000, 1100000, 600000, 1250000]

/-- Whether monitor i of a group is out of range at value v, given whether it was (R460). -/
def State.monOut (s : State) (group i : Nat) (was : Bool) (v : Int) : Bool :=
  if group == 0 then
    let w := s.pI (K.monTempWarn + i)
    if was then !decide (v < w - ((s.p K.monTempHyst : Nat) : Int)) else decide (w ≤ v)
  else if group == 1 then
    let lo : Int := ((s.p (K.monVoltLow + i) : Nat) : Int)
    let hi : Int := ((s.p (K.monVoltHigh + i) : Nat) : Int)
    let h : Int := ((nth 0 voltNominal i / 200 : Nat) : Int)
    if was then !(decide (lo + h ≤ v) && decide (v ≤ hi - h)) else decide (v < lo) || decide (hi < v)
  else false

/-- One monitor of a list takes its sample and is judged; a change to out of range raises HEALTH and MSI-X vector 6. -/
def State.monStep (s : State) (group i : Nat) (x : Int) : State :=
  let m := monTake (nth {} (s.monitors group) i) x
  let o := s.monOut group i m.out (m.value.getD 0)
  let m' : Monitor := { m with out := o, everOut := m.everOut || o }
  let s := s.modClk fun k =>
    match group with
    | 0 => { k with temps := modAt (fun _ => m') k.temps i }
    | 1 => { k with volts := modAt (fun _ => m') k.volts i }
    | _ => { k with procs := modAt (fun _ => m') k.procs i }
  if o && !m.out then (s.health 20 (group * 16 + i) 0 0xFF).raise 6 else s

/-- A thermal trip on temperature monitor i (R455, R461). -/
def State.thermalTrip (s : State) (i : Nat) : State :=
  let s := (s.bump K.monTripCount).modClk fun k =>
    { k with trip := true, leftMode := none, leftRun := false,
             temps := modAt (fun (m : Monitor) => { m with trip := true }) k.temps i }
  let s := s.transAborted
  if s.clk.mode ≥ 3 then
    let s := s.health 21 i 0 2
    (s.modClk fun k => { k with pcie := false, pcieStop := none }).vigilEnter 3
  else s

/-- The samples of one group, in index order. -/
def State.monGroup (s : State) (group : Nat) (xs : List Int) (n : Nat) : State :=
  ((xs.take n).zipIdx).foldl (fun (s : State) (e : Int × Nat) => s.monStep group e.2 e.1) s

/-- MONITOR_SAMPLE (R459 to R461): temperatures and voltages every 1 ms, in STANDBY every 100 ms; process monitors every 100 ms. -/
def execMonitorSample (t : Tick) (m : MonSample) (s : State) : Host.Outcome State Fault Refusal :=
  let s := s.advance t
  .next (
    if s.clk.mode == 0 || !s.spaced s.clk.monAt (msT (if s.clk.mode == 1 then 100 else 1)) then s
    else
      let s := s.modClk fun k => { k with monAt := some s.now }
      let s := (s.monGroup 0 m.temps 8).monGroup 1 m.volts 12
      -- monitor 0 is RECV.DIE_TEMP (R145, R459)
      let s := match (nth {} s.clk.temps 0).value with | some v => s.modRecv fun r => { r with dieTemp := v } | none => s
      let s := if s.clk.mode ≥ 3 && !m.procs.isEmpty && s.spaced s.clk.procAt (msT 100) then
          (s.monGroup 2 m.procs 4).modClk fun k => { k with procAt := some s.now }
        else s
      let hot := idxWhere (fun (x : Int) => decide (1250000 ≤ x)) (m.temps.take 8)
      if hot.isEmpty then
        if s.clk.trip && !s.clk.temps.any (·.out) then s.modClk fun k => { k with trip := false } else s
      else hot.foldl (fun (s : State) i => s.thermalTrip i) s)

end Sys2Proof.Machine
end

