-- ==== Sys2Proof/Machine/Boot.lean ====
section
/-!
DEFINITION. Resets and the boot up to its configuration section (R471 to R480): what a full and a warm reset keep, the boot
image, boot steps 1 to 12, and the RESET command.
-/
namespace Sys2Proof.Machine

/-! The boot image (R475). -/

/-- Offset and length of the sections, whose pairs lie at 12, 20, 28 and 36. -/
def sectionAt (img : List Byte) (o : Nat) : Nat × Nat := (fld img o 4, fld img (o + 4) 4)

/-- The bytes of a section. -/
def sectionOfImage (img : List Byte) (o : Nat) : List Byte := slice img (sectionAt img o).1 (sectionAt img o).2

/-- The image a flash slot holds, where it is valid. -/
def imageIn (flash : List Byte) : Option (List Byte) :=
  let len := fld flash 8 4
  let img := slice flash 0 len
  let inside (o : Nat) : Bool := (sectionAt img o).1 + (sectionAt img o).2 ≤ len
  if fld flash 0 4 == 0x424C5345 && fld flash 4 2 == 1 && inRange 256 8388608 len && [12, 20, 28, 36].all inside &&
      signatureOk (Config.keyHash % 2 ^ 256) img then some img
  else none

/-- The protection map of an image (R68): its section in register order from 0x80 on. -/
def protOf (img : List Byte) : ProtMap :=
  let b := sectionOfImage img 12
  let w (r : Nat) : Nat := fld b (r - 0x80) 4
  let g := w 0x90
  { locked := true, version := fld img 6 2,
    classes := (List.range 19).map (fun m => w (0x84 + 4 * (m / 8)) / 16 ^ (m % 8) % 16),
    perfUser := bit g 0, perfSlice := bit g 1, sliceLoadHost := bit g 2, debug := bit g 3,
    regions := (List.range 8).map (fun n => (w (0xA0 + 4 * n) % 65536, w (0xA0 + 4 * n) / 65536)),
    masters := (List.range 7).map (fun m => w (0xC0 + 4 * m) % 65536) }

/-- The messages of a configuration section, in order (R35, R477). n bounds their number. A header that says no length, or a
message cut short, takes all that is left. -/
def splitMessages : Nat → List Byte → List (List Byte)
  | 0, _ => []
  | n + 1, bs =>
    let len := fld bs 4 2
    let whole := 16 + cdiv len 16 * 16
    if bs.isEmpty then []
    else if bs.length < whole || 4096 < len then [bs]
    else bs.take whole :: splitMessages n (bs.drop whole)

/-! Conditions of a boot (R476, R479). -/

/-- The conditions the boot meets. -/
def State.bootEnv (s : State) : BootEnv :=
  s.sys.env.getD { flash0 := [], flash1 := [], xaRuns := false, loopsLock := false, mr8Ok := false, trainRates := [],
                   bandImageOk := false, shiftImageOk := false }

/-- The first code of R479 met in this boot stays in BOOT_CODE. -/
def State.bootCodeMet (s : State) (c : Nat) (degraded : Bool) : State :=
  s.modSys fun y => { y with bootCode := if y.bootCode == 0 then c else y.bootCode, degraded := y.degraded || degraded }

def State.bootHalt (s : State) (c : Nat) (retry : Bool) : State :=
  let s := s.modClk fun k => { k with pcie := true }
  (s.bootCodeMet c false).modSys fun y => { y with halted := true, retryAt := if retry then some (s.now + secT 10) else none }

def State.stage (s : State) (n : Nat) : State := s.modSys fun y => { y with bootStage := n }

/-- The boot is one after a warm reset. -/
def State.warmBoot (s : State) : Bool := s.sys.warmAt.isSome

/-- Data rates of training, fastest first (R344). -/
def trainingRates : List Nat := [4266, 3733, 3200, 2133]

/-- Step 12, one supplied image (R246, R249, R479): on a full boot it goes to its range of slices, else to the slices that held
it; where it fails, those stay empty. -/
def State.loadSupplied (s : State) (kind first last : Nat) (ok : Bool) : State :=
  let held (i : Nat) : Bool :=
    match (s.slc i).image with | some im => im.supplied && im.kind == kind | none => false
  let is := if s.warmBoot then (s.slices.tab.map (·.1)).filter held else (List.range (last + 1 - first)).map (· + first)
  if ok then is.foldl (fun (s : State) i => (s.putImage i (suppliedImage kind)).startSlice i) s
  else (is.foldl (fun (s : State) i => s.modSlc i fun _ => {}) s).bootCodeMet 8 true

/-- Step 12: supplied images, and after a warm reset the programs that hosts had loaded (R246). -/
def State.loadSlices (s : State) : State :=
  let e := s.bootEnv
  let own (i : Nat) : Bool := match (s.slc i).image with | some im => !im.supplied | none => false
  let s := ((s.slices.tab.map (·.1)).filter own).foldl (fun (s : State) i => s.startSlice i) s
  (s.loadSupplied 0 0 95 e.bandImageOk).loadSupplied 1 96 111 e.shiftImageOk

/-- Steps 9 to 12, and the configuration section ready to run. -/
def State.bootFirmware (s : State) (img : List Byte) : State :=
  let s := (s.modSys fun y => { y with fwVersion := Config.fwVersion (sectionOfImage img 28) }).stage 9
  let s := if s.warmBoot then s else s.modTime fun b => { b with dev := 0, devAt := s.now }
  let s := (s.modClk fun k => { k with locked := [true, true, true, false, true] }).stage 10
  let find (m : Module) : Module := if m.present then { m with state := 1 } else m
  let s := (s.modEmit fun e => { e with modules := e.modules.map find }).stage 11
  let s := s.loadSlices.stage 12
  let cfg := sectionOfImage img 36
  let free := s.freeNat
  let m := fld img 44 1
  let known := m == 3 || m == 4
  let s := if known then s else s.tookFree
  s.modSys fun y =>
    { y with cfg := if y.warmAt.isSome then [] else splitMessages cfg.length cfg, cfgIdx := 0, cfgWait := none,
             bootMode := if known then m else 3 + free % 2 }

/-- Steps 7 and 8 of a full boot (R344, R363, R479). -/
def State.bootMemory (s : State) (img : List Byte) : State :=
  let e := s.bootEnv
  let (rate, mib, ranks) := Config.memSection (sectionOfImage img 20)
  if !e.mr8Ok then s.bootHalt 5 false
  else match (trainingRates.filter (· ≤ rate)).find? (fun r => e.trainRates.contains r) with
    | none => (if rate ≤ 2133 then s else s.bootCodeMet 6 false).bootHalt 7 true
    | some r =>
      let s := if r == rate then s else s.bootCodeMet 6 true
      let s := s.modMemc fun m =>
        { m with fittedMib := mib, rateMts := r, ranks := ranks, train := (List.range 16).map (fun n => Config.training n r),
                 vref := (List.range 4).map (fun n => Config.training (16 + n) r), power := 1 }
      let s := s.modMemc fun m => { m with fillLeft := if 1024 < s.usableMib then [(1024, s.usableMib - 1)] else [] }
      (s.stage 8).bootFirmware img

/-- Steps 4 to 6. -/
def State.bootImage (s : State) : State :=
  let e := s.bootEnv
  match imageIn e.flash0, imageIn e.flash1 with
  | none, none => (s.bootCodeMet 2 false).bootHalt 3 false
  | a, b =>
    let s := if a.isSome then s.modSys fun y => { y with imageSlot := 0 }
      else (s.bootCodeMet 2 true).modSys fun y => { y with imageSlot := 1 }
    let img := (a.orElse (fun _ => b)).getD []
    let s := ({ s with prot := protOf img }).stage 5
    if !e.loopsLock then s.bootHalt 4 true
    else
      let s := (s.modClk fun k =>
        { k with locked := [false, true, true, false, false], stwOnHfo := false, pcie := true }).stage 6
      if s.warmBoot then s.bootFirmware img else s.bootMemory img

/-- Steps 1 to 3: the boot goes on once XA runs (R442, R479). -/
def State.boot (s : State) : State :=
  let s := s.stage 2
  if s.bootEnv.xaRuns then
    let s := (s.modClk fun k => { k with xa := true }).modSys fun y => { y with waitXa := false }
    (s.stage 3).bootImage
  else (s.bootCodeMet 1 false).modSys fun y => { y with waitXa := true }

/-! What a reset keeps (R471 to R473, R480). -/

/-- Module positions as a reset leaves them: the presence inputs are pins. -/
def freshModules (ms : List Module) : List Module := ms.map fun (m : Module) => { present := m.present }

/-- A full reset: everything at its reset value but pins, AON's own state, and what R474 keeps. -/
def State.fullReset (s : State) (code : Nat) : State :=
  let r := State.reset
  let y := s.sys
  { r with
    pending := s.pending, now := s.now, fresh := s.fresh,
    ilk := { highAt := s.ilk.highAt, trip := 0 },
    emit := { r.emit with modules := freshModules s.emit.modules },
    time := { onLfo := s.time.onLfo, devAt := s.now },
    clk := { r.clk with xb := s.clk.xb, pwrLow := s.clk.pwrLow, pwrRise := s.clk.pwrRise },
    sys := { resetCause := code, resetKind := 1, warmResets := y.warmResets, attempts := min 15 (y.attempts + 1), env := y.env,
             powered := true, faultProd := y.faultProd, faultCons := y.faultProd, faultSeq := y.faultSeq,
             resetTime := s.dev } }

/-- A zone after a warm reset: its descriptor and its sequence (R276, R480). -/
def warmZone (z : Zone) : Zone :=
  { desc := z.desc, nextSeq := z.nextSeq, effCons := match z.desc with | some d => d.stitch == 1 | none => false }

/-- A session after a warm reset (R321, R322): open, its sequence kept, nothing waiting. -/
def warmSession (x : Session) : Session :=
  { x with resumed := true, events := [], streams := [], objects := [] }

/-- A ring after a warm reset: its registers. -/
def warmRing (r : Ring) : Ring := { r with queue := [] }

/-- The sillage after a warm reset (R300, R480): open tiles have not reached it. -/
def warmSill (x : Sillage) : Sillage :=
  { x with closed := x.closed.map (fun (t : Tile) => { t with read := true, settled := true }), elastic := [], openTiles := [], skipNext := [], hearts := x.hearts.filter (·.indexed), lateRun := [], newest := [],
           written := [], bankFading := false, bankPending := false, firstRun := [], afterCommit := [], modeChanged := [] }

/-- A warm reset (R480). -/
def State.warmReset (s : State) (code : Nat) : State :=
  let r := State.reset
  let y := s.sys
  let held := if y.warmAt.isSome && !y.mbReady then y.warmMode else s.clk.mode
  let s := s.settle.captureWarm
  let w : State := { r with
    pending := s.pending, now := s.now, fresh := s.fresh,
    running := s.running, staged := s.running, bufs := s.bufs,
    ilk := { highAt := s.ilk.highAt, trip := s.ilk.trip },
    emit := { r.emit with modules := freshModules s.emit.modules },
    recv := { r.recv with dieTemp := s.recv.dieTemp, lastTemp := s.recv.lastTemp, corr := s.recv.corr, runs := s.recv.runs },
    sill := warmSill s.sill,
    zones := s.zones.map (fun (e : Nat × Zone) => (e.1, warmZone e.2)),
    cap := { s.cap with starUntil := none, starIgnore := 0 },
    atom := { r.atom with sessions := (s.atom.sessions.filter (fun x => x.closing.isNone)).map warmSession,
                          rings := s.atom.rings.map warmRing, ringCause := s.atom.ringCause,
                          ports := [{}, {}, { link := (s.port 2).link }] },
    memc := { fittedMib := s.memc.fittedMib, rateMts := s.memc.rateMts, ranks := s.memc.ranks, train := s.memc.train,
              vref := s.memc.vref, factor := s.memc.factor, scrubAt := s.memc.scrubAt, fillLeft := s.memc.fillLeft,
              lastCe := s.memc.lastCe, lastUe := s.memc.lastUe, power := 3 },
    slices := { tab := s.slices.tab },
    time := { s.time with ptpState := 0, ptpGood := 0, ptpMaster := none, ptpForeign := [], tiu := none, psOwn := none, psPeer := none },
    inst := { r.inst with taps := s.inst.taps },
    disp := { r.disp with cmap := s.disp.cmap, cmapShown := s.disp.cmap, bgShown := s.p K.dispBgRgb },
    clk := { r.clk with xa := s.clk.xa, xb := s.clk.xb, pwrLow := s.clk.pwrLow, pwrRise := s.clk.pwrRise, trip := s.clk.trip,
                        pcie := s.clk.pcie },
    sys := { resetCause := code, resetKind := 0, warmResets := y.warmResets, attempts := min 15 (y.attempts + 1), env := y.env,
             powered := true, warmAt := some s.now, warmMode := held, faults := y.faults, faultProd := y.faultProd,
             faultCons := y.faultCons, faultSeq := y.faultSeq, devSeq := y.devSeq, made := y.made, resetTime := s.dev } }
  (w.chainResetAll.slicesStop).modTwin fun x => { x with link := b2n (w.pB K.twinEnable) }

/-- R39: discard what is not started, and the responses still to come. -/
def State.flushMbox (s : State) (m : Nat) : State :=
  s.modMbox m fun b =>
    let ended := ((b.held ++ b.split.toList).filter (·.final)).map (·.tag)
    let left := b.inflight.filter (fun g => !ended.contains g)
    { b with inProd := 0, inCons := 0, outProd := 0, outCons := 0, staging := [], held := [], split := none,
             inflight := left, flushed := left }

/-! The RESET command (R52). -/

/-- RESET: OK, and the reset falls due 10 ms later. -/
def State.resetReq (s : State) (q : Req) : State :=
  s.gate q 0x00FE cMaintain true fun s id =>
    if q.mb == 19 then s.final id .denied []
    else if payLen q != 4 || 1 < payU q 0 1 || payU q 1 3 != 0 then s.final id .range []
    else (s.ok id []).modSys fun y =>
      { y with resetDue := match y.resetDue with | some r => some r | none => some (payU q 0 1, s.now + msT 10) }

def execReset (t : Tick) (q : Req) (s : State) : Host.Outcome State Fault Refusal := .next ((s.advance t).resetReq q)

end Sys2Proof.Machine
end

