-- ==== Sys2Proof/Machine/GetParam.lean ====
section
/-!
DEFINITION. GET_PARAM (R54 to R56), and the read-only keys, each computed from the state as its chapter states it.
-/
namespace Sys2Proof.Machine

/-- Distance of a sample of bin b in µm, to nearest: the centre of the gauge it spans, (b − G / 2) × pitch + PCE.DIST_OFFSET_MM, with
the exact pitch v × Δ / 2 (R147, R149). -/
def State.distanceUm (s : State) (b : Nat) : Int :=
  let ps := s.running
  let num : Int := (2 * (b : Int) - (PS.g ps K.pceGauge : Nat)) * (299792458000 * PS.binT ps : Nat)
  rdivI num (4 * PS.g ps K.pceGroupIndex * 6881280) + 1000 * PS.gI ps K.pceDistOffsetMm

/-! Read-only keys, chapter by chapter. -/

/-- A two's-complement value of 32 bits. -/
def i32 (x : Int) : Nat := uns 32 (satI 32 x)
/-- Bits of a list of flags. -/
def bitsOf (xs : List Bool) : Nat := xs.zipIdx.foldl (fun n e => n + b2n e.1 * 2 ^ e.2) 0

/-- Share in percent of the last second that the intervals cover; from: the start of one that still runs. -/
def State.busyPct (s : State) (xs : List (Tick × Tick)) (since : Option Tick) : Nat :=
  let lo := s.now - secT 1
  let xs := match since with
    | some a => (a, s.now) :: xs
    | none => xs
  rdiv (min (secT 1) ((xs.map (fun (e : Tick × Tick) => e.2 - max e.1 lo)).sum) * 100) (secT 1)

/-- SLICE.STATUSn (R255). -/
def State.sliceStatus (s : State) (n : Nat) : Nat :=
  leNat ((List.range 4).map fun i =>
    let x := s.slc (4 * n + i)
    let kind := match x.image with | some im => im.kind | none => 0
    BitVec.ofNat 8 (x.status + 4 * kind + 16 * x.cause))

/-- FLAC.RATIO_PCT (R313). -/
def State.flacRatio (s : State) : Nat :=
  let xs := (s.engines.flatMap (·.recent)).filter (fun e => s.now ≤ e.1 + secT 1)
  min 65535 (rdiv (65536 * xs.length * 100) (xs.map (·.2)).sum)

/-- SYS, SYNTH, EMIT and RECV. -/
def State.roFront (s : State) (k : Nat) : Nat :=
  let ps := s.running
  if k == K.sysPowerMode then s.clk.mode
  else if k == K.sysRunState then s.run.state
  else if k == K.sysShotNumber then s.run.shot
  else if k == K.sysStagedDirty then b2n (s.running != s.staged)
  else if k == K.sysCommitPending then s.commits.length
  else if k == K.sysMgmtMac then Config.mac 2
  else if k == K.synthPulseActualPs then PS.pulsePs ps
  else if k == K.synthLaunchLastOffset then i32 s.run.lastOffset
  else if k == K.synthDrydownNs then PS.drydownNs ps
  else if k == K.emitDerateCap then s.derateCap
  else if k == K.emitWlLocked then b2n s.emit.wlLocked
  else if K.emitModuleState ≤ k && k < K.emitModuleState + 6 then
    (s.modl (k - K.emitModuleState)).state + 256 * (s.modl (k - K.emitModuleState)).reason
  else if K.emitOutActual ≤ k && k < K.emitOutActual + 6 then (s.ch (k - K.emitOutActual)).code
  else if k == K.recvDieTemp then i32 s.recv.dieTemp
  else if K.recvApdBiasActual ≤ k && k < K.recvApdBiasActual + 2 then nth 0 s.emit.apdBias (k - K.recvApdBiasActual)
  else 0

/-- PCE, STITCH and THERM. -/
def State.roSignal (s : State) (k : Nat) : Nat :=
  let ps := s.running
  if k == K.pceBinPitchUm then
    rdiv (299792458000 * PS.binT ps) (2 * PS.g ps K.pceGroupIndex * 6881280)
  else if k == K.pceTruncFirstBin then PS.truncFirst ps
  else if k == K.pceRefMainlobePs then PS.mainlobePs ps
  else if k == K.pceRefPslMdb then i32 (PS.pslMdb ps)
  else if k == K.pceLatencyNs then 25550 + nth 0 [0, 70, 220] (PS.g ps K.pceSpatialMode)
  else if k == K.stitchFallbackZones then
    (s.zones.filter (fun e => match e.2.desc with | some d => d.stitch == 2 && e.2.effCons | none => false)).length
  else if k == K.stitchTrackAlpha then PS.alpha24 ps
  else if k == K.thermCoilTemp then (match s.coilNow with | some v => i32 v | none => 0x80000000)
  else if k == K.thermShiftNkPerBin then
    -- −(B / T) × Δ / c_T in nK: B in kHz, Δ / T as spans of ticks, c_T in kHz/K
    let num : Int := -((PS.g ps K.synthChirpBwKhz * PS.binT ps * 1000000000 : Nat) : Int)
    let den := PS.gI ps K.thermShiftCoefKhzK * (PS.pulseT ps : Nat)
    i32 (if den < 0 then rdivI (-num) den.natAbs else rdivI num den.natAbs)
  else if k == K.thermAccordBeta then PS.accordBeta ps
  else if k == K.thermAccordBetaR then PS.accordBetaR ps
  else if k == K.thermRamanPeriodUs then min 0xFFFFFFFF (rdiv (PS.ramanPeriod ps) (usT 1))
  else if k == K.thermState then s.frameFlagsNow % 32
  else 0

/-- CHAN, SLICE, ZONE, SILL and FLAC. -/
def State.roChain (s : State) (k : Nat) : Nat :=
  if k == K.chanBankState then s.bankState
  else if K.sliceStatus ≤ k && k < K.sliceStatus + 32 then s.sliceStatus (k - K.sliceStatus)
  else if k == K.sliceLoadResult then s.slices.loadResult
  else if k == K.sliceStateBytesBand then (suppliedImage 0).stateBytesSet
  else if k == K.sliceStateBytesShift then (suppliedImage 1).stateBytesSet
  else if k == K.zoneDefined then s.definedZones.length
  else if k == K.zoneBreakBin then s.prof.breakBin.getD 0xFFFFFFFF
  else if k == K.zoneDeviceSequence then s.sys.devSeq
  else if k == K.sillArchiveMib then s.archiveMib
  else if k == K.sillRetainTopMs then min 0xFFFFFFFF (s.retention 0 / 1000000)
  else if k == K.sillRetainHeartMs then min 0xFFFFFFFF (s.retention 1 / 1000000)
  else if k == K.sillRetainBaseS then min 0xFFFFFFFF (s.retention 2 / 1000000000)
  else if K.sillPinnedMib ≤ k && k < K.sillPinnedMib + 3 then
    cdiv ((s.cap.slots.map (fun c => nth 0 c.bytes (k - K.sillPinnedMib))).sum) PS.mib
  else if k == K.flacRatioPct then s.flacRatio
  else if k == K.flacQueueDepth then (s.eng 0).depth % 256 + 256 * ((s.eng 1).depth % 256)
  else if k == K.flacLoadPct then
    let one (e : Engine) : Nat := s.busyPct e.busy (if e.running.isSome then some e.busySince else none)
    one (s.eng 0) + 256 * one (s.eng 1)
  else 0

/-- ATOM, MEMC, TIME and TWIN. -/
def State.roMid (s : State) (k : Nat) : Nat :=
  if K.atomNetMac ≤ k && k < K.atomNetMac + 2 then Config.mac (k - K.atomNetMac)
  else if k == K.atomLink then bitsOf ((List.range 3).map (fun i => (s.port i).link))
  else if k == K.atomSessionsOpen then s.atom.sessions.length
  else if k == K.atomRetrActive then s.atom.jobs.length
  else if k == K.memcFittedMib then s.memc.fittedMib
  else if k == K.memcUsableMib then s.usableMib
  else if k == K.memcRateMts then s.memc.rateMts
  else if k == K.memcRanks then s.memc.ranks
  else if k == K.memcLastCeAddr then s.memc.lastCe
  else if k == K.memcLastUeAddr then s.memc.lastUe
  else if k == K.memcPasrMask then s.pasrMask
  else if k == K.memcRefreshState then s.memc.factor + 256 * s.memc.postMax
  else if k == K.memcFillState then s.fillState
  else if K.memcTrain ≤ k && k < K.memcTrain + 16 then nth 0 s.memc.train (k - K.memcTrain)
  else if K.memcVref ≤ k && k < K.memcVref + 4 then nth 0 s.memc.vref (k - K.memcVref)
  else if k == K.timeState then bitsOf [s.time.valid, s.time.fromBackup, s.time.stepped, s.time.onLfo]
  else if k == K.timeUtcOffsetS then i32 s.time.utcOffset
  else if k == K.timePtpState then s.time.ptpState
  else if k == K.timePtpOffsetNs then i32 s.time.ptpOffset
  else if k == K.timePtpFreqPpt then i32 s.time.ptpFreq
  else if k == K.timePairsyncOffsetPs then i32 s.time.psOffset
  else if k == K.timePairsyncDelayPs then min 0xFFFFFFFF s.time.psDelay
  else if k == K.timePairsyncAgeS then s.time.psAge
  else if k == K.twinLinkState then s.twin.link
  else 0

/-- INST, DISP, CLK, MON and CAL. -/
def State.roBack (s : State) (k : Nat) : Nat :=
  if k == K.instWinState then bitsOf s.inst.outside
  else if k == K.instFqoState then bitsOf (s.inst.fqos.map (·.failsafe))
  else if k == K.instQueueDepth then
    s.inst.queue.length + (match s.inst.running with | some c => b2n (c.req != 0) | none => 0)
  else if k == K.instBusyPct then s.busyPct s.inst.busy (s.inst.running.map (·.startAt))
  else if k == K.dispFrameMhz then s.frameMhz
  else if k == K.clkLockState then bitsOf s.clk.locked + 256 * b2n s.clk.xa + 512 * b2n s.clk.xb
  else if k == K.clkDomainRun then bitsOf ((List.range 12).map s.domainRuns)
  else if k == K.clkLastModeCause then s.clk.lastCause
  else if k == K.monState then
    bitsOf (s.clk.temps.map (·.out)) + 256 * bitsOf (s.clk.volts.map (·.out)) + 2 ^ 20 * b2n s.clk.trip
  else if k == K.calLastTemp then i32 s.recv.lastTemp
  else 0

/-- A read-only key. -/
def State.roValue (s : State) (k : Nat) : Nat :=
  if k < 0x0500 then s.roFront k
  else if k < 0x0800 then s.roSignal k
  else if k < 0x0D00 then s.roChain k
  else if k < 0x1100 then s.roMid k
  else s.roBack k

/-- A counter key, or a flag key that only 0 may be written to (R12, R66, R469). -/
def State.counterValue (s : State) (k : Nat) : Nat :=
  if K.sysMboxFlags ≤ k && k < K.sysMboxFlags + 3 then
    let b := s.mbox (16 + (k - K.sysMboxFlags))
    2 * b2n b.protoErr + 4 * b2n b.crcErr
  else if K.sysMboxCrcErr ≤ k && k < K.sysMboxCrcErr + 3 then (s.mbox (16 + (k - K.sysMboxCrcErr))).crcErrCount.val
  else if K.sysMboxRefused ≤ k && k < K.sysMboxRefused + 3 then (s.mbox (16 + (k - K.sysMboxRefused))).refusedCount.val
  else if k == K.clkStoppedSource then s.clk.stoppedSource
  else if k == K.clkCoalesced then s.clk.coalesced
  else (s.ctr k).val

/-- The tap of INST.BANK_DATAn at the present index (R410), 0 past the last tap. -/
def State.bankData (s : State) (n : Nat) : Nat :=
  let i := s.p K.instBankIndex
  if i % 256 + n ≤ 199 then aget 0 s.inst.taps (i % 256 + n + 200 * (i / 65536)) else 0

/-- The colour of DISP.CMAP_DATAn at the present index (R435). -/
def State.cmapData (s : State) (n : Nat) : Nat :=
  let i := s.p K.dispCmapIndex
  if i % 256 + n < 256 then aget 0 s.disp.cmap (i % 256 + n + 256 * (i / 256 % 2)) else 0

/-- The value of a key of the running (0) or staged (1) set (R55, R56). -/
def State.keyValue (s : State) (src : Nat) (r : ParamRow) (k : Nat) : Nat :=
  match r.kind with
  | .ro => s.roValue k
  | .counter => s.counterValue k
  | .commit => setGet (if src == 0 then s.running else s.staged) k
  | .imm =>
    if K.instBankData ≤ k && k < K.instBankData + 64 then s.bankData (k - K.instBankData)
    else if K.dispCmapData ≤ k && k < K.dispCmapData + 64 then s.cmapData (k - K.dispCmapData)
    else s.p k

/-- What a read of a key changes: TIME.STATE [2] and MEMC.REFRESH_STATE [15:8] (R364, R384). -/
def State.keyRead (s : State) (k : Nat) : State :=
  if k == K.timeState then s.modTime fun b => { b with stepped := false }
  else if k == K.memcRefreshState then s.modMemc fun m => { m with postMax := 0 }
  else s

/-- One entry of a response: key, length, value padded to 4 bytes. -/
def entryBytes (k len v : Nat) : List Byte :=
  leBytes 2 k ++ leBytes 2 len ++ leBytes len v ++ List.replicate ((4 - len % 4) % 4) 0

/-- The keys in order (R56): the response so far, or the status and index of the first that fails. -/
def State.getKeys (s : State) (src : Nat) : List Nat → Nat → List Byte → Except (Status × Nat) (List Byte)
  | [], _, out => .ok out
  | k :: ks, i, out =>
    match paramRow k with
    | none => .error (.badKey, i)
    | some r =>
      let e := entryBytes k r.ty.len (s.keyValue src r k)
      if 4096 < out.length + e.length then .error (.range, i) else s.getKeys src ks (i + 1) (out ++ e)

/-- GET_PARAM (R55, R56). -/
def State.getParam (s : State) (q : Req) : State :=
  s.gate q 0x0002 cObserve true fun s id =>
    let n := payU q 0 2
    if payLen q < 4 || n < 1 || 256 < n || 1 < payU q 2 2 || payLen q != 4 + 2 * n then s.final id .range []
    else
      let ks := (List.range n).map (fun i => payU q (4 + 2 * i) 2)
      match s.getKeys (payU q 2 2) ks 0 [] with
      | .error e => s.final id e.1 (leBytes 2 e.2)
      | .ok out => (ks.foldl State.keyRead s).ok id out

def execGetParam (t : Tick) (q : Req) (s : State) : Host.Outcome State Fault Refusal := .next ((s.advance t).getParam q)

end Sys2Proof.Machine
end

