-- ==== Sys2Proof/Machine/SetParam.lean ====
section
/-!
DEFINITION. SET_PARAM (R54, R55, R57): the checks of each entry with the conditions of every chapter, the writes, and what
the written keys do to their blocks.
-/
namespace Sys2Proof.Machine

/-! Writing one key. -/

/-- A counter or flag key is cleared (R12, R66, R469). -/
def State.clearKey (s : State) (k : Nat) : State :=
  if K.sysMboxFlags ≤ k && k < K.sysMboxFlags + 3 then
    s.modMbox (16 + (k - K.sysMboxFlags)) fun b => { b with protoErr := false, crcErr := false }
  else if K.sysMboxCrcErr ≤ k && k < K.sysMboxCrcErr + 3 then
    let m := 16 + (k - K.sysMboxCrcErr)
    s.modMbox m fun b => { b with crcErrCount := s.cleared (regCtrId (0x101C + 0x100 * m)) }
  else if K.sysMboxRefused ≤ k && k < K.sysMboxRefused + 3 then
    let m := 16 + (k - K.sysMboxRefused)
    s.modMbox m fun b => { b with refusedCount := s.cleared (regCtrId (0x1020 + 0x100 * m)) }
  else if k == K.clkStoppedSource then s.modClk fun c => { c with stoppedSource := 0 }
  else if k == K.clkCoalesced then s.modClk fun c => { c with coalesced := 0 }
  else s.clearCtr k

/-- INST.BANK_DATAn writes tap index + n of the bank at the index (R410). -/
def State.tapWrite (s : State) (n v : Nat) : State :=
  let i := s.p K.instBankIndex
  s.modInst fun x => { x with taps := aset 0 x.taps (i % 256 + n + 200 * (i / 65536)) v }

/-- The value goes where the key's kind says (R55, R57). -/
def State.writeKey (s : State) (k v : Nat) : State :=
  match paramRow k with
  | none => s
  | some r =>
    match r.kind with
    | .ro => s
    | .counter => s.clearKey k
    | .commit => { s with staged := setPut s.staged k v }
    | .imm =>
      if K.instBankData ≤ k && k < K.instBankData + 64 then s.tapWrite (k - K.instBankData) v
      else if K.dispCmapData ≤ k && k < K.dispCmapData + 64 then s.cmapWrite (k - K.dispCmapData) v
      else s.putBoth k v

/-! Conditions of the chapters. -/

/-- A scan configuration, or a queued or running conversion, uses bank b, 0 or 1 (R410). -/
def State.bankUsed (s : State) (b : Nat) : Bool :=
  s.scanned.any (fun i => cfgPreset (s.p (K.instCfg + i)) == 5 + b) ||
    s.inst.queue.any (fun c => cfgPreset c.cfg == 5 + b) ||
    (match s.inst.running with | some c => cfgPreset c.cfg == 5 + b | none => false)

/-- The bank whose key this is (R410). -/
def State.bankOfKey (s : State) (k : Nat) : Option Nat :=
  if k == K.instBankaTaps || k == K.instBankaDecim then some 0
  else if k == K.instBankbTaps || k == K.instBankbDecim then some 1
  else if K.instBankData ≤ k && k < K.instBankData + 64 then some (s.p K.instBankIndex / 65536)
  else none

/-- The comparators a window key concerns keep LOW + 2 × HYST below HIGH (R423). -/
def State.windowOk (s : State) (n : Nat) : Bool :=
  s.p (K.instWinLow + n) + 2 * s.p K.instWinHystMv < s.p (K.instWinHigh + n)

/-- Output value v lies in the range of a mode (R425). -/
def fqoIn (mode v : Nat) : Bool :=
  if mode == 1 then 100 ≤ v && v ≤ 100000000 else if mode == 2 then v ≤ 65536 else true

/-- Configuration of frequency output n (R425). -/
def State.fqoOk (s : State) (n : Nat) : Bool :=
  let mode := s.p (K.instFqoMode + n)
  s.p (K.instFqoVLow + n) != s.p (K.instFqoVHigh + n) && fqoIn mode (s.p (K.instFqoOutLow + n)) &&
    fqoIn mode (s.p (K.instFqoOutHigh + n))

/-- Nominal clock in Hz of a code of CLK.CLKOUT_SEL (R450, R469). -/
def State.clkoutHz (s : State) (sel : Nat) : Nat :=
  match sel with
  | 1 => 800000000
  | 7 => 322265625
  | 9 => s.p K.dispPixelKhz * 1000
  | 12 => 30720000
  | 13 => 96000000
  | 14 => 32768
  | 15 => 0
  | d => s.domainHz d

/-- CLKOUT's nominal output is at most 200 MHz (R450). -/
def State.clkoutOk (s : State) : Bool := s.clkoutHz (s.p K.clkClkoutSel) ≤ 200000000 * s.p K.clkClkoutDiv

/-- Conditions of chapters 04 to 09 and 14 on a write of v to k, s before the write. -/
def State.frontCond (s : State) (k v : Nat) : Status :=
  if k == K.emitEnable then
    if (List.range 6).any (fun c => bit v c && !bit (s.p K.emitEnable) c && !s.chanValid c) then .state else .ok
  else if K.emitSetpoint ≤ k && k < K.emitSetpoint + 6 then
    if s.maxCode (k - K.emitSetpoint) < v then .range else .ok
  else if k == K.emitLoopMode then
    if bit v 2 != bit v 3 then .range else .ok
  else if k == K.calAuto then
    if v == 1 && s.shots && PS.drydown s.running < ((nsT 4000 : Nat) : Int) then .state else .ok
  else if K.chanCoefA ≤ k && k < K.chanCoefA + 160 then
    let bank := if k < K.chanCoefB then 0 else 1
    if s.sill.bankFading || s.sill.bankActive == bank then .state else .ok
  else if k == K.atomPrpEn then
    if s.atom.sessions.any (fun x => x.transport != 2 && x.ports % 4 != 0) then .state else .ok
  else .ok

/-- Conditions of chapters 18 and 20 on a write of v to k. -/
def State.backCond (s : State) (k v : Nat) : Status :=
  let w := s.writeKey k v
  let bad (b : Bool) : Status := if b then .ok else .range
  match s.bankOfKey k with
  | some b =>
    if s.bankUsed b then .state
    else if K.instBankData ≤ k && 199 < s.p K.instBankIndex % 256 + (k - K.instBankData) then .range
    else .ok
  | none =>
    if K.instCfg ≤ k && k < K.instCfg + 16 then bad (s.cfgOk (k - K.instCfg) v)
    else if k == K.instScanMask then bad (w.scanned.all (fun i => s.cfgOk i (s.p (K.instCfg + i))))
    else if K.instWinLow ≤ k && k < K.instWinLow + 4 then bad (w.windowOk (k - K.instWinLow))
    else if K.instWinHigh ≤ k && k < K.instWinHigh + 4 then bad (w.windowOk (k - K.instWinHigh))
    else if k == K.instWinHystMv then bad ((List.range 4).all w.windowOk)
    else if K.instFqoSource ≤ k && k < K.instFqoSource + 4 then bad (v % 256 ≤ 2 && v / 2 ^ 20 == 0)
    else if K.instFqoFault ≤ k && k < K.instFqoFault + 4 then
      bad (fqoIn (s.p (K.instFqoMode + (k - K.instFqoFault))) v)
    else if K.instFqoMode ≤ k && k < K.instFqoFailsafe && !(K.instFqoSource ≤ k && k < K.instFqoVLow) then
      bad (w.fqoOk ((k - K.instFqoMode) % 4))
    else if k == K.clkClkoutSel || k == K.clkClkoutDiv then bad w.clkoutOk
    else if K.monVoltLow ≤ k && k < K.monVoltLow + 12 then bad (v < s.p (K.monVoltHigh + (k - K.monVoltLow)))
    else if K.monVoltHigh ≤ k && k < K.monVoltHigh + 12 then bad (s.p (K.monVoltLow + (k - K.monVoltHigh)) < v)
    else .ok

/-- The checks of one entry in the order of R55. -/
def State.entryStatus (s : State) (k : Nat) (bytes : List Byte) : Status :=
  match paramRow k with
  | none => .badKey
  | some r =>
    let v := leNat bytes
    if bytes.length != r.ty.len || (r.ty == .bool && 1 < v) || !r.range.ok r.ty v then .range
    else if r.kind == .ro then .denied
    else if k < 0x1100 || (0x1500 ≤ k) then s.frontCond k v
    else s.backCond k v

/-- Entries in order, each judged with the ones before it written: the set of all writes, or the first failure. -/
def State.trySet (s : State) : List (Nat × List Byte) → Nat → Except (Status × Nat) State
  | [], _ => .ok s
  | e :: es, i =>
    match s.entryStatus e.1 e.2 with
    | .ok => (s.writeKey e.1 (leNat e.2)).trySet es (i + 1)
    | st => .error (st, i)

/-! What the writes do, once all have passed. -/

/-- Key k has been written; old is the state before the command. -/
def State.keyEffect (s : State) (old : State) (k : Nat) : State :=
  if k == K.emitEnable then s.enableWrite (old.p k)
  else if k == K.emitWlMode || k == K.emitWlTarget then (if s.wlRuns then s else s.wlDrop)
  else if K.emitSetpoint ≤ k && k < K.emitSetpoint + 6 then s.setpointWrite (k - K.emitSetpoint) (old.p k)
  else if k == K.emitLoopMode then s.loopModeWrite (old.p k)
  else if k == K.recvApdMode || k == K.recvApdMarginMv || k == K.recvApdGain || k == K.recvApdFixedMv ||
      k == K.recvApdFixedMv + 1 then s.apdApply
  else if k == K.calTrackEn then if s.pB k then s else s.trackStop
  else if k == K.chanBankSelect then s.bankRequest (s.p k)
  else if K.instCfg ≤ k && k < K.instCfg + 16 then
    if s.p k == old.p k then s else s.cfgChanged (k - K.instCfg)
  else if k == K.instScanMask then s.convGo
  else if K.instIexUa ≤ k && k < K.instIexUa + 2 then
    if s.p k == old.p k then s else s.iexChanged (k - K.instIexUa)
  else if k == K.instWinEnable then
    ((List.range 4).filter fun n => bit (s.p k) n && !bit (old.p k) n).foldl (fun (s : State) n => s.winGo n false) s
  else if K.instWinLow ≤ k && k ≤ K.instWinHystMv then
    if s.p k == old.p k then s
    else s.modInst fun x =>
      { x with winSince := x.winSince.zipIdx.map fun (e : Tick × Nat) =>
          if k == K.instWinHystMv || e.2 == (k - K.instWinLow) % 4 then s.now else e.1 }
  else if k == K.timePtpMode then s.ptpModeWrite (old.p k)
  else if k == K.timePairsyncEn then s.pairsyncWrite (old.pB k)
  else if k == K.timePtpPort || k == K.timePtpDomain || k == K.timePtpTransport then
    if s.p k == old.p k then s else s.ptpAgain
  else if k == K.clkClkoutSel || k == K.clkGateEn then
    s.modClk fun c => { c with gated := c.gated.filter (fun d => bit (s.p K.clkGateEn) d && s.p K.clkClkoutSel != d) }
  else s

/-- The entries that a payload holds from its fifth byte on, where they fill it exactly. n bounds them. -/
def parseEntries : Nat → List Byte → Option (List (Nat × List Byte))
  | 0, bs => if bs.isEmpty then some [] else none
  | n + 1, bs =>
    let len := fld bs 2 2
    let whole := 4 + (len + 3) / 4 * 4
    if bs.length < whole then none
    else (parseEntries n (bs.drop whole)).map (fun es => (fld bs 0 2, slice bs 4 len) :: es)

/-- The response of a SET_PARAM, the newest datagram, leaves from the address and port of the state before the command (R64). -/
def State.answeredFrom (s old : State) (q : Req) : State :=
  if q.mb == 16 || q.mb == 17 then
    s.modAtom fun a => { a with datagrams := match a.datagrams.getLast? with
      | some d => a.datagrams.dropLast ++ [(old.mgmtEnd q.mb q.peer, d.2)]
      | none => [] }
  else s

/-- SET_PARAM (R54, R55, R57, R64). -/
def State.setParam (s : State) (q : Req) : State :=
  s.gate q 0x0003 cConfigure true fun s id =>
    let n := payU q 0 2
    if payLen q < 4 || n < 1 || 256 < n || payU q 2 2 != 0 then s.final id .range []
    else match parseEntries n (q.payload.drop 4) with
      | none => s.final id .range []
      | some es =>
        let keys := (es.map (·.1)).eraseDups
        match s.trySet es 0 with
        | .error e => s.final id e.1 (leBytes 2 e.2)
        | .ok _ =>
          let s := if keys.contains K.timeSlewMaxPpb then s.settle else s
          let w := es.foldl (fun (s : State) e => s.writeKey e.1 (leNat e.2)) s
          ((keys.foldl (fun w k => w.keyEffect s k) w).ok id []).answeredFrom s q

def execSetParam (t : Tick) (q : Req) (s : State) : Host.Outcome State Fault Refusal := .next ((s.advance t).setParam q)

end Sys2Proof.Machine
end

