-- ==== Sys2Proof/Machine/Mailbox.lean ====
section
/-!
DEFINITION. Mailboxes (R32 to R48, R62 to R66): IDENT, the opcode table, the inbound rings, UDP and SPI transport, and the
registers of BAR0.
-/
namespace Sys2Proof.Machine

/-! IDENT (R50). -/

def State.ident (s : State) (q : Req) : State :=
  s.gate q 0x0001 cObserve true fun s id =>
    if payLen q != 0 then s.final id .range []
    else
      let cls := if q.mb == 19 then 15 else nth 0 s.prot.classes q.mb
      s.ok id (leBytes 2 0x4096 ++ leBytes 1 0xB0 ++ leBytes 1 (b2n Config.orderIB) ++ leBytes 4 s.sys.fwVersion ++
        leBytes 8 Config.dieSerial ++ leBytes 2 s.prot.version ++ leBytes 1 s.twinId ++ leBytes 1 s.clk.mode ++ leBytes 1 cls ++
        leBytes 3 0 ++ leBytes 4 s.memc.fittedMib)

def execIdent (t : Tick) (q : Req) (s : State) : Host.Outcome State Fault Refusal := .next ((s.advance t).ident q)

/-! The opcode table (R46 step 2, R50). -/

/-- A request with this opcode is executed; an opcode outside the table is refused. -/
def State.dispatch (s : State) (op : Nat) (q : Req) : State :=
  match op with
  | 0x0001 => s.ident q
  | 0x0002 => s.getParam q
  | 0x0003 => s.setParam q
  | 0x0004 => s.commit q
  | 0x0010 => s.start q
  | 0x0011 => s.stop q
  | 0x0020 => s.calRequest q
  | 0x0021 => s.calStatus q
  | 0x0022 => s.selftest q
  | 0x0030 => s.captureArm q
  | 0x0031 => s.captureStatus q
  | 0x0032 => s.captureRelease q
  | 0x0040 => s.retrieve q
  | 0x0041 => s.retrieveCancel q
  | 0x0050 => s.sessionOpen q
  | 0x0051 => s.sessionClose q
  | 0x0052 => s.sessionModify q
  | 0x0060 => s.zoneLoad q
  | 0x0061 => s.zoneRead q
  | 0x0070 => s.sliceLoad q
  | 0x0071 => s.sliceStart q
  | 0x0080 => s.instRead q
  | 0x0081 => s.instInject q
  | 0x0090 => s.tiuMeasure q
  | 0x0091 => s.timeSet q
  | 0x00A0 => s.twinStatus q
  | 0x00A1 => s.twinControl q
  | 0x00B0 => s.dispLayer q
  | 0x00B1 => s.dispCheck q
  | 0x00C0 => s.monRead q
  | 0x00D0 => s.perfConfig q
  | 0x00D1 => s.perfRead q
  | 0x00E0 => s.moduleRead q
  | 0x00E1 => s.ilkClear q
  | 0x00F0 => s.powerMode q
  | 0x00FE => s.resetReq q
  | _ => s.refuse (reqId q op) .unknownOp false

/-! Messages (R35, R41 to R43). -/

/-- Payload length of a header. -/
def msgLen (bs : List Byte) : Nat := fld bs 4 2
/-- Bytes of a message with its padding. -/
def msgSize (bs : List Byte) : Nat := 16 + cdiv (msgLen bs) 16 * 16
/-- A header that R43 calls a protocol error. -/
def headBad (bs : List Byte) : Bool := 4096 < msgLen bs || fld bs 6 2 != 0
/-- The CRC of a message holds. -/
def crcGood (bs : List Byte) : Bool := fld bs 12 4 == crc32c (slice bs 0 12 ++ slice bs 16 (msgLen bs))

/-- The request a message holds. -/
def reqOf (mb : Nat) (peer : Peer) (bs : List Byte) : Req :=
  { mb := mb, tag := fld bs 2 2, seq := fld bs 8 4, payload := slice bs 16 (msgLen bs), peer := peer }

/-- A peer where the transport has none. -/
def noPeer : Peer := { addr := 0, port := 0 }

/-- CHECK_FAIL with the received opcode and tag (R43). -/
def State.checkFail (s : State) (mb : Nat) (peer : Peer) (bs : List Byte) : State :=
  s.refuse (reqId (reqOf mb peer bs) (fld bs 0 2)) .checkFail false

/-- A protocol error (R43, R66). -/
def State.protoError (s : State) (mb : Nat) (peer : Peer) (bs : List Byte) : State :=
  (s.flagMbox mb 1 fun b => { b with protoErr := true }).checkFail mb peer bs

/-- A failed CRC (R43, R34). -/
def State.crcError (s : State) (mb : Nat) (peer : Peer) (bs : List Byte) : State :=
  let s := s.flagMbox mb 2 fun b => { b with crcErr := true, crcErrCount := b.crcErrCount.add32 1 }
  (s.hwMark (regCtrId (0x101C + 0x100 * mb))).checkFail mb peer bs

/-- A whole message is taken (R43, R46). -/
def State.takeMessage (s : State) (mb : Nat) (peer : Peer) (bs : List Byte) : State :=
  if crcGood bs then s.dispatch (fld bs 0 2) (reqOf mb peer bs) else s.crcError mb peer bs

/-! Inbound rings (R35 to R37, R40, R43). -/

/-- Bytes of n ring units from unit u on, wrapping at 256 (R35). -/
def ringRead (mem : Memory) (base u : Nat) : Nat → List Byte
  | 0 => []
  | n + 1 => Memory.readBytes mem (base + u % 256 * 16) 16 ++ ringRead mem base (u + 1) n

/-- The steward copies the visible units of mailbox m (R37). -/
def State.copyUnits (s : State) (m : Nat) : State :=
  let b := s.mbox m
  let n := (b.inProd - b.inCons).toNat
  let bs := ringRead s.bufs (inBase m) b.inCons.toNat n
  s.modMbox m fun b => { b with staging := b.staging ++ bs, inCons := b.inProd }

/-- An immediate command of mailbox m has not finished: a SESSION_CLOSE whose response is still to come (R49, R321). -/
def State.unfinished (s : State) (m : Nat) : Bool :=
  s.atom.sessions.any (fun x => match x.closing with | some id => id.mb == m | none => false)

/-- Whole messages of mailbox m are taken in ring order, the next only once an immediate command before it has finished (R43,
R49). n bounds their number. -/
def State.takeStaged (s : State) (m : Nat) : Nat → State
  | 0 => s
  | n + 1 =>
    let bs := (s.mbox m).staging
    if bs.length < 16 || s.unfinished m then s
    else if headBad bs then (s.modMbox m fun b => { b with staging := [] }).protoError m noPeer bs
    else if bs.length < msgSize bs then s
    else ((s.modMbox m fun b => { b with staging := bs.drop (msgSize bs) }).takeMessage m noPeer bs).takeStaged m n

/-- Serve mailbox m: once MB_READY is set (R40). -/
def State.serve (s : State) (m : Nat) : State := if s.sys.mbReady then (s.copyUnits m).takeStaged m 520 else s

/-- A write of IN_PROD (R36). -/
def State.inProdWrite (s : State) (m : Nat) (v : Word) : State :=
  let b := s.mbox m
  if serialLt 32 v.toNat b.inProd.toNat || 256 < (v - b.inCons).toNat then s.flagMbox m 0 fun b => { b with overrun := true }
  else ((s.modMbox m fun b => { b with inProd := v }).pulse 0 m 8 1).serve m

/-- BAR0 answers: the PCIe endpoint runs. -/
def State.bar (s : State) : Bool := s.clk.pcie && s.clk.mode != 0

/-- IN_PROD_WRITE (R36, R40). -/
def execInProdWrite (t : Tick) (m : Nat) (v : Word) (s : State) : Host.Outcome State Fault Refusal :=
  let s := s.advance t
  .next (if s.bar && m < 16 then s.inProdWrite m v else s)

/-- A write of OUT_CONS (R514); room lets held responses enter (R38). -/
def State.outConsWrite (s : State) (m : Nat) (v : Word) : State :=
  let b := s.mbox m
  if serialLt 32 v.toNat b.outCons.toNat || serialLt 32 b.outProd.toNat v.toNat then s.flagMbox m 3 fun b => { b with outErr := true }
  else (s.modMbox m fun b => { b with outCons := v }).pump m 66

/-- OUT_CONS_WRITE (R514). -/
def execOutConsWrite (t : Tick) (m : Nat) (v : Word) (s : State) : Host.Outcome State Fault Refusal :=
  let s := s.advance t
  .next (if s.bar && m < 16 then s.outConsWrite m v else s)

/-- RESPONSE_RELEASE (R38). -/
def execResponseRelease (t : Tick) (m : Nat) (s : State) : Host.Outcome State Fault Refusal :=
  let s := s.advance t
  .next (if m < 16 then s.pump m 66 else s)

/-- FLUSH (R39). -/
def execFlush (t : Tick) (m : Nat) (v : Word) (s : State) : Host.Outcome State Fault Refusal :=
  let s := s.advance t
  .next (if s.bar && m < 16 && bit v.toNat 0 then s.flushMbox m else s)

/-! UDP (R62 to R64). -/

/-- A whole message of mailbox 16, 17 or 18 is taken, or waits until the immediate command before it has finished (R49). -/
def State.takeOrWait (s : State) (mb : Nat) (peer : Peer) (bs : List Byte) : State :=
  if s.unfinished mb then s.modMbox mb fun b => { b with later := b.later ++ [(peer, bs)] } else s.takeMessage mb peer bs

/-- The messages that waited are taken in order. n bounds their number. -/
def State.takeLater (s : State) (mb : Nat) : Nat → State
  | 0 => s
  | n + 1 =>
    if s.unfinished mb then s
    else match (s.mbox mb).later with
      | [] => s
      | e :: rest => ((s.modMbox mb fun b => { b with later := rest }).takeMessage mb e.1 e.2).takeLater mb n

/-- An immediate command of mailbox m has finished: what waited for it is taken (R49). -/
def State.finished (s : State) (m : Nat) : State := if m < 16 then s.serve m else s.takeLater m ((s.mbox m).later.length)

/-- SESSION_CLOSE_COMPLETE (R49, R321). -/
def execSessionCloseComplete (t : Tick) (session : Nat) (s : State) : Host.Outcome State Fault Refusal :=
  let s := s.advance t
  .next (match s.session session with
    | none => s
    | some x =>
      match x.closing with
      | some id =>
        if s.sessionQueued session then s
        else ((s.modAtom fun a => { a with sessions := a.sessions.filter (fun y => y.num != session) }).final id .ok []).finished id.mb
      | none => s)

/-- A datagram of a UDP mailbox that is not one whole message, or comes from another source while one is bound, is discarded
and counted. -/
def State.datagramDrop (s : State) (mb : Nat) : State := s.refusedMbox mb

/-- The UDP mailbox that listens on an address and port: mailbox 16 on SYS.MGMT_UDP_PORT and mailbox 17 on the next port, at the
management port's addresses (R62, R64). -/
def State.mgmtMbox (s : State) (dst : Peer) : Option Nat :=
  if dst.addr == 0 || !(s.portAddrs 2).contains dst.addr then none
  else if dst.port == s.mgmtPort 16 then some 16
  else if dst.port == s.mgmtPort 17 then some 17
  else none

/-- A datagram for mailbox mb (R43, R62, R63). A bad header is judged before the length of the datagram (assumption 95). -/
def State.datagram (s : State) (mb : Nat) (peer : Peer) (bytes : List Byte) : State :=
  let other := match (s.mbox mb).bound with | some p => decide (p ≠ peer) | none => false
  if other || bytes.length < 16 then s.datagramDrop mb
  else if headBad bytes then s.protoError mb peer bytes
  else if bytes.length != 16 + msgLen bytes && bytes.length != msgSize bytes then s.datagramDrop mb
  else if !crcGood bytes then s.crcError mb peer bytes
  else (s.modMbox mb fun b => { b with bound := some peer, boundAt := s.now }).takeOrWait mb peer bytes

/-- MGMT_DATAGRAM (R40, R62, R64). -/
def execMgmtDatagram (t : Tick) (dst peer : Peer) (bytes : List Byte) (s : State) : Host.Outcome State Fault Refusal :=
  let s := s.advance t
  .next (
    if !s.sys.mbReady || s.clk.mode == 0 then s
    else match s.mgmtMbox dst with
      | some mb => s.datagram mb peer bytes
      | none => s)

/-- MGMT_BIND_RELEASE (R63). -/
def execMgmtBindRelease (t : Tick) (mb : Nat) (s : State) : Host.Outcome State Fault Refusal :=
  let s := s.advance t
  .next (if (mb == 16 || mb == 17) && (s.mbox mb).bound.isSome && (s.mbox mb).boundAt + secT (s.p K.sysMgmtBindIdleS) ≤ s.now then
      s.modMbox mb fun b => { b with bound := none }
    else s)

/-! SPI (R40, R65). -/

/-- Status bit 1 of R65: the SPI mailbox has room for a 4,112-byte message: the steward serves it, and no message waits there to be
taken (assumption 94). -/
def State.spiRoom (s : State) : Bool := s.sys.mbReady && (s.mbox 18).later.isEmpty

/-- SPI_WRITE_MESSAGE (R40, R65): bytes past the message's end are ignored; a message is whole once its payload is there, its
padding or not (assumption 47). -/
def execSpiWriteMessage (t : Tick) (bytes : List Byte) (s : State) : Host.Outcome State Fault Refusal :=
  let s := s.advance t
  .next (
    if !s.sys.mbReady || s.clk.mode == 0 then s
    else if !s.spiRoom then s.refusedMbox 18
    else if bytes.length < 16 then s.flagMbox 18 1 fun b => { b with protoErr := true }
    else if headBad bytes then s.protoError 18 noPeer bytes
    else if bytes.length < 16 + msgLen bytes then s.flagMbox 18 1 fun b => { b with protoErr := true }
    else s.takeOrWait 18 noPeer bytes)

/-- SPI_READ_RESPONSE (R65): n bytes are clocked out. A command of mailbox 18 leaves flight when its final response has been clocked
out whole (assumption 96). -/
def execSpiReadResponse (t : Tick) (n : Nat) (s : State) : Host.Outcome State Fault Refusal :=
  let s := s.advance t
  .next (match (s.mbox 18).held with
    | [] => s.modSys fun y => { y with spiData := List.replicate 16 0 }
    | r :: rest =>
      let s := s.modSys fun y => { y with spiData := r.bytes.take n }
      if r.bytes.length ≤ n then s.modMbox 18 fun b => ({ b with held := rest }).finish r else s)

/-- SPI_READ_STATUS (R65). -/
def execSpiReadStatus (t : Tick) (s : State) : Host.Outcome State Fault Refusal :=
  let s := s.advance t
  let v := b2n (!(s.mbox 18).held.isEmpty) + 2 * b2n s.spiRoom + 4 * b2n s.sys.mbReady
  .next (s.modSys fun y => { y with spiData := leBytes 1 v })

/-! Registers of BAR0 (R32 to R34, R68, R332, R333, R468, R474). -/

/-- A write of FAULT_CONS (R485). -/
def State.faultConsWrite (s : State) (v : Word) : State :=
  if serialLt 32 s.sys.faultProd.toNat v.toNat then s
  else
    let excess := (s.sys.faultProd - v).toNat - 4096
    s.faultsLost (v + BitVec.ofNat 32 excess) excess

/-- FAULT_CONS_WRITE (R485). -/
def execFaultConsWrite (t : Tick) (v : Word) (s : State) : Host.Outcome State Fault Refusal :=
  let s := s.advance t
  .next (if s.bar then s.faultConsWrite v else s)

/-- The ring whose block holds an offset of the descriptor region, and the register's offset in it (R332). -/
def ringAt (off : Nat) : Option (Nat × Nat) :=
  if 0x3000 ≤ off && off < 0x3880 then some ((off - 0x3000) / 0x40, off % 0x40) else none

/-- A write into a ring block (R333, R334). -/
def State.ringRegWrite (s : State) (i r : Nat) (v : Word) : State :=
  let locked (f : Ring → Ring) : State := if (s.ring i).enable then s else s.modRing i f
  match r with
  | 0x00 => locked fun x => { x with baseLo := v }
  | 0x04 => locked fun x => { x with baseHi := v }
  | 0x08 => s.ringEnableWrite i v
  | 0x10 => s.modRing i fun x => { x with tail := v }
  | 0x14 => locked fun x => { x with wbLo := v }
  | 0x18 => locked fun x => { x with wbHi := v }
  | 0x1C => s.modRing i fun x => { x with intBytes := v }
  | 0x20 => s.modRing i fun x => { x with intHoldoff := v.toNat % 65536 }
  | 0x24 => if bit v.toNat 0 && !s.hwNow (w1cId (0x3024 + 0x40 * i) 0) then s.modRing i fun x => { x with full := false } else s
  | _ => s

/-- A write into a mailbox control block (R34). A bit set in the cycle of its clear reads 1 afterwards (R8). -/
def State.mboxRegWrite (s : State) (m r : Nat) (v : Word) : State :=
  let c (i : Nat) (x : Bool) : Bool := x && (!bit v.toNat i || s.hwNow (w1cId (0x1018 + 0x100 * m) i))
  match r with
  | 0x00 => s.inProdWrite m v
  | 0x0C => s.outConsWrite m v
  | 0x14 => s.modMbox m fun b => { b with outIntEn := bit v.toNat 0 }
  | 0x18 => s.modMbox m fun b =>
      { b with overrun := c 0 b.overrun, protoErr := c 1 b.protoErr, crcErr := c 2 b.crcErr, outErr := c 3 b.outErr }
  | 0x24 => if bit v.toNat 0 then s.flushMbox m else s
  | _ => s

/-- A write at BAR0 offset off. -/
def State.regWrite (s : State) (off : Nat) (v : Word) : State :=
  if off % 4 != 0 then s
  else if 0x1000 ≤ off && off < 0x2000 then s.mboxRegWrite ((off - 0x1000) / 0x100) (off % 0x100) v
  else if 0x20000 ≤ off && off < 0x40000 then
    { s with bufs := Memory.writeBytes s.bufs (off - 0x20000) (leBytes 4 v.toNat) }
  else if off == 0x0204 then s.faultConsWrite v
  else if off == 0x2400 then s.snapWrite v
  else if off == 0x3880 then
    s.modAtom fun a =>
      { a with ringCause := (List.range 9).foldl (fun c i => if bit v.toNat i && !s.hwNow (w1cId 0x3880 i) then setBit c i false else c)
                              a.ringCause }
  else match ringAt off with
    | some (i, r) => s.ringRegWrite i r v
    | none => s

/-- REGISTER_WRITE (R7, R32). -/
def execRegisterWrite (t : Tick) (off : Nat) (v : Word) (s : State) : Host.Outcome State Fault Refusal :=
  let s := s.advance t
  .next (if s.bar then s.regWrite off v else s)

/-- INT_SUMMARY (R33, R335): a raised vector reads 1 while what raised it is still there to be served, as far as a register
shows that. -/
def State.intSummary (s : State) : Nat :=
  let unread (r : Ring) : Bool := r.head != r.tail
  let pend (v : Nat) : Bool :=
    if v == 0 then s.mboxes.any (fun b => b.outIntEn && b.outProd != b.outCons)
    else if v == 1 then unread (s.ring 32)
    else if v == 2 then s.atom.ringCause != 0
    else if v == 6 then (s.clk.temps ++ s.clk.volts).any (·.out)
    else if 8 ≤ v then unread (s.ring (v - 8))
    else true
  ((s.sys.ints.filter pend).map (fun v => 2 ^ v)).sum

/-- Word n of the fault record at position FAULT_CONS (R474, R485); 0 where there is none. -/
def State.faultWord (s : State) (n : Nat) : Nat :=
  let y := s.sys
  let back := (y.faultProd - y.faultCons).toNat
  if back == 0 || y.faults.length < back then 0
  else match y.faults.drop (y.faults.length - back) with
    | r :: _ => fld r.bytes (4 * n) 4
    | [] => 0

/-- Identity, protection and status registers (R33, R68, R474). -/
def State.statusReg (s : State) (off : Nat) : Nat :=
  let y := s.sys
  let cls (a n : Nat) : Nat := (((List.range n).map (fun i => nth 0 s.prot.classes (a + i) * 16 ^ i))).sum
  if off == 0x00 then Config.vendorId % 65536 + 0x40960000
  else if off == 0x04 then 0xB0 + 256 * b2n Config.orderIB
  else if off == 0x08 then y.fwVersion
  else if off == 0x80 then b2n s.prot.locked + 65536 * s.prot.version
  else if off == 0x84 then cls 0 8
  else if off == 0x88 then cls 8 8
  else if off == 0x8C then cls 16 3
  else if off == 0x90 then
    b2n s.prot.perfUser + 2 * b2n s.prot.perfSlice + 4 * b2n s.prot.sliceLoadHost + 8 * b2n s.prot.debug
  else if 0xA0 ≤ off && off < 0xC0 then
    let e := nth (0, 0) s.prot.regions ((off - 0xA0) / 4)
    e.1 + 65536 * e.2
  else if 0xC0 ≤ off && off < 0xDC then nth 0 s.prot.masters ((off - 0xC0) / 4)
  else if off == 0x100 then
    s.clk.mode + 8 * b2n (s.run.state == 1) + 16 * b2n s.ilk.latched + 32 * b2n y.mbReady + 64 * b2n s.prot.locked +
      128 * b2n (y.faultCons != y.faultProd)
  else if off == 0x104 then s.intSummary
  else if off == 0x108 then y.resetCause + 16 * y.resetKind + 256 * min 15 y.warmResets.length
  else if off == 0x10C then
    y.bootStage + 256 * y.bootCode + 65536 * b2n y.halted + 131072 * y.imageSlot + 1048576 * y.attempts
  else if off == 0x200 then y.faultProd.toNat
  else if off == 0x204 then y.faultCons.toNat
  else if off == 0x208 then y.faultLost.val
  else if off == 0x20C then y.lateTotal.val
  else if 0x220 ≤ off && off < 0x240 then s.faultWord ((off - 0x220) / 4)
  else 0

/-- A register of a mailbox control block (R34). -/
def State.mboxReg (s : State) (m r : Nat) : Nat :=
  let b := s.mbox m
  match r with
  | 0x00 => b.inProd.toNat
  | 0x04 => b.inCons.toNat
  | 0x08 => b.outProd.toNat
  | 0x0C => b.outCons.toNat
  | 0x10 => nth 0 s.prot.classes m + 65536 * b.inflight.length
  | 0x14 => b2n b.outIntEn
  | 0x18 => b2n b.overrun + 2 * b2n b.protoErr + 4 * b2n b.crcErr + 8 * b2n b.outErr
  | 0x1C => b.crcErrCount.val
  | 0x20 => b.refusedCount.val
  | _ => 0

/-- A word of the performance counter window (R468, R70). -/
def State.perfReg (s : State) (off : Nat) : Nat :=
  let n := (off - 0x2000) / 16
  let c := nth {} s.clk.snapped n
  if !s.prot.perfUser then 0
  else if off < 0x2400 then
    match off % 16 with
    | 0 => c.val % 2 ^ 32
    | 4 => c.val / 2 ^ 32
    | 8 => nth 0 s.clk.snapFlags n
    | _ => (nth {} s.clk.perf n).mode + 65536 * (nth {} s.clk.perf n).event
  else if off == 0x2408 then s.clk.snapTime % 2 ^ 32
  else if off == 0x240C then s.clk.snapTime / 2 ^ 32 % 2 ^ 32
  else 0

/-- A register of a ring block (R333). -/
def State.ringReg (s : State) (i r : Nat) : Nat :=
  let x := s.ring i
  match r with
  | 0x00 => x.baseLo.toNat
  | 0x04 => x.baseHi.toNat
  | 0x08 => x.sizeLog2 + 256 * b2n x.enable
  | 0x0C => x.head.toNat
  | 0x10 => x.tail.toNat
  | 0x14 => x.wbLo.toNat
  | 0x18 => x.wbHi.toNat
  | 0x1C => x.intBytes.toNat
  | 0x20 => x.intHoldoff
  | 0x24 => b2n x.full + 2 * b2n x.cfgErr
  | 0x28 => x.dropped.val
  | _ => 0

/-- The word at BAR0 offset off; 0 where no table defines one (R32). -/
def State.regRead (s : State) (off : Nat) : Nat :=
  if off % 4 != 0 then 0
  else if off < 0x1000 then s.statusReg off
  else if off < 0x2000 then s.mboxReg ((off - 0x1000) / 0x100) (off % 0x100)
  else if off < 0x3000 then s.perfReg off
  else if 0x20000 ≤ off && off < 0x40000 then leNat (Memory.readBytes s.bufs (off - 0x20000) 4)
  else if off == 0x3880 then s.atom.ringCause
  else match ringAt off with
    | some (i, r) => s.ringReg i r
    | none => 0

/-- What a read of an RC register clears (R7); a counter reads 1 after a clear in the cycle of an increment (R13). -/
def State.regClear (s : State) (off : Nat) : State :=
  let c := s.cleared (regCtrId off)
  if off == 0x208 then s.modSys fun y => { y with faultLost := c }
  else if off == 0x20C then s.modSys fun y => { y with lateTotal := c }
  else if 0x1000 ≤ off && off < 0x2000 && off % 0x100 == 0x1C then
    s.modMbox ((off - 0x1000) / 0x100) fun b => { b with crcErrCount := c }
  else if 0x1000 ≤ off && off < 0x2000 && off % 0x100 == 0x20 then
    s.modMbox ((off - 0x1000) / 0x100) fun b => { b with refusedCount := c }
  else match ringAt off with
    | some (i, 0x28) => s.modRing i fun x => { x with dropped := c }
    | _ => s

/-- REGISTER_READ_CLEAR (R7, R32). -/
def execRegisterReadClear (t : Tick) (off : Nat) (s : State) : Host.Outcome State Fault Refusal :=
  let s := s.advance t
  .next (if s.bar then (s.modSys fun y => { y with readData := BitVec.ofNat 32 (s.regRead off) }).regClear off else s)

end Sys2Proof.Machine
end

