-- ==== Sys2Proof/Machine/Startup.lean ====
section
/-!
DEFINITION. Start-up (R471 to R473, R476 to R479): power-up, the resets, the configuration section, the end of a boot, and JTAG.
-/
namespace Sys2Proof.Machine

/-! The end of a boot (step 14 of R476). -/

/-- The fault record and event of a reset by watchdog, lock-step or escalation: the record carries the time of the reset (R481,
R486). -/
def State.resetHealth (s : State) : State :=
  let y := s.sys
  if y.resetCause < 5 then s
  else
    let n := min 15 y.warmResets.length
    let s := s.logFault y.resetTime 3 1 y.resetCause 0xFFFFFFFFFFFFFFFF 0xFF 4 n
    if bit (s.p K.sysHealthEventMask) 1 then
      s.deviceRecord 0x0D (healthSev 1) (1 + 3 * 256 + y.resetCause * 65536) (n + y.faultSeq % 65536 * 65536) 0
    else s

/-- The event and the fault record of a degraded boot (R479, R486): the detail names the first slice that stays empty. -/
def State.degradedHealth (s : State) : State :=
  let e := s.bootEnv
  if s.sys.degraded then s.health 0 s.sys.bootCode (if e.bandImageOk && !e.shiftImageOk then 96 else 0) 2 else s

/-- Step 14: the mode is taken, MB_READY is set, held doorbells are served, and the STARTUP calibration begins (R40, R136, R476,
R480). -/
def State.bootDone (s : State) : State :=
  let want := if s.warmBoot then s.sys.warmMode else s.sys.bootMode
  let m := if 3 ≤ want && s.pwrIsLow then 2 else want
  let s := s.settle.modTime fun b => { b with backup := m == 1 || !s.clk.xa }
  let s := s.modClk fun k => { k with mode := m, netOnMgmt := m < 3, stwOnHfo := m < 2, pcie := 3 ≤ m }
  let s := s.loopsForMode.modMemc fun c => { c with power := if 3 ≤ m then 1 else if m == 2 then 2 else 3 }
  let s := if 3 ≤ m then s else s.slicesStop
  let s := (s.modSys fun y => { y with mbReady := true, warmAt := none }).stage 14
  let s := s.modTwin fun w => { w with link := b2n (s.pB K.twinEnable) }
  let s := s.modEmit fun e => { e with pumpGood := s.now, apdGood := s.now }
  let s := s.resetHealth.degradedHealth
  let s := if 3 ≤ m then (s.modRecv fun r => { r with startupDue := false }).calCause 1 else s
  let s := (s.apdApply.riseAll).convGo.refreshDark
  (List.range 16).foldl (fun (s : State) k => s.serve k) s

/-- Where steps 1 to 12 have completed and no configuration message is left, the boot ends. -/
def State.bootOn (s : State) : State :=
  if s.sys.bootStage == 12 && !s.sys.mbReady && s.sys.cfg.isEmpty && s.sys.cfgWait.isNone then (s.stage 13).bootDone else s

/-- A full reset and its boot. -/
def State.fullBoot (s : State) (code : Nat) : State := (s.fullReset code).boot.bootOn

/-- A warm reset and its boot. -/
def State.warmStart (s : State) (code : Nat) : State := (s.warmReset code).boot.bootOn

/-! Resets. -/

/-- POWER_UP (R471): every supply reaches its operating range. -/
def execPowerUp (t : Tick) (env : BootEnv) (s : State) : Host.Outcome State Fault Refusal :=
  let s := s.advance t
  .next (
    if s.sys.powered then s
    else
      let s := s.modSys fun y =>
        { y with env := some env, attempts := 0, warmResets := [], faultProd := 0, faultCons := 0, faultSeq := 0 }
      s.fullBoot 1)

/-- SUPPLY_LOSS (R490): OFF; nothing but the pins is kept. -/
def execSupplyLoss (t : Tick) (s : State) : Host.Outcome State Fault Refusal :=
  let s := s.advance t
  let r := State.reset
  .next { r with
    pending := s.pending, now := s.now, fresh := s.fresh, ilk := { highAt := s.ilk.highAt },
    emit := { r.emit with modules := freshModules s.emit.modules },
    clk := { r.clk with mode := 0, pwrLow := s.clk.pwrLow, pwrRise := s.clk.pwrRise } }

/-- RESET_N (R471, R509): low for ns nanoseconds. Between 200 ns and 1 µs whether it resets is a FREE VALUE. -/
def execResetN (t : Tick) (ns : Nat) (s : State) : Host.Outcome State Fault Refusal :=
  let s := s.advance t
  .next (
    if !s.sys.powered || ns < 200 then s
    else if 1000 ≤ ns then s.fullBoot 2
    else
      let hit := s.freeBit
      if hit then s.tookFree.fullBoot 2 else s.tookFree)

/-- A watchdog or lock-step reset; the third within 10 min is made full (R472). -/
def State.stewardReset (s : State) (code : Nat) : State :=
  let recent := (s.now :: s.sys.warmResets).filter (fun a => decide (s.now < a + secT 600))
  let s := s.modSys fun y => { y with warmResets := recent }
  if 3 ≤ recent.length then s.fullBoot 7 else s.warmStart code

/-- WATCHDOG_EXPIRY (R471). -/
def execWatchdogExpiry (t : Tick) (s : State) : Host.Outcome State Fault Refusal :=
  let s := s.advance t
  .next (if s.sys.powered then s.stewardReset 5 else s)

/-- LOCKSTEP_MISMATCH (R471). -/
def execLockstepMismatch (t : Tick) (s : State) : Host.Outcome State Fault Refusal :=
  let s := s.advance t
  .next (if s.sys.powered then s.stewardReset 6 else s)

/-- WARM_COUNT_EXPIRY (R472). -/
def execWarmCountExpiry (t : Tick) (s : State) : Host.Outcome State Fault Refusal :=
  let s := s.advance t
  .next (s.modSys fun y => { y with warmResets := y.warmResets.filter (fun a => decide (s.now < a + secT 600)) })

/-- RESET_EXECUTE (R52, R390). -/
def execResetExecute (t : Tick) (s : State) : Host.Outcome State Fault Refusal :=
  let s := s.advance t
  .next (match s.sys.resetDue with
    | some (kind, a) =>
      if s.now < a then s
      else if kind == 0 then s.sendLeaving.warmStart 3
      else s.sendLeaving.fullBoot 4
    | none => s)

/-- PERST_N (R473): the PCIe endpoint and the HST domain. -/
def execPerstN (t : Tick) (s : State) : Host.Outcome State Fault Refusal :=
  let s := s.advance t
  .next (
    if !s.sys.powered then s
    else
      let lost := (s.atom.rings.map (fun r => r.queue.length)).sum
      let s := (s.count K.atomRingDropped lost).modAtom fun a => { a with rings := List.replicate 34 {}, ringCause := 0 }
      -- the endpoint's pending vectors go with it
      let s := s.modSys fun y => { y with ints := [] }
      (List.range 16).foldl (fun (s : State) m => s.flushMbox m) s)

/-! Boot that waits (R472, R479). -/

/-- XA_CHECK_RETRY (R479): runs is whether XA runs now. -/
def execXaCheckRetry (t : Tick) (runs : Bool) (s : State) : Host.Outcome State Fault Refusal :=
  let s := s.advance t
  .next (
    if !s.sys.waitXa || !runs then s
    else (s.modSys fun y => { y with env := y.env.map fun e => { e with xaRuns := true } }).boot.bootOn)

/-- BOOT_RETRY (R479): from step 1. What start-up hardware does this time is a FREE VALUE. -/
def execBootRetry (t : Tick) (s : State) : Host.Outcome State Fault Refusal :=
  let s := s.advance t
  .next (match s.sys.retryAt with
    | some a =>
      if s.now < a then s
      else
        let n := s.freeNat
        let again (e : BootEnv) : BootEnv :=
          { e with loopsLock := bit n 0, trainRates := (idxWhere (fun (i : Nat) => bit n (i + 1)) [0, 1, 2, 3]).map (nth 0 trainingRates) }
        let s := s.tookFree.modSys fun y =>
          { y with env := y.env.map again, attempts := min 15 (y.attempts + 1), halted := false, retryAt := none, bootCode := 0,
                   degraded := false, bootStage := 0 }
        s.boot.bootOn
    | none => s)

/-- WARM_BOOT_TIMEOUT (R472): a warm boot has not set MB_READY within 0.8 s. -/
def execWarmBootTimeout (t : Tick) (s : State) : Host.Outcome State Fault Refusal :=
  let s := s.advance t
  .next (match s.sys.warmAt with
    | some a => if !s.sys.mbReady && a + msT 800 ≤ s.now then s.fullBoot 7 else s
    | none => s)

/-! The configuration section (R477). -/

/-- A message of the configuration section: its answers go to the steward (mailbox 19). -/
def State.configTake (s : State) (bs : List Byte) : State :=
  let q := reqOf 19 noPeer bs
  let id := reqId q (fld bs 0 2)
  if bs.length < 16 || headBad bs || bs.length < msgSize bs || !crcGood bs then s.refuse id .checkFail false
  else s.dispatch (fld bs 0 2) q

/-- CONFIG_MESSAGE (R477): the next message, once the one before it has had its final response; after the last, step 14. -/
def execConfigMessage (t : Tick) (s : State) : Host.Outcome State Fault Refusal :=
  let s := s.advance t
  .next (
    if s.sys.bootStage != 12 || s.sys.mbReady || s.sys.halted || s.sys.cfgWait.isSome then s
    else match s.sys.cfg with
      | [] => s.bootOn
      | bs :: rest =>
        let s := s.modSys fun y => { y with cfg := rest, cfgIdx := y.cfgIdx + 1, cfgWait := some (fld bs 2 2) }
        (s.configTake bs).bootOn)

/-! JTAG (R70, R508). -/


/-- JTAG_ACCESS: ir 0 boundary scan (the gates, low while the latch is set), 1 IDCODE, 2 steward debug access, whose data under
the grant are a FREE VALUE. -/
def execJtagAccess (t : Tick) (ir : Nat) (s : State) : Host.Outcome State Fault Refusal :=
  let s := s.advance t
  .next (
    if !s.sys.powered then s
    else
      let put (s : State) (v : List Nat) : State := s.modSys fun y => { y with jtag := v }
      match ir with
      | 0 => put s [b2n s.modHigh, b2n s.soaHigh, b2n (s.gateHigh 0 s.run.rmngate [])]
      | 1 => put s [2 ^ 28 + 0x4096 * 2 ^ 12 + 2 * (Config.jtagMaker % 2 ^ 11) + 1]
      | 2 => if s.prot.debug then put s.tookFree [s.freeNat] else put s []
      | _ => s)

end Sys2Proof.Machine
end

