-- ==== Sys2Proof/Machine/Dispatch.lean ====
section
/-!
DEFINITION. The dispatch of commands: one arm for each constructor of Instr, each one call of its meaning.
-/
namespace Sys2Proof.Machine

/-- The effect of a command on everything but the queue of waiting commands. -/
def exec (i : Instr) (s : State) : Host.Outcome State Fault Refusal :=
  match i with
  | .ident t q => Sys2Proof.Machine.execIdent t q s
  | .getParam t q => Sys2Proof.Machine.execGetParam t q s
  | .setParam t q => Sys2Proof.Machine.execSetParam t q s
  | .commit t q => Sys2Proof.Machine.execCommit t q s
  | .start t q => Sys2Proof.Machine.execStart t q s
  | .stop t q => Sys2Proof.Machine.execStop t q s
  | .calRequest t q => Sys2Proof.Machine.execCalRequest t q s
  | .calStatus t q => Sys2Proof.Machine.execCalStatus t q s
  | .selftest t q => Sys2Proof.Machine.execSelftest t q s
  | .captureArm t q => Sys2Proof.Machine.execCaptureArm t q s
  | .captureStatus t q => Sys2Proof.Machine.execCaptureStatus t q s
  | .captureRelease t q => Sys2Proof.Machine.execCaptureRelease t q s
  | .retrieve t q => Sys2Proof.Machine.execRetrieve t q s
  | .retrieveCancel t q => Sys2Proof.Machine.execRetrieveCancel t q s
  | .sessionOpen t q => Sys2Proof.Machine.execSessionOpen t q s
  | .sessionClose t q => Sys2Proof.Machine.execSessionClose t q s
  | .sessionModify t q => Sys2Proof.Machine.execSessionModify t q s
  | .zoneLoad t q => Sys2Proof.Machine.execZoneLoad t q s
  | .zoneRead t q => Sys2Proof.Machine.execZoneRead t q s
  | .sliceLoad t q => Sys2Proof.Machine.execSliceLoad t q s
  | .sliceStart t q => Sys2Proof.Machine.execSliceStart t q s
  | .instRead t q => Sys2Proof.Machine.execInstRead t q s
  | .instInject t q => Sys2Proof.Machine.execInstInject t q s
  | .tiuMeasure t q => Sys2Proof.Machine.execTiuMeasure t q s
  | .timeSet t q => Sys2Proof.Machine.execTimeSet t q s
  | .twinStatus t q => Sys2Proof.Machine.execTwinStatus t q s
  | .twinControl t q => Sys2Proof.Machine.execTwinControl t q s
  | .dispLayer t q => Sys2Proof.Machine.execDispLayer t q s
  | .dispCheck t q => Sys2Proof.Machine.execDispCheck t q s
  | .monRead t q => Sys2Proof.Machine.execMonRead t q s
  | .perfConfig t q => Sys2Proof.Machine.execPerfConfig t q s
  | .perfRead t q => Sys2Proof.Machine.execPerfRead t q s
  | .moduleRead t q => Sys2Proof.Machine.execModuleRead t q s
  | .ilkClear t q => Sys2Proof.Machine.execIlkClear t q s
  | .powerMode t q => Sys2Proof.Machine.execPowerMode t q s
  | .reset t q => Sys2Proof.Machine.execReset t q s
  | .inProdWrite t m v => Sys2Proof.Machine.execInProdWrite t m v s
  | .outConsWrite t m v => Sys2Proof.Machine.execOutConsWrite t m v s
  | .responseRelease t m => Sys2Proof.Machine.execResponseRelease t m s
  | .flush t m v => Sys2Proof.Machine.execFlush t m v s
  | .registerWrite t off v => Sys2Proof.Machine.execRegisterWrite t off v s
  | .registerReadClear t off => Sys2Proof.Machine.execRegisterReadClear t off s
  | .mgmtDatagram t dst peer bytes => Sys2Proof.Machine.execMgmtDatagram t dst peer bytes s
  | .mgmtBindRelease t mb => Sys2Proof.Machine.execMgmtBindRelease t mb s
  | .spiWriteMessage t bytes => Sys2Proof.Machine.execSpiWriteMessage t bytes s
  | .spiReadResponse t n => Sys2Proof.Machine.execSpiReadResponse t n s
  | .spiReadStatus t => Sys2Proof.Machine.execSpiReadStatus t s
  | .commitLoadComplete t => Sys2Proof.Machine.execCommitLoadComplete t s
  | .shotGroupBoundary t => Sys2Proof.Machine.execShotGroupBoundary t s
  | .toneLaunch t slot => Sys2Proof.Machine.execToneLaunch t slot s
  | .launchMonCrossing t => Sys2Proof.Machine.execLaunchMonCrossing t s
  | .launchWindowEnd t slot => Sys2Proof.Machine.execLaunchWindowEnd t slot s
  | .ramanLaunch t rma rms => Sys2Proof.Machine.execRamanLaunch t rma rms s
  | .ramanAccumulationComplete t => Sys2Proof.Machine.execRamanAccumulationComplete t s
  | .ramanRatioDone t => Sys2Proof.Machine.execRamanRatioDone t s
  | .runFirstGroup t => Sys2Proof.Machine.execRunFirstGroup t s
  | .runProcessingDone t => Sys2Proof.Machine.execRunProcessingDone t s
  | .ilkNFall t lowPs => Sys2Proof.Machine.execIlkNFall t lowPs s
  | .emitUpdate t => Sys2Proof.Machine.execEmitUpdate t s
  | .rampEnd t ch => Sys2Proof.Machine.execRampEnd t ch s
  | .powerLoop t mpd => Sys2Proof.Machine.execPowerLoop t mpd s
  | .loopClose t ch => Sys2Proof.Machine.execLoopClose t ch s
  | .powerClamp t ch => Sys2Proof.Machine.execPowerClamp t ch s
  | .powerLost t ch => Sys2Proof.Machine.execPowerLost t ch s
  | .pumpThRequest t => Sys2Proof.Machine.execPumpThRequest t s
  | .thermistorFault t => Sys2Proof.Machine.execThermistorFault t s
  | .pumpReturn t => Sys2Proof.Machine.execPumpReturn t s
  | .wlLoop t wla wlb => Sys2Proof.Machine.execWlLoop t wla wlb s
  | .wlLock t => Sys2Proof.Machine.execWlLock t s
  | .moduleRemoved t pos => Sys2Proof.Machine.execModuleRemoved t pos s
  | .moduleInserted t pos => Sys2Proof.Machine.execModuleInserted t pos s
  | .moduleRecordRead t pos one two => Sys2Proof.Machine.execModuleRecordRead t pos one two s
  | .i2cSclTimeout t bus => Sys2Proof.Machine.execI2cSclTimeout t bus s
  | .apdBiasUpdate t => Sys2Proof.Machine.execApdBiasUpdate t s
  | .apdBiasCut t => Sys2Proof.Machine.execApdBiasCut t s
  | .trackerUpdate t rx tx found => Sys2Proof.Machine.execTrackerUpdate t rx tx found s
  | .pilotLost t boundary => Sys2Proof.Machine.execPilotLost t boundary s
  | .calTempCheck t temp => Sys2Proof.Machine.execCalTempCheck t temp s
  | .calRetry t => Sys2Proof.Machine.execCalRetry t s
  | .calStep t level => Sys2Proof.Machine.execCalStep t level s
  | .calRunEnd t resid => Sys2Proof.Machine.execCalRunEnd t resid s
  | .refdivTimeout t => Sys2Proof.Machine.execRefdivTimeout t s
  | .blotterStep t m => Sys2Proof.Machine.execBlotterStep t m s
  | .selftestEnd t => Sys2Proof.Machine.execSelftestEnd t s
  | .pceBlockProcessed t slot start codes => Sys2Proof.Machine.execPceBlockProcessed t slot start codes s
  | .stitchEvaluation t => Sys2Proof.Machine.execStitchEvaluation t s
  | .amplitudeProfileComplete t => Sys2Proof.Machine.execAmplitudeProfileComplete t s
  | .rowWrite t => Sys2Proof.Machine.execRowWrite t s
  | .tileClose t group => Sys2Proof.Machine.execTileClose t group s
  | .tileRead t engine => Sys2Proof.Machine.execTileRead t engine s
  | .tileDma t sl => Sys2Proof.Machine.execTileDma t sl s
  | .bankFadeEnd t => Sys2Proof.Machine.execBankFadeEnd t s
  | .baseRecordsDelivered t set => Sys2Proof.Machine.execBaseRecordsDelivered t set s
  | .outputDmaComplete t sl => Sys2Proof.Machine.execOutputDmaComplete t sl s
  | .classRecordMade t => Sys2Proof.Machine.execClassRecordMade t s
  | .nop t sl => Sys2Proof.Machine.execNop t sl s
  | .add t sl => Sys2Proof.Machine.execAdd t sl s
  | .sub t sl => Sys2Proof.Machine.execSub t sl s
  | .and t sl => Sys2Proof.Machine.execAnd t sl s
  | .or t sl => Sys2Proof.Machine.execOr t sl s
  | .xor t sl => Sys2Proof.Machine.execXor t sl s
  | .shl t sl => Sys2Proof.Machine.execShl t sl s
  | .shr t sl => Sys2Proof.Machine.execShr t sl s
  | .sra t sl => Sys2Proof.Machine.execSra t sl s
  | .mul t sl => Sys2Proof.Machine.execMul t sl s
  | .addi t sl => Sys2Proof.Machine.execAddi t sl s
  | .lui t sl => Sys2Proof.Machine.execLui t sl s
  | .slt t sl => Sys2Proof.Machine.execSlt t sl s
  | .ld t sl => Sys2Proof.Machine.execLd t sl s
  | .ldh t sl => Sys2Proof.Machine.execLdh t sl s
  | .st t sl => Sys2Proof.Machine.execSt t sl s
  | .sth t sl => Sys2Proof.Machine.execSth t sl s
  | .macn t sl => Sys2Proof.Machine.execMacn t sl s
  | .macw t sl => Sys2Proof.Machine.execMacw t sl s
  | .accst t sl => Sys2Proof.Machine.execAccst t sl s
  | .accx t sl => Sys2Proof.Machine.execAccx t sl s
  | .acci t sl => Sys2Proof.Machine.execAcci t sl s
  | .beq t sl => Sys2Proof.Machine.execBeq t sl s
  | .bne t sl => Sys2Proof.Machine.execBne t sl s
  | .blt t sl => Sys2Proof.Machine.execBlt t sl s
  | .bge t sl => Sys2Proof.Machine.execBge t sl s
  | .jmp t sl => Sys2Proof.Machine.execJmp t sl s
  | .call t sl => Sys2Proof.Machine.execCall t sl s
  | .ret t sl => Sys2Proof.Machine.execRet t sl s
  | .rep t sl => Sys2Proof.Machine.execRep t sl s
  | .mfs t sl => Sys2Proof.Machine.execMfs t sl s
  | .mts t sl => Sys2Proof.Machine.execMts t sl s
  | .waitt t sl => Sys2Proof.Machine.execWaitt t sl s
  | .waitc t sl => Sys2Proof.Machine.execWaitc t sl s
  | .colFree t sl => Sys2Proof.Machine.execColFree t sl s
  | .tileDone t sl => Sys2Proof.Machine.execTileDone t sl s
  | .outPush t sl => Sys2Proof.Machine.execOutPush t sl s
  | .evt t sl => Sys2Proof.Machine.execEvt t sl s
  | .cycleLo t sl => Sys2Proof.Machine.execCycleLo t sl s
  | .perfLo t sl => Sys2Proof.Machine.execPerfLo t sl s
  | .accordUpdate t => Sys2Proof.Machine.execAccordUpdate t s
  | .accordFrameComplete t => Sys2Proof.Machine.execAccordFrameComplete t s
  | .holdoffExpired t zone crit => Sys2Proof.Machine.execHoldoffExpired t zone crit s
  | .coilRead t => Sys2Proof.Machine.execCoilRead t s
  | .coilHoldExpired t => Sys2Proof.Machine.execCoilHoldExpired t s
  | .trigEdge t n falling edge frac => Sys2Proof.Machine.execTrigEdge t n falling edge frac s
  | .starEdge t edge frac => Sys2Proof.Machine.execStarEdge t edge frac s
  | .starPulseEnd t => Sys2Proof.Machine.execStarPulseEnd t s
  | .captureWindowEnd t slot => Sys2Proof.Machine.execCaptureWindowEnd t slot s
  | .captureSeal t slot => Sys2Proof.Machine.execCaptureSeal t slot s
  | .flushTimeExpiry t => Sys2Proof.Machine.execFlushTimeExpiry t s
  | .flaconJobStart t engine => Sys2Proof.Machine.execFlaconJobStart t engine s
  | .flaconOutputDrain t engine => Sys2Proof.Machine.execFlaconOutputDrain t engine s
  | .flaconCommit t engine stream => Sys2Proof.Machine.execFlaconCommit t engine stream s
  | .decompressionDone t engine => Sys2Proof.Machine.execDecompressionDone t engine s
  | .eventFrameSend t session => Sys2Proof.Machine.execEventFrameSend t session s
  | .streamFrameSend t session kind => Sys2Proof.Machine.execStreamFrameSend t session kind s
  | .frameTransmit t path => Sys2Proof.Machine.execFrameTransmit t path s
  | .keepalive t session => Sys2Proof.Machine.execKeepalive t session s
  | .sessionCloseComplete t session => Sys2Proof.Machine.execSessionCloseComplete t session s
  | .retrieveObject t job overwritten => Sys2Proof.Machine.execRetrieveObject t job overwritten s
  | .retrieveEnd t job => Sys2Proof.Machine.execRetrieveEnd t job s
  | .ringEnable t ring v => Sys2Proof.Machine.execRingEnable t ring v s
  | .netLinkChange t port up => Sys2Proof.Machine.execNetLinkChange t port up s
  | .networkRequest t port kind addr src rct => Sys2Proof.Machine.execNetworkRequest t port kind addr src rct s
  | .prpSupervision t => Sys2Proof.Machine.execPrpSupervision t s
  | .ptpSync t port master offPs intervalNs => Sys2Proof.Machine.execPtpSync t port master offPs intervalNs s
  | .ptpHoldover t => Sys2Proof.Machine.execPtpHoldover t s
  | .memReadComplete t master addr len errs => Sys2Proof.Machine.execMemReadComplete t master addr len errs s
  | .memReread t errs upperExpired => Sys2Proof.Machine.execMemReread t errs upperExpired s
  | .scrubRead t errs => Sys2Proof.Machine.execScrubRead t errs s
  | .refresh t sc rank bank waiting => Sys2Proof.Machine.execRefresh t sc rank bank waiting s
  | .mr4Poll t codes => Sys2Proof.Machine.execMr4Poll t codes s
  | .dqsTrack t drift => Sys2Proof.Machine.execDqsTrack t drift s
  | .ceHealthHour t => Sys2Proof.Machine.execCeHealthHour t s
  | .agePromotion t => Sys2Proof.Machine.execAgePromotion t s
  | .panic t port level => Sys2Proof.Machine.execPanic t port level s
  | .fill t => Sys2Proof.Machine.execFill t s
  | .ageingStep t => Sys2Proof.Machine.execAgeingStep t s
  | .tiuInputEdge t source rising => Sys2Proof.Machine.execTiuInputEdge t source rising s
  | .tiuArm t => Sys2Proof.Machine.execTiuArm t s
  | .tiuMeasurementDone t => Sys2Proof.Machine.execTiuMeasurementDone t s
  | .tiuTimeout t => Sys2Proof.Machine.execTiuTimeout t s
  | .tiuCodeDensityTest t temp => Sys2Proof.Machine.execTiuCodeDensityTest t temp s
  | .pairsyncDrive t => Sys2Proof.Machine.execPairsyncDrive t s
  | .pairsyncPulse t => Sys2Proof.Machine.execPairsyncPulse t s
  | .pairsyncResultDeadline t => Sys2Proof.Machine.execPairsyncResultDeadline t s
  | .heartbeat t h leaving caps holdMs hbLossUs dark => Sys2Proof.Machine.execHeartbeat t h leaving caps holdMs hbLossUs dark s
  | .confirm t h recs => Sys2Proof.Machine.execConfirm t h recs s
  | .seqTable t h firstZone next => Sys2Proof.Machine.execSeqTable t h firstZone next s
  | .digest t h firstZone entries => Sys2Proof.Machine.execDigest t h firstZone entries s
  | .handback t h zone next => Sys2Proof.Machine.execHandback t h zone next s
  | .handbackAck t h zone => Sys2Proof.Machine.execHandbackAck t h zone s
  | .pairsyncFrame t h sec stamp frac => Sys2Proof.Machine.execPairsyncFrame t h sec stamp frac s
  | .rejoinDone t h => Sys2Proof.Machine.execRejoinDone t h s
  | .heartbeatSend t => Sys2Proof.Machine.execHeartbeatSend t s
  | .heartbeatLoss t => Sys2Proof.Machine.execHeartbeatLoss t s
  | .twinRetx t => Sys2Proof.Machine.execTwinRetx t s
  | .rejoinTimeout t => Sys2Proof.Machine.execRejoinTimeout t s
  | .heldRecordExpiry t => Sys2Proof.Machine.execHeldRecordExpiry t s
  | .confirmKeepExpiry t => Sys2Proof.Machine.execConfirmKeepExpiry t s
  | .promotion t => Sys2Proof.Machine.execPromotion t s
  | .darkReturn t zone => Sys2Proof.Machine.execDarkReturn t zone s
  | .handbackInitiate t zone => Sys2Proof.Machine.execHandbackInitiate t zone s
  | .conversionResult t code chopFault => Sys2Proof.Machine.execConversionResult t code chopFault s
  | .conversionComplete t => Sys2Proof.Machine.execConversionComplete t s
  | .inputFault t kind => Sys2Proof.Machine.execInputFault t kind s
  | .fallbackRetry t input => Sys2Proof.Machine.execFallbackRetry t input s
  | .instWindow t n above leftAt => Sys2Proof.Machine.execInstWindow t n above leftAt s
  | .windowReturn t n => Sys2Proof.Machine.execWindowReturn t n s
  | .fqoUpdate t n => Sys2Proof.Machine.execFqoUpdate t n s
  | .fqoTimeout t n => Sys2Proof.Machine.execFqoTimeout t n s
  | .dispFrameStart t underruns => Sys2Proof.Machine.execDispFrameStart t underruns s
  | .dispFrameEnd t => Sys2Proof.Machine.execDispFrameEnd t s
  | .waterfallRow t output => Sys2Proof.Machine.execWaterfallRow t output s
  | .loopLockLoss t loop => Sys2Proof.Machine.execLoopLockLoss t loop s
  | .loopLock t loop => Sys2Proof.Machine.execLoopLock t loop s
  | .xaLost t => Sys2Proof.Machine.execXaLost t s
  | .xaReturn t => Sys2Proof.Machine.execXaReturn t s
  | .xbLost t => Sys2Proof.Machine.execXbLost t s
  | .clockSwitchForced t mux => Sys2Proof.Machine.execClockSwitchForced t mux s
  | .clockGate t domain => Sys2Proof.Machine.execClockGate t domain s
  | .clockWake t domain => Sys2Proof.Machine.execClockWake t domain s
  | .drainTimeout t accesses => Sys2Proof.Machine.execDrainTimeout t accesses s
  | .pwrFailQualified t fallAt rise => Sys2Proof.Machine.execPwrFailQualified t fallAt rise s
  | .pwrAutoResume t => Sys2Proof.Machine.execPwrAutoResume t s
  | .powerTransitionDone t ok => Sys2Proof.Machine.execPowerTransitionDone t ok s
  | .monitorSample t m => Sys2Proof.Machine.execMonitorSample t m s
  | .snap t v => Sys2Proof.Machine.execSnap t v s
  | .faultConsWrite t v => Sys2Proof.Machine.execFaultConsWrite t v s
  | .powerUp t env => Sys2Proof.Machine.execPowerUp t env s
  | .resetN t ns => Sys2Proof.Machine.execResetN t ns s
  | .watchdogExpiry t => Sys2Proof.Machine.execWatchdogExpiry t s
  | .lockstepMismatch t => Sys2Proof.Machine.execLockstepMismatch t s
  | .perstN t => Sys2Proof.Machine.execPerstN t s
  | .configMessage t => Sys2Proof.Machine.execConfigMessage t s
  | .bootRetry t => Sys2Proof.Machine.execBootRetry t s
  | .xaCheckRetry t runs => Sys2Proof.Machine.execXaCheckRetry t runs s
  | .warmBootTimeout t => Sys2Proof.Machine.execWarmBootTimeout t s
  | .jtagAccess t ir => Sys2Proof.Machine.execJtagAccess t ir s
  | .resetExecute t => Sys2Proof.Machine.execResetExecute t s
  | .pcieEndpointStop t => Sys2Proof.Machine.execPcieEndpointStop t s
  | .supplyLoss t => Sys2Proof.Machine.execSupplyLoss t s
  | .xbStart t => Sys2Proof.Machine.execXbStart t s
  | .ptpAnnounce t port domain ipv6 master quality utcOffset => Sys2Proof.Machine.execPtpAnnounce t port domain ipv6 master quality utcOffset s
  | .ringInterruptHoldoffEnd t ring => Sys2Proof.Machine.execRingInterruptHoldoffEnd t ring s
  | .twinFrameCrcError t => Sys2Proof.Machine.execTwinFrameCrcError t s
  | .warmCountExpiry t => Sys2Proof.Machine.execWarmCountExpiry t s

end Sys2Proof.Machine
end

