-- ==== Sys2Proof/Safety.lean ====
section
/-!
DEFINITION. The vocabulary of the claims: what a request needs to reach its command, where each command's own conditions
stand, and the invariants of the interlock.
-/
namespace Sys2Proof.Machine

/-! Requests (R40, R44 to R46, R51, R67). -/

/-- The request reaches its command: mailboxes are ready (or it belongs to the configuration section), it repeats no
remembered request, its mailbox holds the class and the grant, its tag is free and fewer than 64 commands are in flight. -/
def State.Admits (s : State) (q : Req) (cls : Nat) (grant : Bool) : Prop :=
  (s.sys.mbReady = true ∨ q.mb = 19) ∧ q.mb ≤ 19 ∧ s.clk.mode ≠ 0 ∧ s.repeatOf q = none ∧ s.holds q.mb cls = true ∧
    (grant = true ∨ q.mb = 19) ∧ (s.mbox q.mb).inflight.contains q.tag = false ∧ (s.mbox q.mb).inflight.length < 64

/-- The state in which an admitted request's command runs: time has passed and the tag is in flight (R44). -/
def State.opened (s : State) (t : Tick) (q : Req) : State :=
  (s.advance t).modMbox q.mb fun b => { b with inflight := q.tag :: b.inflight }

/-! Commands. -/

/-- The instant of a command. -/
def instantOf : Instr → Tick
  | .ident t _ | .getParam t _ | .setParam t _ | .commit t _ | .start t _ | .stop t _ | .calRequest t _
  | .calStatus t _ | .selftest t _ | .captureArm t _ | .captureStatus t _ | .captureRelease t _ | .retrieve t _
  | .retrieveCancel t _ | .sessionOpen t _ | .sessionClose t _ | .sessionModify t _ | .zoneLoad t _ | .zoneRead t _
  | .sliceLoad t _ | .sliceStart t _ | .instRead t _ | .instInject t _ | .tiuMeasure t _ | .timeSet t _
  | .twinStatus t _ | .twinControl t _ | .dispLayer t _ | .dispCheck t _ | .monRead t _ | .perfConfig t _
  | .perfRead t _ | .moduleRead t _ | .ilkClear t _ | .powerMode t _ | .reset t _ | .inProdWrite t _ _
  | .outConsWrite t _ _ | .responseRelease t _ | .flush t _ _ | .registerWrite t _ _ | .registerReadClear t _
  | .mgmtDatagram t _ _ _ | .mgmtBindRelease t _ | .spiWriteMessage t _ | .spiReadResponse t _ | .spiReadStatus t
  | .commitLoadComplete t | .shotGroupBoundary t | .toneLaunch t _ | .launchMonCrossing t | .launchWindowEnd t _
  | .ramanLaunch t _ _ | .ramanAccumulationComplete t | .ramanRatioDone t | .runFirstGroup t | .runProcessingDone t
  | .ilkNFall t _ | .emitUpdate t | .rampEnd t _ | .powerLoop t _ | .loopClose t _ | .powerClamp t _ | .powerLost t _
  | .pumpThRequest t | .thermistorFault t | .pumpReturn t | .wlLoop t _ _ | .wlLock t | .moduleRemoved t _
  | .moduleInserted t _ | .moduleRecordRead t _ _ _ | .i2cSclTimeout t _ | .apdBiasUpdate t | .apdBiasCut t
  | .trackerUpdate t _ _ _ | .pilotLost t _ | .calTempCheck t _ | .calRetry t | .calStep t _ | .calRunEnd t _
  | .refdivTimeout t | .blotterStep t _ | .selftestEnd t | .pceBlockProcessed t _ _ _ | .stitchEvaluation t
  | .amplitudeProfileComplete t | .rowWrite t | .tileClose t _ | .tileRead t _ | .tileDma t _ | .bankFadeEnd t
  | .baseRecordsDelivered t _ | .outputDmaComplete t _ | .classRecordMade t | .nop t _ | .add t _ | .sub t _
  | .and t _ | .or t _ | .xor t _ | .shl t _ | .shr t _ | .sra t _ | .mul t _ | .addi t _ | .lui t _ | .slt t _
  | .ld t _ | .ldh t _ | .st t _ | .sth t _ | .macn t _ | .macw t _ | .accst t _ | .accx t _ | .acci t _ | .beq t _
  | .bne t _ | .blt t _ | .bge t _ | .jmp t _ | .call t _ | .ret t _ | .rep t _ | .mfs t _ | .mts t _ | .waitt t _
  | .waitc t _ | .colFree t _ | .tileDone t _ | .outPush t _ | .evt t _ | .cycleLo t _ | .perfLo t _
  | .accordUpdate t | .accordFrameComplete t | .holdoffExpired t _ _ | .coilRead t | .coilHoldExpired t
  | .trigEdge t _ _ _ _ | .starEdge t _ _ | .starPulseEnd t | .captureWindowEnd t _ | .captureSeal t _
  | .flushTimeExpiry t | .flaconJobStart t _ | .flaconOutputDrain t _ | .flaconCommit t _ _ | .decompressionDone t _
  | .eventFrameSend t _ | .streamFrameSend t _ _ | .frameTransmit t _ | .keepalive t _ | .sessionCloseComplete t _
  | .retrieveObject t _ _ | .retrieveEnd t _ | .ringEnable t _ _ | .netLinkChange t _ _ | .networkRequest t _ _ _ _ _
  | .prpSupervision t | .ptpSync t _ _ _ _ | .ptpHoldover t | .memReadComplete t _ _ _ _ | .memReread t _ _
  | .scrubRead t _ | .refresh t _ _ _ _ | .mr4Poll t _ | .dqsTrack t _ | .ceHealthHour t | .agePromotion t
  | .panic t _ _ | .fill t | .ageingStep t | .tiuInputEdge t _ _ | .tiuArm t | .tiuMeasurementDone t | .tiuTimeout t
  | .tiuCodeDensityTest t _ | .pairsyncDrive t | .pairsyncPulse t | .pairsyncResultDeadline t
  | .heartbeat t _ _ _ _ _ _ | .confirm t _ _ | .seqTable t _ _ _ | .digest t _ _ _ | .handback t _ _ _
  | .handbackAck t _ _ | .pairsyncFrame t _ _ _ _ | .rejoinDone t _ | .heartbeatSend t | .heartbeatLoss t
  | .twinRetx t | .rejoinTimeout t | .heldRecordExpiry t | .confirmKeepExpiry t | .promotion t | .darkReturn t _
  | .handbackInitiate t _ | .conversionResult t _ _ | .conversionComplete t | .inputFault t _ | .fallbackRetry t _
  | .instWindow t _ _ _ | .windowReturn t _ | .fqoUpdate t _ | .fqoTimeout t _ | .dispFrameStart t _
  | .dispFrameEnd t | .waterfallRow t _ | .loopLockLoss t _ | .loopLock t _ | .xaLost t | .xaReturn t | .xbLost t
  | .clockSwitchForced t _ | .clockGate t _ | .clockWake t _ | .drainTimeout t _ | .pwrFailQualified t _ _
  | .pwrAutoResume t | .powerTransitionDone t _ | .monitorSample t _ | .snap t _ | .faultConsWrite t _ | .powerUp t _
  | .resetN t _ | .watchdogExpiry t | .lockstepMismatch t | .perstN t | .configMessage t | .bootRetry t
  | .xaCheckRetry t _ | .warmBootTimeout t | .jtagAccess t _ | .resetExecute t | .pcieEndpointStop t | .supplyLoss t
  | .xbStart t | .ptpAnnounce t _ _ _ _ _ _ | .ringInterruptHoldoffEnd t _ | .twinFrameCrcError t
  | .warmCountExpiry t => t

/-- What a request command asks to pass: its instant, request, opcode, class, and whether a grant it may need is given (R47,
R51). -/
def State.need (s : State) : Instr → Option (Tick × Req × Nat × Nat × Bool)
  | .ident t q => some (t, q, 0x0001, cObserve, true)
  | .getParam t q => some (t, q, 0x0002, cObserve, true)
  | .setParam t q => some (t, q, 0x0003, cConfigure, true)
  | .commit t q => some (t, q, 0x0004, cConfigure, true)
  | .start t q => some (t, q, 0x0010, cOperate, true)
  | .stop t q => some (t, q, 0x0011, cOperate, true)
  | .calRequest t q => some (t, q, 0x0020, cOperate, true)
  | .calStatus t q => some (t, q, 0x0021, cObserve, true)
  | .selftest t q => some (t, q, 0x0022, cOperate, (q.payload.isEmpty || payU q 0 1 != 1 || s.holds q.mb cMaintain))
  | .captureArm t q => some (t, q, 0x0030, cOperate, true)
  | .captureStatus t q => some (t, q, 0x0031, cObserve, true)
  | .captureRelease t q => some (t, q, 0x0032, cOperate, true)
  | .retrieve t q => some (t, q, 0x0040, cObserve, true)
  | .retrieveCancel t q => some (t, q, 0x0041, cObserve, true)
  | .sessionOpen t q => some (t, q, 0x0050, cOperate, true)
  | .sessionClose t q => some (t, q, 0x0051, cOperate, true)
  | .sessionModify t q => some (t, q, 0x0052, cOperate, true)
  | .zoneLoad t q => some (t, q, 0x0060, cConfigure, true)
  | .zoneRead t q => some (t, q, 0x0061, cObserve, true)
  | .sliceLoad t q => some (t, q, 0x0070, cConfigure, s.prot.sliceLoadHost)
  | .sliceStart t q => some (t, q, 0x0071, cConfigure, true)
  | .instRead t q => some (t, q, 0x0080, cObserve, true)
  | .instInject t q => some (t, q, 0x0081, cOperate, true)
  | .tiuMeasure t q => some (t, q, 0x0090, cOperate, true)
  | .timeSet t q => some (t, q, 0x0091, cConfigure, true)
  | .twinStatus t q => some (t, q, 0x00A0, cObserve, true)
  | .twinControl t q => some (t, q, 0x00A1, cMaintain, true)
  | .dispLayer t q => some (t, q, 0x00B0, cOperate, true)
  | .dispCheck t q => some (t, q, 0x00B1, cConfigure, true)
  | .monRead t q => some (t, q, 0x00C0, cObserve, true)
  | .perfConfig t q => some (t, q, 0x00D0, cConfigure, true)
  | .perfRead t q => some (t, q, 0x00D1, cObserve, (s.prot.perfUser || s.holds q.mb cMaintain))
  | .moduleRead t q => some (t, q, 0x00E0, cObserve, true)
  | .ilkClear t q => some (t, q, 0x00E1, cOperate, true)
  | .powerMode t q => some (t, q, 0x00F0, cOperate, true)
  | .reset t q => some (t, q, 0x00FE, cMaintain, true)
  | _ => none

/-- Commands that can run a host's request: the request itself, and what brings messages or ends a boot. -/
def runsIlkClear : Instr → Bool
  | .ilkClear _ _ | .inProdWrite _ _ _ | .registerWrite _ _ _ | .mgmtDatagram _ _ _ _ | .spiWriteMessage _ _ | .configMessage _
  | .powerUp _ _ | .resetN _ _ | .watchdogExpiry _ | .lockstepMismatch _ | .resetExecute _ | .bootRetry _ | .xaCheckRetry _ _
  | .warmBootTimeout _ => true
  | _ => false

/-- Commands in which a reset or a boot runs. -/
def bootsDevice : Instr → Bool
  | .powerUp _ _ | .supplyLoss _ | .resetN _ _ | .watchdogExpiry _ | .lockstepMismatch _ | .resetExecute _ | .bootRetry _
  | .xaCheckRetry _ _ | .warmBootTimeout _ => true
  | _ => false

/-! The interlock (R95, R96, R114). -/

/-- A channel that drives nothing and has nothing under way. -/
def EmitCh.still (x : EmitCh) : Prop :=
  x.code = 0 ∧ x.ramp = none ∧ x.waiting = none ∧ x.loopClosed = false ∧ x.closeAt = none ∧ x.risen = false

/-- There are six channels, and while the latch is set each is still. -/
def State.IlkDark (s : State) : Prop :=
  s.emit.chans.length = 6 ∧ (s.ilk.latched = true → ∀ x ∈ s.emit.chans, x.still)

/-! Frames of the pair link (R379 to R382, R390). -/

/-- A frame of header h from the peer is taken: the link is up, the frame is the other device's, the lane is there, and the loss
of its heartbeat has not fallen due. -/
def State.Hears (s : State) (h : LinkHdr) : Prop :=
  2 ≤ s.twin.link ∧ h.ident ≠ s.twinId ∧ s.lane = true ∧
    ∀ a ∈ s.twin.peerAt, s.now < a + usT (s.p K.twinHbLossUs)

/-- A reliable frame is the next of its sender, or begins its count anew. -/
def State.InOrder (s : State) (h : LinkHdr) : Prop := h.resync = true ∨ h.lseq = (s.twin.accepted + 1) % 65536

/-- The state in which the content of a taken reliable frame acts. -/
def State.heard (s : State) (h : LinkHdr) : State :=
  (s.ackTo h.ack).modTwin fun w => { w with peerAt := some (s.ackTo h.ack).now, accepted := h.lseq }

/-- The same of a frame without sequence. -/
def State.heardAny (s : State) (h : LinkHdr) : State :=
  (s.ackTo h.ack).modTwin fun w => { w with peerAt := some (s.ackTo h.ack).now }

/-! Slice instructions (R239). -/

/-- Slice i goes on at index pc after an instruction w of n cycles, with the stalls counted. -/
def State.sliceOn (s : State) (i : Nat) (w : Word) (n pc : Nat) : State :=
  (s.sliceCycles i w n).modSlc i fun x => { x with pc := pc, waiting := false }

/-- The same for an instruction that leaves the slice y. -/
def State.sliceDone (s : State) (i : Nat) (w : Word) (n : Nat) (y : Slice) (pc : Nat) : State :=
  (s.modSlc i fun _ => y).sliceOn i w n pc

end Sys2Proof.Machine
end

