-- ==== Sys2Proof/Certificates/Slice0/Obligations.lean ====
section
/-!
DEFINITION. The statements for the provers: what each command of the table does where its conditions are met, the order in which a
request is refused, and what every command or step leaves as it was. Each docstring names the rules of the spec it rests on.
-/
section
open Sys2Proof Sys2Proof.Machine

/-! Requests. -/

/-- IDENT answers with the device's identity and GET_PARAM with the values of its keys (R46, R50, R54 and R56). -/
def Obligations.IdentAndGetParamComplete : Prop :=
  (∀ (s : State) (t : Tick) (q : Req), s.Admits q cObserve true → payLen q = 0 → q.mb ≠ 19 →
    let w := s.opened t q
    exec (.ident t q) s = .next (w.ok (reqId q 0x0001)
      (leBytes 2 0x4096 ++ leBytes 1 0xB0 ++ leBytes 1 (b2n Config.orderIB) ++ leBytes 4 s.sys.fwVersion ++
        leBytes 8 Config.dieSerial ++ leBytes 2 s.prot.version ++ leBytes 1 s.twinId ++ leBytes 1 s.clk.mode ++
        leBytes 1 (nth 0 s.prot.classes q.mb) ++ leBytes 3 0 ++ leBytes 4 s.memc.fittedMib))) ∧
  (∀ (s : State) (t : Tick) (q : Req) (n : Nat) (out : List Byte), s.Admits q cObserve true →
    1 ≤ n → n ≤ 256 → payU q 0 2 = n → payU q 2 2 ≤ 1 → payLen q = 4 + 2 * n →
    let w := s.opened t q
    let keys := (List.range n).map (fun i => payU q (4 + 2 * i) 2)
    w.getKeys (payU q 2 2) keys 0 [] = .ok out →
    exec (.getParam t q) s = .next ((keys.foldl State.keyRead w).ok (reqId q 0x0002) out))

/-- SET_PARAM writes every entry where all pass and nothing where one fails; COMMIT becomes pending with the staged set as
it stands, and its dry run only answers (R55 and R57 to R60). -/
def Obligations.SetParamAndCommitComplete : Prop :=
  (∀ (s : State) (t : Tick) (q : Req) (es : List (Nat × List Byte)), s.Admits q cConfigure true →
    4 ≤ payLen q → 1 ≤ payU q 0 2 → payU q 0 2 ≤ 256 → payU q 2 2 = 0 →
    parseEntries (payU q 0 2) (q.payload.drop 4) = some es →
    let w := s.opened t q
    let keys := (es.map (·.1)).eraseDups
    (∀ z, w.trySet es 0 = .ok z →
      let old := if keys.contains K.timeSlewMaxPpb then w.settle else w
      exec (.setParam t q) s = .next
        (((keys.foldl (fun x k => x.keyEffect old k) (es.foldl (fun x e => x.writeKey e.1 (leNat e.2)) old)).ok
          (reqId q 0x0003) []).answeredFrom old q)) ∧
    (∀ st i, w.trySet es 0 = .error (st, i) →
      exec (.setParam t q) s = .next (w.final (reqId q 0x0003) st (leBytes 2 i)))) ∧
  (∀ (s : State) (t : Tick) (q : Req), s.Admits q cConfigure true → payLen q = 4 → s.commits.length < 2 →
    let w := s.opened t q
    w.commitState w.commitBase (mergeSet s.running s.staged) = false →
    w.commitRange w.commitBase (mergeSet s.running s.staged) = [] →
    (payU q 0 4 = 0 → exec (.commit t q) s = .next
      { w.takes (reqId q 0x0004) with
        commits := (w.takes (reqId q 0x0004)).commits ++
          [{ who := reqId q 0x0004, snap := (w.takes (reqId q 0x0004)).staged, loaded := false, loadedAt := 0 }] }) ∧
    (payU q 0 4 = 1 → exec (.commit t q) s = .next
      ((w.takes (reqId q 0x0004)).final (reqId q 0x0004) .ok
        (leBytes 4 noShot ++ leBytes 8 (w.takes (reqId q 0x0004)).dev))))

/-- START makes RUN_STATE read 3; STOP answers at once where nothing runs, ends a START that waits, and otherwise waits for
the end of processing; ILK_CLEAR clears the latch where ILK_N is high and lets the enabled channels rise (R89 to R94, R97
and R98). -/
def Obligations.RunRequestsComplete : Prop :=
  (∀ (s : State) (t : Tick) (q : Req), s.Admits q cOperate true → q.mb ≠ 19 → payLen q = 4 → payU q 0 4 = 0 →
    let w := s.opened t q
    w.startState = false →
    exec (.start t q) s = .next
      (let v := w.takes (reqId q 0x0010)
       { v with run := { v.run with
          state := 3, startReq := some (reqId q 0x0010), rampsDone := some v.now, stopMode := none, stopReqs := [],
          slots := v.run.slots.map fun (x : ToneSlot) =>
            { x with launched := false, window := false, crossing := none, extra := false } } })) ∧
  (∀ (s : State) (t : Tick) (q : Req), s.Admits q cOperate true → q.mb ≠ 19 → payLen q = 4 → payU q 0 1 ≤ 1 → payU q 1 3 = 0 →
    let id := reqId q 0x0011
    let v := (s.opened t q).takes id
    (v.run.state = 0 → exec (.stop t q) s = .next (v.final id .ok (stopPayload v.run.lastShot v.run.lastEnd))) ∧
    (v.run.state = 3 → exec (.stop t q) s = .next (v.abortStart.final id .ok (stopPayload v.run.lastShot v.dev))) ∧
    (v.run.state = 2 → exec (.stop t q) s = .next { v with run := { v.run with stopReqs := v.run.stopReqs ++ [id] } }) ∧
    (v.run.state = 1 →
      let u := { v with run := { v.run with stopReqs := v.run.stopReqs ++ [id] } }
      exec (.stop t q) s = .next
        (if payU q 0 1 = 1 ∨ u.allLaunched = true then u.endLaunches false
         else { u with run := { u.run with stopMode := some 0 } }))) ∧
  (∀ (s : State) (t : Tick) (q : Req), s.Admits q cOperate true → q.mb ≠ 19 → payLen q = 0 →
    let w := s.opened t q
    (s.ilk.latched = false → exec (.ilkClear t q) s = .next (w.ok (reqId q 0x00E1) [])) ∧
    (∀ h, s.ilk.latched = true → s.ilk.highAt = some h → h ≤ max s.now t →
      exec (.ilkClear t q) s = .next
        (({ w with ilk := { w.ilk with latched := false } }).riseAll.ok (reqId q 0x00E1) [])) ∧
    (∀ h, s.ilk.latched = true → s.ilk.highAt = some h → max s.now t < h →
      exec (.ilkClear t q) s = .next (w.final (reqId q 0x00E1) .state [])) ∧
    (s.ilk.latched = true → s.ilk.highAt = none →
      exec (.ilkClear t q) s = .next (w.final (reqId q 0x00E1) .state [])))

/-- POWER_MODE begins the transition (or answers where the device is in that mode); RESET falls due 10 ms after its
response (R30, R52, R454 and R455). -/
def Obligations.PowerModeAndResetComplete : Prop :=
  (∀ (s : State) (t : Tick) (q : Req), s.Admits q cOperate true → q.mb ≠ 19 → payLen q = 4 → 1 ≤ payU q 0 1 → payU q 0 1 ≤ 4 →
    payU q 1 3 = 0 → s.clk.trans = none →
    let w := s.opened t q
    let id := reqId q 0x00F0
    (payU q 0 1 < 3 ∨ w.clk.trip = false ∧ w.pwrIsLow = false) →
    (payU q 0 1 = w.clk.mode → exec (.powerMode t q) s = .next ((w.takes id).final id .ok w.modePayload)) ∧
    (payU q 0 1 ≠ w.clk.mode →
      let v := { w.takes id with clk := { (w.takes id).clk with leftMode := none, leftRun := false } }
      exec (.powerMode t q) s = .next
        (v.transBegin { who := some id, source := v.clk.mode, target := payU q 0 1, cause := 1, thenRun := false }))) ∧
  (∀ (s : State) (t : Tick) (q : Req), s.Admits q cMaintain true → q.mb ≠ 19 → payLen q = 4 → payU q 0 1 ≤ 1 → payU q 1 3 = 0 →
    let v := (s.opened t q).ok (reqId q 0x00FE) []
    exec (.reset t q) s = .next
      { v with sys := { v.sys with resetDue := match v.sys.resetDue with
                                               | some r => some r
                                               | none => some (payU q 0 1, (s.opened t q).now + msT 10) } })

/-- CAL_REQUEST starts a run (reason 3) with its scope, or joins the run in progress; CAL_STATUS reports the run; SELFTEST
begins with its items (R137, R138 and R142 to R144). -/
def Obligations.CalibrationRequestsComplete : Prop :=
  (∀ (s : State) (t : Tick) (q : Req), s.Admits q cOperate true → payLen q = 4 → payU q 0 1 ≤ 2 → payU q 1 3 = 0 →
    let w := s.opened t q
    let v := w.takes (reqId q 0x0020)
    w.calAllowed = true → w.bench = false →
    (v.recv.cal = none → exec (.calRequest t q) s = .next (v.calStart 3 (calScopes (payU q 0 1)) [reqId q 0x0020])) ∧
    (∀ c, v.recv.cal = some c → exec (.calRequest t q) s = .next
      { v with recv := { v.recv with cal := some { c with
          scopes := c.scopes ++ (calScopes (payU q 0 1)).filter (fun x => !c.scopes.contains x),
          attached := c.attached ++ [reqId q 0x0020] } } })) ∧
  (∀ (s : State) (t : Tick) (q : Req), s.Admits q cObserve true → payLen q = 0 →
    let w := s.opened t q
    (s.recv.cal = none → exec (.calStatus t q) s = .next (w.ok (reqId q 0x0021)
      (leBytes 1 0 ++ leBytes 1 s.recv.lastResult ++ leBytes 1 s.recv.lastReason ++ leBytes 1 0 ++ leBytes 8 s.recv.lastTime ++
        leBytes 2 s.recv.lastDone ++ leBytes 2 s.recv.lastSteps))) ∧
    (∀ c, s.recv.cal = some c → exec (.calStatus t q) s = .next (w.ok (reqId q 0x0021)
      (leBytes 1 1 ++ leBytes 1 s.recv.lastResult ++ leBytes 1 c.reason ++ leBytes 1 0 ++ leBytes 8 s.recv.lastTime ++
        leBytes 2 c.done ++ leBytes 2 c.steps)))) ∧
  (∀ (s : State) (t : Tick) (q : Req), s.Admits q cOperate (payU q 0 1 != 1 || s.holds q.mb cMaintain) →
    payLen q = 4 → payU q 0 1 ≤ 1 → payU q 1 3 = 0 → 3 ≤ s.clk.mode → s.recv.selftest = none →
    (payU q 0 1 = 1 → s.run.state = 0 ∧ s.recv.cal = none) →
    let w := s.opened t q
    let v := w.takes (reqId q 0x0022)
    let test : SelfTest :=
      { who := reqId q 0x0022, kind := payU q 0 1,
        items := w.testItems (payU q 0 1) (if w.shots then PS.tones w.running else List.range 8), ran := 0, failed := none,
        waits := 0, placed := [], paced := w.now, phases := [] }
    exec (.selftest t q) s = .next { v with recv := { v.recv with selftest := some test } })

/-- CAPTURE_ARM puts its slot's new record in place, answers with the latency it grants and triggers at once where the
cause asks for it; CAPTURE_STATUS answers with the slot's 176 bytes; CAPTURE_RELEASE frees the slot (R285, R286, R288,
R289, R295 and R296). -/
def Obligations.CaptureRequestsComplete : Prop :=
  (∀ (s : State) (t : Tick) (q : Req) (r : Status × Nat), s.Admits q cOperate true → payLen q = 24 → payU q 0 1 ≤ 15 →
    1 ≤ payU q 1 1 → payU q 1 1 < 128 → (payU q 2 2 ≤ 4095 ∨ payU q 2 2 = 0xFFFF) → 1 ≤ payU q 12 4 → payU q 12 4 ≤ 7 →
    1 ≤ payU q 4 4 + payU q 8 4 → payU q 4 4 ≤ 86400000 → payU q 8 4 ≤ 86400000 →
    let w := s.opened t q
    w.armCheck (payU q 0 1) (payU q 4 4) (payU q 8 4) (payU q 12 4) (payU q 16 4) (payU q 20 4) = r →
    let slot := w.armed (payU q 1 1) (payU q 2 2) (payU q 4 4) (payU q 8 4) (payU q 12 4) (payU q 16 4) (payU q 20 4) r.2
    let v := (w.modCap (payU q 0 1) fun _ => slot).ok (reqId q 0x0030) (leBytes 4 r.2 ++ leBytes 4 slot.flags)
    (r.1 = .ok → exec (.captureArm t q) s = .next (v.captureTrigger (payU q 0 1) 6 v.dev 0 0xFFFF 0 false)) ∧
    (r.1 ≠ .ok → exec (.captureArm t q) s = .next (w.final (reqId q 0x0030) r.1 []))) ∧
  (∀ (s : State) (t : Tick) (q : Req), s.Admits q cObserve true → payLen q = 4 → payU q 0 1 ≤ 15 → payU q 1 3 = 0 →
    let w := s.opened t q
    exec (.captureStatus t q) s = .next (w.ok (reqId q 0x0031) ((w.capSlot (payU q 0 1)).bytes176 (payU q 0 1)))) ∧
  (∀ (s : State) (t : Tick) (q : Req), s.Admits q cOperate true → payLen q = 4 → payU q 0 1 ≤ 15 → payU q 1 3 = 0 →
    let w := s.opened t q
    exec (.captureRelease t q) s = .next
      (({ w with cap := { w.cap with slots := modAt (fun _ => {}) w.cap.slots (payU q 0 1) } }).ok (reqId q 0x0032) []))

/-- RETRIEVE queues its job behind the others; RETRIEVE_CANCEL marks the job and drops its objects not yet begun and its
restorations still queued, and is refused with STATE where there is no such job (R53, R338 and R339). -/
def Obligations.RetrievalRequestsComplete : Prop :=
  (∀ (s : State) (t : Tick) (q : Req), s.Admits q cObserve true → payLen q = 32 → payU q 0 1 ≤ 2 → payU q 1 1 ≤ 1 →
    payU q 28 1 ≤ 1 → (payU q 28 1 = 1 → payU q 0 1 = 0) → payU q 29 3 = 0 → payU q 4 8 < payU q 12 8 →
    payU q 20 4 + payU q 24 4 ≤ s.p K.chanChannels →
    (payU q 1 1 = 1 → ∃ x ∈ s.session (payU q 2 2), x.closing = none) →
    (payU q 1 1 = 0 → (s.ring 33).enable = true ∧ 3 ≤ s.clk.mode) → (payU q 0 1 ≤ 1 → s.clk.mode ≠ 2) →
    s.atom.jobs.length < 256 →
    let id := reqId q 0x0040
    let v := (s.opened t q).takes id
    let j : RetrJob :=
      { who := id, tier := payU q 0 1, target := payU q 1 1, session := payU q 2 2, start := payU q 4 8,
        stop := min (payU q 12 8) v.dev, firstCh := payU q 20 4, count := payU q 24 4, form := payU q 28 1, objects := 0,
        bytes := 0, gaps := 0, firstT := 0, lastT := 0, pos := none, gapsDone := false, cancelled := false, decomp := none,
        out := none }
    exec (.retrieve t q) s = .next (({ v with atom := { v.atom with jobs := v.atom.jobs ++ [j] } }).jobQueue j)) ∧
  (∀ (s : State) (t : Tick) (q : Req), s.Admits q cObserve true → payLen q = 4 → payU q 2 2 = 0 →
    let w := s.opened t q
    let mine := fun (j : RetrJob) => j.who.mb == q.mb && j.who.tag == payU q 0 2
    ((∃ j ∈ s.atom.jobs, mine j = true ∧ j.cancelled = false) →
      exec (.retrieveCancel t q) s = .next
        (({ w with
            engines := w.engines.map (fun (e : Engine) => { e with queue := e.queue.filter (fun j =>
              match j with
              | .restore _ _ mb tag => !(mb == q.mb && tag == payU q 0 2)
              | .archive _ _ => true) }),
            atom := { w.atom with
              jobs := w.atom.jobs.map (fun j => if mine j then { j with cancelled := true } else j),
              sessions := w.atom.sessions.map (fun (x : Session) =>
                { x with objects := x.objects.filter (fun o => !(o.mb == q.mb && o.tag == payU q 0 2 && o.sent == 0)) }) } }).ok
          (reqId q 0x0041) [])) ∧
    ((∀ j ∈ s.atom.jobs, mine j = true → j.cancelled = true) →
      exec (.retrieveCancel t q) s = .next (w.final (reqId q 0x0041) .state [])))

/-- SESSION_OPEN takes the lowest free number; SESSION_CLOSE marks the session and ends its retrieval jobs with ABORTED;
SESSION_MODIFY replaces what the request carries (R314 to R316 and R321). -/
def Obligations.SessionRequestsComplete : Prop :=
  (∀ (s : State) (t : Tick) (q : Req) (n : Nat), s.Admits q cOperate true → payLen q = 36 → sessionRange q.payload = false →
    let w := s.opened t q
    w.sessionState q.payload = false → (List.range 1024).find? (fun k => (w.session k).isNone) = some n →
    let x0 := w.sessionOf q.payload n
    let x := { x0 with tokens := (w.bucketDepth x0 : Int) }
    w.topRaised w.running w.running (w.topSum w.running) (w.topSum w.running + PS.topRate w.running x) = false →
    exec (.sessionOpen t q) s = .next
      (({ w with atom := { w.atom with sessions := w.atom.sessions ++ [x] } }).ok (reqId q 0x0050) (leBytes 2 n))) ∧
  (∀ (s : State) (t : Tick) (q : Req) (x : Session), s.Admits q cOperate true → payLen q = 4 → payU q 0 2 ≤ 1023 →
    payU q 2 2 = 0 → s.session (payU q 0 2) = some x → x.closing = none →
    let id := reqId q 0x0051
    exec (.sessionClose t q) s = .next
      ((((s.opened t q).begins id).modSession (payU q 0 2) fun y =>
        { y with closing := some id, events := [], streams := [], objects := [], eventTs := [], itemTs := [] }).abortJobs
          (fun j => j.target == 1 && j.session == payU q 0 2))) ∧
  (∀ (s : State) (t : Tick) (q : Req) (x : Session), s.Admits q cOperate true → payLen q = 40 → payU q 0 2 ≤ 1023 →
    payU q 2 2 = 0 → sessionRange (q.payload.drop 4) = false → s.session (payU q 0 2) = some x → x.closing = none →
    let w := s.opened t q
    w.sessionState (q.payload.drop 4) = false →
    let y := w.sessionOf (q.payload.drop 4) (payU q 0 2)
    let v := w.modSession (payU q 0 2) fun z =>
      let z := w.refill z
      { z with transport := y.transport, ports := y.ports, ring := y.ring, kindMask := y.kindMask, firstZone := y.firstZone,
               lastZone := y.lastZone, rate := y.rate, dest := y.dest, destPort := y.destPort, chanSet := y.chanSet }
    w.topRaised w.running w.running (w.topSum w.running) (v.topSum v.running) = false →
    exec (.sessionModify t q) s = .next (v.ok (reqId q 0x0052) []))

/-- ZONE_LOAD writes its descriptors, or none where one fails (the answer names the first); ZONE_READ answers with one item
per zone (R185, R256 to R258 and R260). -/
def Obligations.ZoneRequestsComplete : Prop :=
  (∀ (s : State) (t : Tick) (q : Req), s.Admits q cConfigure true → 1 ≤ payU q 2 2 → payU q 2 2 ≤ 63 →
    payLen q = 4 + 64 * payU q 2 2 → payU q 0 2 + payU q 2 2 ≤ 4096 →
    let w := s.opened t q
    let ds := items64 (payU q 2 2) (q.payload.drop 4)
    (∀ i, ds.findIdx? (fun b => !w.zoneOk b) = some i →
      exec (.zoneLoad t q) s = .next (w.final (reqId q 0x0060) .range (leBytes 2 i))) ∧
    (ds.findIdx? (fun b => !w.zoneOk b) = none →
      let v := (w.zoneWrites (payU q 0 2) ds).chanSets
      w.topRaised w.running w.running (w.topSum w.running) (v.topSum w.running) = false →
      exec (.zoneLoad t q) s = .next
        ((((((List.range (payU q 2 2)).map (· + payU q 0 2)).foldl State.repair v).refreshDark.planModes).sendDigest
          (payU q 0 2) (payU q 2 2)).ok (reqId q 0x0060) []))) ∧
  (∀ (s : State) (t : Tick) (q : Req), s.Admits q cObserve true → payLen q = 8 → 1 ≤ payU q 2 2 → payU q 2 2 ≤ 63 →
    payU q 4 1 ≤ 2 → payU q 5 3 = 0 → payU q 0 2 + payU q 2 2 ≤ 4096 →
    let w := s.opened t q
    exec (.zoneRead t q) s = .next (w.ok (reqId q 0x0061)
      (((List.range (payU q 2 2)).map (· + payU q 0 2)).flatMap (w.zoneItem (payU q 4 1)))))

/-- SLICE_LOAD keeps an image in the making, refuses a whole one that a check of R250 fails, and puts one that passes into
every named slice; SLICE_START starts them (R249 to R251). -/
def Obligations.SliceRequestsComplete : Prop :=
  (∀ (s : State) (t : Tick) (q : Req), s.Admits q cConfigure s.prot.sliceLoadHost → 12 ≤ payLen q → payU q 2 2 = 0 →
    payLen q ≤ 4096 → payU q 0 1 + payU q 1 1 ≤ 128 → payU q 8 4 = 0 → s.run.state = 0 →
    let w := s.opened t q
    let names := (List.range (payU q 1 1)).map (· + payU q 0 1)
    let chunk := q.payload.drop 12
    let load : SliceLoading := ⟨payU q 0 1, payU q 1 1, payU q 4 4, chunk⟩
    (chunk.length < payU q 4 4 → exec (.sliceLoad t q) s = .next
      (({ w with slices := { w.slices with loading := some load } }).ok (reqId q 0x0070) [])) ∧
    (chunk.length = payU q 4 4 → imageCheck chunk = none → exec (.sliceLoad t q) s = .next
      ((names.foldl (fun (x : State) i => x.putImage i (imageOf chunk))
        { w with slices := { w.slices with loading := none, loadResult := 0 } }).ok (reqId q 0x0070) [])) ∧
    (∀ n o, chunk.length = payU q 4 4 → imageCheck chunk = some (n, o) → exec (.sliceLoad t q) s = .next
      ((({ w with slices := { w.slices with loading := none, loadResult := n + 256 * (o % 2 ^ 24) } }).begins
        (reqId q 0x0070)).final (reqId q 0x0070) .checkFail []))) ∧
  (∀ (s : State) (t : Tick) (q : Req), s.Admits q cConfigure true → payLen q = 4 → payU q 2 2 = 0 →
    payU q 0 1 + payU q 1 1 ≤ 128 →
    let w := s.opened t q
    let names := (List.range (payU q 1 1)).map (· + payU q 0 1)
    names.any (fun i => (w.slc i).image.isNone || (w.assigned i && w.run.state != 0 && (w.slc i).status != 3)) = false →
    exec (.sliceStart t q) s = .next
      ((names.foldl (fun (x : State) i =>
        if (x.slc i).status == 3 && (x.startSlice i).assigned i then (x.startSlice i).restartSets i else x.startSlice i) w).ok
          (reqId q 0x0071) []))

/-- INST_READ answers with the accumulation of each selected input and clears it where asked; INST_INJECT queues the host's
conversion and is refused with BUSY while one waits or runs (R413, R414, R416 and R420 to R422). -/
def Obligations.InstRequestsComplete : Prop :=
  (∀ (s : State) (t : Tick) (q : Req), s.Admits q cObserve true → payLen q = 4 → 1 ≤ payU q 0 2 → payU q 2 1 ≤ 1 →
    payU q 3 1 = 0 →
    let w := s.opened t q
    let ins := (List.range 16).filter (bit (payU q 0 2))
    let cleared := ins.foldl (fun as i => modAt (w.accumAnew i) as i) w.inst.accums
    let v := if payU q 2 1 = 1 then { w with inst := { w.inst with accums := cleared } } else w
    exec (.instRead t q) s = .next (v.ok (reqId q 0x0080) (ins.flatMap (w.instReadOne (payU q 2 1 == 1))))) ∧
  (∀ (s : State) (t : Tick) (q : Req), s.Admits q cOperate true → payLen q = 4 → payU q 0 1 ≤ 15 →
    payU q 1 1 / 16 % 8 = 0 → payU q 2 1 < 64 → payU q 3 1 < 64 →
    let w := s.opened t q
    let id := reqId q 0x0081
    w.cfgOk (payU q 0 1) (w.injectCfg q) = true → w.instRuns = true →
    (w.reqBusy 5 = true → exec (.instInject t q) s = .next (w.final id .busy [])) ∧
    (w.reqBusy 5 = false → exec (.instInject t q) s = .next
      (({ w.takes id with inst := { (w.takes id).inst with hostReq := some id } }).inject 5 (payU q 0 1) (w.injectCfg q)
        (bit (payU q 3 1) 2))))

/-- TIU_MEASURE takes the unit, armed at once where its arm source is 0; TIME_SET steps device time, or begins the slew,
and makes it valid. TWIN_STATUS answers with the link's 64 bytes; TWIN_CONTROL 1 resynchronises, 2 sends LEAVING and 3 sets
or clears the forced dark (R369, R377, R378, R381, R402 and R403). -/
def Obligations.TimeAndTwinRequestsComplete : Prop :=
  (∀ (s : State) (t : Tick) (q : Req), s.Admits q cOperate true → payLen q = 8 → 1 ≤ payU q 4 4 → payU q 4 4 ≤ 2 ^ 24 →
    payU q 0 1 ≤ 16 → payU q 1 1 ≤ 16 → payU q 2 1 % 16 ≤ 2 → payU q 2 1 / 16 % 8 ≤ 3 → payU q 2 1 < 128 → payU q 3 1 < 128 →
    (payU q 2 1 % 16 = 2 ↔ payU q 0 1 = payU q 1 1) → (7 < payU q 0 1 → payU q 3 1 % 4 = 0) →
    (7 < payU q 1 1 → payU q 3 1 / 4 % 4 = 0) → 3 ≤ s.clk.mode → (payU q 2 1 / 16 % 8 = 1 → s.run.state = 1) →
    s.time.tiu = none →
    let id := reqId q 0x0090
    let v := (s.opened t q).takes id
    let j : TiuJob :=
      { who := id, startIn := payU q 0 1, stopIn := payU q 1 1, mode := payU q 2 1 % 16, arm := payU q 2 1 / 16 % 8,
        preStart := payU q 3 1 % 4, preStop := payU q 3 1 / 4 % 4, gate := payU q 3 1 / 16 % 8, n := payU q 4 4, used := [],
        excluded := 0, armed := none, armFrom := v.now, cntStart := 0, cntStop := 0, first := none, second := none,
        inclFlagged := v.pB K.timeTiuStatsIncludeFlagged, edges := 0, timeoutMs := 0, stopDelay := 0 }
    exec (.tiuMeasure t q) s = .next
      { v with time := { v.time with tiu := some (if payU q 2 1 / 16 % 8 = 0 then v.tiuArmed j v.now else j) } }) ∧
  (∀ (s : State) (t : Tick) (q : Req), s.Admits q cConfigure true → payLen q = 12 → payU q 9 3 = 0 →
    s.p K.timePtpMode = 0 →
    let w := s.opened t q
    (payU q 8 1 = 0 → s.run.state = 0 →
      let v := w.stepTime (payU q 0 8)
      exec (.timeSet t q) s = .next
        (({ v with time := { v.time with valid := true, fromBackup := false } }).ok (reqId q 0x0091) [])) ∧
    (payU q 8 1 = 1 →
      let v := w.settle
      exec (.timeSet t q) s = .next
        (({ v with time := { v.time with
            slew := (((payU q 0 8 * 4294967296 : Nat) : Int) - (v.time.dev : Int)) / 65536, valid := true,
            fromBackup := false } }).ok (reqId q 0x0091) []))) ∧
  (∀ (s : State) (t : Tick) (q : Req), s.Admits q cObserve true → payLen q = 0 →
    let w := s.opened t q
    exec (.twinStatus t q) s = .next (w.ok (reqId q 0x00A0) w.refreshDark.twinStatusBytes)) ∧
  (∀ (s : State) (t : Tick) (q : Req), s.Admits q cMaintain true → payLen q = 8 → payU q 1 3 = 0 → s.twin.link ≠ 0 →
    let w := s.opened t q
    (payU q 0 1 = 1 → payU q 4 4 = 0 → s.twin.link = 3 → exec (.twinControl t q) s = .next
      (({ w with twin := { w.twin with resyncNext := true } }).exchange.ok (reqId q 0x00A1) [])) ∧
    (payU q 0 1 = 2 → payU q 4 4 = 0 → exec (.twinControl t q) s = .next (w.sendLeaving.ok (reqId q 0x00A1) [])) ∧
    (payU q 0 1 = 3 → payU q 4 4 ≤ 1 → exec (.twinControl t q) s = .next
      (let u := w.refreshDark
       (({ u with twin := { u.twin with forceDark := payU q 4 4 == 1 } }).refreshDark.ownership).ok (reqId q 0x00A1) [])))

/-- DISP_LAYER and DISP_CHECK keep what applies from the next frame start, DISP_CHECK answering with the last CRC. MON_READ
answers with the monitors of its groups; PERF_CONFIG sets a counter; PERF_READ answers with the selected counters and
clears them where asked; MODULE_READ answers with cached bytes (R117, R119, R432, R433, R437, R462, R463 and R467). -/
def Obligations.DisplayAndMonitorRequestsComplete : Prop :=
  (∀ (s : State) (t : Tick) (q : Req), s.Admits q cOperate true → payLen q = 44 → payU q 0 1 ≤ 1 → payU q 1 1 ≤ 2 →
    payU q 2 2 = 0 → 3 ≤ s.clk.mode →
    let w := s.opened t q
    w.layerOk (payU q 1 1) (slice q.payload 4 40) = true → w.hasOutput (payU q 0 1) = true →
    exec (.dispLayer t q) s = .next
      ((w.modLayer (3 * payU q 0 1 + payU q 1 1) fun l => { l with next := some (slice q.payload 4 40) }).ok
        (reqId q 0x00B0) [])) ∧
  (∀ (s : State) (t : Tick) (q : Req), s.Admits q cConfigure true → payLen q = 16 → payU q 0 1 ≤ 1 → payU q 1 1 ≤ 7 →
    payU q 2 2 = 0 → (payU q 0 1 = 1 → s.p K.dispMode = 2) →
    (payU q 8 2 = 0 ∨ PS.inArea s.running (payU q 4 2) (payU q 6 2) (payU q 8 2) (payU q 10 2) = true) →
    let w := s.opened t q
    let n := 8 * payU q 0 1 + payU q 1 1
    exec (.dispCheck t q) s = .next
      ((w.modCheck n fun c =>
        { c with next := some (payU q 4 2, payU q 6 2, payU q 8 2, payU q 10 2, payU q 12 4) }).ok (reqId q 0x00B1)
          (leBytes 4 (nth {} s.disp.checks n).lastCrc))) ∧
  (∀ (s : State) (t : Tick) (q : Req), s.Admits q cObserve true → payLen q = 4 → payU q 0 4 % 8 ≠ 0 →
    payU q 0 4 / 8 % 2 ^ 28 = 0 →
    let w := s.opened t q
    let gs := (List.range 3).filter (bit (payU q 0 4))
    let r := fun (g : Nat) (ms : List Monitor) => if bit (payU q 0 4) 31 && gs.contains g then ms.map restartMon else ms
    exec (.monRead t q) s = .next
      (({ w with clk := { w.clk with temps := r 0 w.clk.temps, volts := r 1 w.clk.volts, procs := r 2 w.clk.procs } }).ok
        (reqId q 0x00C0)
        (gs.flatMap fun g => ((w.monitors g).zipIdx).flatMap fun (e : Monitor × Nat) => w.monRecord g e.2 e.1))) ∧
  (∀ (s : State) (t : Tick) (q : Req), s.Admits q cConfigure true → payLen q = 8 →
    perfOk (payU q 0 1) (payU q 1 1) (payU q 2 2) (payU q 4 4) = true →
    exec (.perfConfig t q) s = .next
      (((s.opened t q).perfSet (payU q 0 1) (payU q 1 1) (payU q 2 2) (payU q 4 4)).ok (reqId q 0x00D0) [])) ∧
  (∀ (s : State) (t : Tick) (q : Req), s.Admits q cObserve (s.prot.perfUser || s.holds q.mb cMaintain) → payLen q = 12 →
    payU q 0 8 ≠ 0 → payU q 8 1 ≤ 1 → payU q 9 3 = 0 →
    let w := s.opened t q
    let sel := (List.range 64).filter (bit (payU q 0 8))
    let cleared := if payU q 8 1 = 1 then sel.flatMap (chainOf w.clk.perf) else []
    exec (.perfRead t q) s = .next
      (({ w with clk := { w.clk with perf := cleared.foldl (fun ps i => modAt w.clearPerf ps i) w.clk.perf } }).ok
        (reqId q 0x00D1)
        (sel.flatMap fun i => leBytes 8 (nth ({} : Perf) w.clk.perf i).val ++ leBytes 4 (w.perfFlags (nth ({} : Perf) w.clk.perf i))))) ∧
  (∀ (s : State) (t : Tick) (q : Req) (p : Nat), s.Admits q cObserve true → payLen q = 8 → payU q 6 2 = 0 →
    inRange 1 4092 (payU q 4 2) = true → modulePos (payU q 0 1) (payU q 1 1) = some p → 2 ≤ (s.modl p).state →
    ((s.modl p).state = 3 → (s.modl p).reason ≠ 1) → payU q 2 2 + payU q 4 2 ≤ (s.modl p).cache.length →
    exec (.moduleRead t q) s = .next
      ((s.opened t q).ok (reqId q 0x00E0)
        (leBytes 2 (payU q 4 2) ++ leBytes 2 0 ++ slice (s.modl p).cache (payU q 2 2) (payU q 4 2))))

/-! The mailbox transport. -/

/-- A write of IN_PROD is taken as a doorbell, served once mailboxes are ready, or refused with OVERRUN; a write of
OUT_CONS lets held responses enter, or sets OUT_ERR, each flag with the cycle it was set in; RESPONSE_RELEASE lets
responses enter; FLUSH empties the mailbox; a request that repeats a remembered sequence is answered again, and one given
before the mailboxes are ready is not served (the latter the model's choice, assumption 6) (R34, R36 to R40 and R514). -/
def Obligations.MailboxRegistersComplete : Prop :=
  (∀ (s : State) (t : Tick) (m : Nat) (v : Word), s.clk.pcie = true → s.clk.mode ≠ 0 → m < 16 →
    let w := s.advance t
    let bell := State.pulse { w with mboxes := modAt (fun b => { b with inProd := v }) w.mboxes m } 0 m 8 1
    (serialLt 32 v.toNat (w.mbox m).inProd.toNat = false → (v - (w.mbox m).inCons).toNat ≤ 256 → s.sys.mbReady = false →
      exec (.inProdWrite t m v) s = .next bell) ∧
    (serialLt 32 v.toNat (w.mbox m).inProd.toNat = false → (v - (w.mbox m).inCons).toNat ≤ 256 → s.sys.mbReady = true →
      exec (.inProdWrite t m v) s = .next ((bell.copyUnits m).takeStaged m 520)) ∧
    ((serialLt 32 v.toNat (w.mbox m).inProd.toNat = true ∨ 256 < (v - (w.mbox m).inCons).toNat) →
      exec (.inProdWrite t m v) s = .next
        (State.hwMark { w with mboxes := modAt (fun b => { b with overrun := true }) w.mboxes m } (w1cId (0x1018 + 0x100 * m) 0)))) ∧
  (∀ (s : State) (t : Tick) (m : Nat) (v : Word), s.clk.pcie = true → s.clk.mode ≠ 0 → m < 16 →
    let w := s.advance t
    let bad := serialLt 32 v.toNat (w.mbox m).outCons.toNat || serialLt 32 (w.mbox m).outProd.toNat v.toNat
    (bad = false → exec (.outConsWrite t m v) s = .next
      (({ w with mboxes := modAt (fun b => { b with outCons := v }) w.mboxes m }).pump m 66)) ∧
    (bad = true → exec (.outConsWrite t m v) s = .next
      (State.hwMark { w with mboxes := modAt (fun b => { b with outErr := true }) w.mboxes m } (w1cId (0x1018 + 0x100 * m) 3)))) ∧
  (∀ (s : State) (t : Tick) (m : Nat), m < 16 → exec (.responseRelease t m) s = .next ((s.advance t).pump m 66)) ∧
  (∀ (s : State) (t : Tick) (m : Nat) (v : Word), s.clk.pcie = true → s.clk.mode ≠ 0 → m < 16 → bit v.toNat 0 = true →
    let w := s.advance t
    exec (.flush t m v) s = .next
      { w with mboxes := modAt (fun b =>
          let left := b.inflight.filter (fun g => !(((b.held ++ b.split.toList).filter (·.final)).map (·.tag)).contains g)
          { b with inProd := 0, inCons := 0, outProd := 0, outCons := 0, staging := [], held := [], split := none,
                   inflight := left, flushed := left }) w.mboxes m }) ∧
  (∀ (s : State) (c : Instr) (t : Tick) (q : Req) (op cls : Nat) (grant : Bool),
    let w := s.advance t
    w.need c = some (t, q, op, cls, grant) →
    (w.sys.mbReady = false → q.mb ≠ 19 → exec c s = .next w) ∧
    (∀ e, w.sys.mbReady = true ∨ q.mb = 19 → q.mb ≤ 19 → w.clk.mode ≠ 0 → w.repeatOf q = some e →
      exec c s = .next (w.resend q op e)))

/-- A whole datagram to a UDP mailbox's port from the bound source, or from any source while none is bound, binds the
mailbox and is executed, or waits while an immediate command there has not finished; one from another source is counted;
the binding is released at its idle time; a message on SPI is executed, and SPI reads clock out the oldest response or the
status byte (R62, R63, R65 and R66). -/
def Obligations.UdpAndSpiComplete : Prop :=
  (∀ (s : State) (t : Tick) (mb : Nat) (dst peer : Peer) (bytes : List Byte), (s.advance t).mgmtMbox dst = some mb →
    s.sys.mbReady = true → s.clk.mode ≠ 0 → ((s.mbox mb).bound = none ∨ (s.mbox mb).bound = some peer) → 16 ≤ bytes.length →
    headBad bytes = false → (bytes.length = 16 + msgLen bytes ∨ bytes.length = msgSize bytes) → crcGood bytes = true →
    let w := s.advance t
    let u : State := { w with mboxes := modAt (fun b => { b with bound := some peer, boundAt := max s.now t }) w.mboxes mb }
    (u.unfinished mb = false → exec (.mgmtDatagram t dst peer bytes) s = .next (u.dispatch (fld bytes 0 2) (reqOf mb peer bytes))) ∧
    (u.unfinished mb = true → exec (.mgmtDatagram t dst peer bytes) s = .next
      { u with mboxes := modAt (fun b => { b with later := b.later ++ [(peer, bytes)] }) u.mboxes mb })) ∧
  (∀ (s : State) (t : Tick) (mb : Nat) (p dst peer : Peer) (bytes : List Byte), (s.advance t).mgmtMbox dst = some mb →
    s.sys.mbReady = true → s.clk.mode ≠ 0 → (s.mbox mb).bound = some p → p ≠ peer →
    let w := s.advance t
    exec (.mgmtDatagram t dst peer bytes) s = .next
      (State.hwMark { w with mboxes := modAt (fun b => { b with refusedCount := b.refusedCount.add32 1 }) w.mboxes mb }
        (regCtrId (0x1020 + 0x100 * mb)))) ∧
  (∀ (s : State) (t : Tick) (mb : Nat) (p : Peer), (mb = 16 ∨ mb = 17) → (s.mbox mb).bound = some p →
    (s.mbox mb).boundAt + secT (s.p K.sysMgmtBindIdleS) ≤ max s.now t →
    let w := s.advance t
    exec (.mgmtBindRelease t mb) s = .next { w with mboxes := modAt (fun b => { b with bound := none }) w.mboxes mb }) ∧
  (∀ (s : State) (t : Tick) (bytes : List Byte), s.sys.mbReady = true → s.clk.mode ≠ 0 → (s.mbox 18).later = [] →
    16 ≤ bytes.length → headBad bytes = false → 16 + msgLen bytes ≤ bytes.length → crcGood bytes = true →
    (s.advance t).unfinished 18 = false →
    exec (.spiWriteMessage t bytes) s = .next ((s.advance t).dispatch (fld bytes 0 2) (reqOf 18 noPeer bytes))) ∧
  (∀ (s : State) (t : Tick) (n : Nat),
    let w := s.advance t
    ((s.mbox 18).held = [] →
      exec (.spiReadResponse t n) s = .next { w with sys := { w.sys with spiData := List.replicate 16 0 } }) ∧
    (∀ r rest, (s.mbox 18).held = r :: rest →
      let u := { w with sys := { w.sys with spiData := r.bytes.take n } }
      exec (.spiReadResponse t n) s = .next
        (if r.bytes.length ≤ n then u.modMbox 18 fun b => ({ b with held := rest }).finish r else u))) ∧
  (∀ (s : State) (t : Tick),
    let w := s.advance t
    exec (.spiReadStatus t) s = .next
      { w with sys := { w.sys with
          spiData := leBytes 1 (b2n (!(s.mbox 18).held.isEmpty) + 2 * b2n (s.sys.mbReady && (s.mbox 18).later.isEmpty) +
            4 * b2n s.sys.mbReady) } })

/-- REGISTER_WRITE writes the register its offset names, REGISTER_READ_CLEAR reads it and clears it where it is RC; SNAP
copies the counters; FAULT_CONS moves on (R7, R32, R33, R468 and R485). -/
def Obligations.RegisterAccessComplete : Prop :=
  (∀ (s : State) (t : Tick) (off : Nat) (v : Word), s.clk.pcie = true → s.clk.mode ≠ 0 →
    exec (.registerWrite t off v) s = .next ((s.advance t).regWrite off v)) ∧
  (∀ (s : State) (t : Tick) (off : Nat), s.clk.pcie = true → s.clk.mode ≠ 0 →
    let w := s.advance t
    exec (.registerReadClear t off) s = .next
      (({ w with sys := { w.sys with readData := BitVec.ofNat 32 (w.regRead off) } }).regClear off)) ∧
  (∀ (s : State) (t : Tick) (v : Word), s.clk.pcie = true → s.prot.perfUser = true → bit v.toNat 0 = true →
    let w := s.advance t
    exec (.snap t v) s = .next
      { w with clk := { w.clk with snapped := w.clk.perf, snapFlags := w.clk.perf.map w.perfFlags, snapTime := w.dev } }) ∧
  (∀ (s : State) (t : Tick) (v : Word), s.clk.pcie = true → s.clk.mode ≠ 0 → serialLt 32 s.sys.faultProd.toNat v.toNat = false →
    let w := s.advance t
    let excess := (s.sys.faultProd - v).toNat - 4096
    let u : State :=
      { w with sys := { w.sys with faultCons := v + BitVec.ofNat 32 excess, faultLost := w.sys.faultLost.add32 excess } }
    exec (.faultConsWrite t v) s = .next (if excess = 0 then u else u.hwMark (regCtrId 0x208)))

/-- A word of a mailbox buffer that the host writes reads back as written, and every other byte of the buffers, and
everything else but the instant and the performance counters, stays as it was (R32 and R34). -/
def Obligations.BufferWordReadsBack : Prop :=
  ∀ (s : State) (t : Tick) (off : Nat) (v : Word), s.clk.pcie = true → s.clk.mode ≠ 0 → off % 4 = 0 → 0x20000 ≤ off →
    off < 0x40000 →
    ∃ u, exec (.registerWrite t off v) s = .next u ∧ u.regRead off = v.toNat ∧
      (∀ a, (a < off - 0x20000 ∨ off - 0x20000 + 4 ≤ a) → Memory.read u.bufs a = Memory.read s.bufs a) ∧
      (Memory.wf s.bufs = true → Memory.wf u.bufs = true) ∧ { u with now := s.now, clk := s.clk, bufs := s.bufs } = s

/-! COMMIT, the launch schedule and the interlock. w is the state at the command's instant, to which time has passed. -/

/-- The oldest pending COMMIT has loaded: it takes effect at once while RUN_STATE is 0 or 3, and waits for a boundary
otherwise. At a shot-group boundary the group's number and boundary move on, and overrange, a loaded COMMIT, coefficients
and corrections take effect in that order. A run's first group begins with the next shot number at its first boundary and
completes START. A run whose returns are processed is over (R18 to R20, R59, R60, R89, R90, R92, R125, R131 and R135). -/
def Obligations.GroupBoundariesComplete : Prop :=
  (∀ (s : State) (t : Tick) (c : PendingCommit) (rest : List PendingCommit),
    let w := s.advance t
    w.commits = c :: rest → c.loaded = false →
    let v := { w with commits := { c with loaded := true, loadedAt := w.now } :: rest }
    exec (.commitLoadComplete t) s = .next
      (if w.run.state = 0 ∨ w.run.state = 3 then v.commitEffect noShot v.dev else v)) ∧
  (∀ (s : State) (t : Tick),
    let w := s.advance t
    let b := w.run.boundary + PS.period w.running
    w.run.state = 1 → w.run.stopMode = none → w.allLaunched = true → b ≤ w.now →
    let v := w.modRun fun r =>
      { r with boundary := b, shot := (r.shot + 1) % 2 ^ 32, groups := r.groups + 1,
               lastLaunch := r.boundary + PS.launchOff w.running (PS.nTones w.running - 1),
               slots := r.slots.map fun (x : ToneSlot) => { x with launched := false } }
    exec (.shotGroupBoundary t) s = .next
      (((v.overrangeHealth.commitAtBoundary b v.run.shot).calEffect (v.devRound b)).corrEffect.placeSteps)) ∧
  (∀ (s : State) (t : Tick) (t0 : Tick) (q : ReqId),
    let w := s.advance t
    w.run.state = 3 → w.firstBoundary = some t0 → t0 ≤ w.now → w.run.startReq = some q →
    let v := (w.woken [2, 3, 4, 11]).refreshDark.modRun fun r =>
      { r with state := 1, startReq := none, t0 := t0, boundary := t0, shot := r.nextShot, firstShot := r.nextShot,
               everRun := true, stopMode := none }
    let v := (v.ivlRestart v.running 0).modRun fun r => { r with groups := 0 }
    let v := v.modPce fun p =>
      { p with resets := p.resets + 1, tileEpoch := p.tileEpoch + 1, rowCnt := [], tileNo := [], skipShot := [], profSum := [],
               profCnt := [], ivlRun := p.ivlBase }
    let v := v.modSill fun x => { x with firstRun := List.range (PS.groups v.running), skipNext := [] }
    let v := (v.chainResetAll.shiftReset.planModes.placeSteps).refreshDark
    exec (.runFirstGroup t) s = .next (v.final q .ok (leBytes 4 v.run.shot ++ leBytes 8 (v.devRound t0)))) ∧
  (∀ (s : State) (t : Tick),
    let w := s.advance t
    w.run.state = 2 → (w.pce.jobs.all List.isEmpty = true ∨ w.processBound ≤ w.now) →
    exec (.runProcessingDone t) s = .next w.runOver)

/-- A tone launches at its commanded instant, in its position's turn: its shot enters the engine and, where it is not
displaced, its window opens, its gates are driven, its samples are made and the clipped ones counted, and TIU source 9 has
its edge. A crossing is an edge of TIU source 8 and is taken by every slot whose window it falls in, and a second one marks
that window; at the window's end exactly one crossing gives the tone's origin, and otherwise the origin is substituted,
counted and told after 16 in a row (R75, R78, R79, R83 to R86 and R133). -/
def Obligations.LaunchCommandsComplete : Prop :=
  (∀ (s : State) (t : Tick) (slot pos : Nat),
      let w := s.advance t
      let l := w.launchAt pos
      w.posOf slot = some pos → w.run.state = 1 → (w.slot slot).launched = false →
      (∀ k ∈ (PS.tones w.running).take pos, (w.slot k).launched = true) → l ≤ w.now → w.run.stopMode = none →
      let disp := w.displaced slot w.run.shot
      let job : ShotJob :=
        { shot := w.run.shot, pos := pos, launch := l, boundary := w.run.boundary, origin := 0, subst := false,
          displaced := disp, ovr := false, epoch := w.pce.resets, tileEpoch := w.pce.tileEpoch, ps := w.running, bins := 0,
          corr := w.recv.corr, ivl := w.ivlNow w.running,
          ivlLast := (w.run.groups - w.pce.ivlGroup) % PS.evalLen w.running + 1 == PS.evalLen w.running }
      let v := (w.modPce fun p => { p with jobs := modAt (fun js => js ++ [job]) p.jobs slot }).modSlot slot fun x =>
        { x with launched := true, launch := l, shot := w.run.shot, window := !disp, ps := w.running }
      (disp = true → exec (.toneLaunch t slot) s = .next v) ∧
      (disp = false → exec (.toneLaunch t slot) s = .next
        ((((v.count K.synthClipCount (v.pulseCodes w.running slot l).2.2).modRun fun r =>
          { r with
            modgate := addGate (nsT 10)
              (gateOf w.running l (PS.g w.running K.synthModLeadNs) (PS.g w.running K.synthModLagNs)) r.modgate,
            soagate := addGate 0
              (gateOf w.running l (PS.g w.running K.synthSoaLeadNs) (PS.g w.running K.synthSoaLagNs)) r.soagate,
            wave := some ((v.pulseCodes w.running slot l).1, (v.pulseCodes w.running slot l).2.1) }).perfEvent
          0x0301 slot 0xFF 1).tiuEdge 9 l))) ∧
  (∀ (s : State) (t : Tick),
    let w := (s.advance t).tiuEdge 8 (s.advance t).now
    ∃ u, exec (.launchMonCrossing t) s = .next u ∧ u = { w with run := { w.run with slots := u.run.slots } } ∧
      u.run.slots.length = w.run.slots.length ∧
      ∀ k < 8, k < w.run.slots.length →
        (∀ l ps, w.windowLaunch k = some (l, ps) → inWindow ps l w.now = true →
          u.slot k = (match (w.slot k).crossing with
            | none => { w.slot k with crossing := some (launchOffset ps l w.now) }
            | some _ => { w.slot k with extra := true })) ∧
        ((∀ l ps, w.windowLaunch k = some (l, ps) → inWindow ps l w.now = false) → u.slot k = w.slot k)) ∧
  (∀ (s : State) (t : Tick) (slot : Nat),
    let w := s.advance t
    let x := w.slot slot
    let n := PS.g x.ps K.synthOriginAvgLog2
    x.window = true →
    x.launch + psT (PS.g x.ps K.synthLaunchPathPs) + nsT (PS.g x.ps K.synthLaunchWindowNs) ≤ w.now →
    let v := w.modSlot slot fun x => { x with window := false, crossing := none, extra := false }
    (∀ o, x.crossing = some o → x.extra = false →
      let offs := (o :: x.offsets).take 1024
      exec (.launchWindowEnd t slot) s = .next
        (((v.modSlot slot fun x => { x with offsets := offs, substRun := 0, substRaised := false }).modRun fun r =>
          { r with lastOffset := o }).setOrigin slot x.shot (if n = 0 then o else meanOffset n offs) false)) ∧
    ((x.crossing = none ∨ x.extra = true) →
      let u := ((v.bump K.synthLaunchSubstCount).setOrigin slot x.shot (if n = 0 then 0 else meanOffset n x.offsets)
        true).modSlot slot fun x => { x with substRun := x.substRun + 1 }
      exec (.launchWindowEnd t slot) s = .next
        (if 16 ≤ x.substRun + 1 ∧ x.substRaised = false then
          (u.modSlot slot fun x => { x with substRaised := true }).health 7 slot 0 0xFF
        else u)))

/-- ILK_N_FALL of 2 ns or longer trips the interlock, or, where the latch is set already, only says since when the pin is
low; a shorter one trips it or not. A trip sets the latch, ends the run, cuts the gates and darkens every emitter channel:
each output code is 0 with no ramp, no loop and nothing waiting (R94 to R96 and R114). -/
def Obligations.InterlockTripDarkens : Prop :=
  (∀ (s : State) (t : Tick) (low : Option Nat), (∀ n ∈ low, 2000 ≤ n) →
    let w := s.advance t
    let v : State := { w with ilk := { w.ilk with highAt := low.map (fun n => w.now + psT n) } }
    (s.ilk.latched = false → exec (.ilkNFall t low) s = .next v.ilkTrip) ∧
    (s.ilk.latched = true → exec (.ilkNFall t low) s = .next v)) ∧
  (∀ (s : State) (t : Tick) (n : Nat), n < 2000 →
    let w := s.advance t
    let v : State := { w with ilk := { w.ilk with highAt := some (w.now + psT n) }, fresh := w.fresh + 1 }
    exec (.ilkNFall t (some n)) s = .next (if w.freeBit = true ∧ s.ilk.latched = false then v.ilkTrip else v)) ∧
  (∀ (s : State) (t : Tick) (low : Option Nat), (∀ n ∈ low, 2000 ≤ n) → s.ilk.latched = false →
    s.emit.chans.length = 6 →
    ∃ u, exec (.ilkNFall t low) s = .next u ∧ u.ilk.latched = true ∧ u.prot = s.prot ∧ u.pending = s.pending ∧
      ∀ c < 6, (u.ch c).code = 0 ∧ (u.ch c).ramp = none ∧ (u.ch c).waiting = none ∧ (u.ch c).loopClosed = false)

/-- A Raman launch that is due and falls after the record in progress opens the next record and counts it; a full
accumulation passes to the ratio stage with its coil temperature; the ratio stage empties its buffer (R87, R88, R188 to
R193, R195 and R196). -/
def Obligations.RamanCommandsComplete : Prop :=
  (∀ (s : State) (t : Tick) (rma rms : List Int),
    let w := (s.advance t).ramanTake
    let n := w.therm.records.getD 0
    let cells := w.p K.thermRamanCells
    let width := 2 ^ w.p K.thermRamanCellLog2
    let opened : RamanRec :=
      { start := w.now + nsT (w.p K.thermRamanPathNs), rma := (rma.take (cells * width)).map (satI 14),
        rms := (rms.take (cells * width)).map (satI 14), cells := cells, width := width, taken := 0, sums := true }
    w.ilk.latched = false → w.bench = false → w.p K.synthRamanMode ≠ 0 → w.p K.thermSections ≠ 0 → w.ramanDue = true →
    w.run.state ≠ 1 → w.therm.recordEnd ≤ w.now → n < 2 ^ w.p K.thermRamanAccLog2 →
    let v := w.modRun fun r => { r with rmngate := ((w.now, w.now + nsT (w.p K.synthRamanPulseNs)) :: r.rmngate).take 4 }
    let v := v.modTherm fun h =>
      { h with lastLaunch := some w.now, recordEnd := w.now + PS.recordT w.running, measuring := v.measuring }
    v.measuring = true →
    exec (.ramanLaunch t rma rms) s = .next
      ((v.modTherm fun h => { h with records := some (v.therm.records.getD 0 + 1), record := some opened }).perfEvent
        0x0202 0xFF 0xFF 1)) ∧
  (∀ (s : State) (t : Tick) (n : Nat),
    let w := (s.advance t).ramanTake
    w.therm.records = some n → 2 ^ w.p K.thermRamanAccLog2 ≤ n → w.therm.recordEnd ≤ w.now → w.measuring = true →
    exec (.ramanAccumulationComplete t) s = .next
      { w with therm := { w.therm with
          records := none, accAs := [], accS := [], accAsOvr := [], accSOvr := [],
          ready := some { as := w.therm.accAs, s := w.therm.accS, asOvr := w.therm.accAsOvr, sOvr := w.therm.accSOvr,
                          stop := w.devRound w.therm.recordEnd, coil := w.coilUse.map (·.1),
                          held := match w.coilUse with
                                  | some v => v.2
                                  | none => false,
                          gi := w.p K.pceGroupIndex },
          coilExpired := if w.coilNow.isSome && w.therm.lcLost.isNone then false else w.therm.coilExpired } }) ∧
  (∀ (s : State) (t : Tick) (acc : RamanAcc),
    let w := s.advance t
    w.therm.ready = some acc →
    ∃ u, exec (.ramanRatioDone t) s = .next u ∧ u.therm.ready = none ∧ u = { w with therm := u.therm, fresh := u.fresh })

/-! Emitter drive. -/

/-- Every 1 ms each channel drives the code of R100 to R109: 0 and nothing under way where it may not carry current, the
ramp's value, its held code while a ramp waits, 0 where it is disabled or has not risen, the loop's code, or its capped
setpoint; nothing but the channels changes. Then a ramp that waited and need not any more starts, and where none waits that
is all (R100 to R102, R104 to R107 and R109). -/
def Obligations.EmitUpdateDrivesCodes : Prop :=
  ∀ (s : State) (t : Tick),
    let w := s.advance t
    ∃ u, exec (.emitUpdate t) s = .next u.releaseRamps ∧ u = { w with emit := { w.emit with chans := u.emit.chans } } ∧
      u.emit.chans.length = w.emit.chans.length ∧
      ((∀ c < 6, (w.ch c).waiting = none) → exec (.emitUpdate t) s = .next u) ∧
      ∀ c < 6, c < w.emit.chans.length →
        (w.forcedDark c = true → u.ch c = darkCh w.now (w.ch c)) ∧
        (w.forcedDark c = false → ∀ r, (w.ch c).ramp = some r →
          u.ch c = { w.ch c with code := w.capCode c (r.at w.now) }) ∧
        (w.forcedDark c = false → (w.ch c).ramp = none →
          ((w.ch c).waiting.isSome = true → u.ch c = { w.ch c with code := w.capCode c (w.ch c).hold }) ∧
          ((w.ch c).waiting = none → w.enabled c = false ∨ (w.ch c).risen = false → u.ch c = { w.ch c with code := 0 }) ∧
          ((w.ch c).waiting = none → w.enabled c = true → (w.ch c).risen = true →
            ((w.ch c).loopClosed = true →
              u.ch c = { w.ch c with code := min (rdiv (w.ch c).integ 65536) (w.loopLimit c) }) ∧
            ((w.ch c).loopClosed = false → u.ch c = { w.ch c with code := w.capCode c (w.setpoint c) })))

/-- A ramp that has run ends at its target, the channel has risen or fallen, and ramps that waited for it start; a power
loop closes on the code being driven; a clamp and a loss of power are told after 100 ms (R104 to R108). -/
def Obligations.RampAndLoopCommandsComplete : Prop :=
  (∀ (s : State) (t : Tick) (c : Nat) (r : Ramp),
    let w := s.advance t
    (w.ch c).ramp = some r → r.start + r.dur ≤ w.now →
    exec (.rampEnd t c) s = .next
      ((w.modCh c fun x =>
        { x with code := w.capCode c r.target, ramp := none, risen := w.enabled c, rampEndAt := r.start + r.dur,
                 closeAt := if w.enabled c && bit (w.p K.emitLoopMode) c then some (r.start + r.dur + msT 10)
                            else none }).releaseRamps)) ∧
  (∀ (s : State) (t : Tick) (c : Nat) (a : Tick),
    let w := s.advance t
    (w.ch c).closeAt = some a → a ≤ w.now → (w.ch c).ramp = none → w.lit c = true → bit (w.p K.emitLoopMode) c = true →
    exec (.loopClose t c) s = .next
      (w.modCh c fun x => { x with loopClosed := true, closeAt := none, integ := x.code * 65536 })) ∧
  (∀ (s : State) (t : Tick) (c : Nat) (a : Tick),
    let w := s.advance t
    (w.ch c).clampSince = some a → a + msT 100 ≤ w.now → (w.ch c).clampRaised = false → c ∈ w.loopChans (mpdOf c) →
    exec (.powerClamp t c) s = .next
      ((w.modCh c fun x => { x with clampRaised := true, clampClear := none }).emitter 7 c 0 (w.ch c).code)) ∧
  (∀ (s : State) (t : Tick) (c : Nat) (a : Tick),
    let w := s.advance t
    (w.ch c).lowSince = some a → a + msT 100 ≤ w.now → (w.ch c).lostRaised = false → c ∈ w.loopChans (mpdOf c) →
    exec (.powerLost t c) s = .next
      ((w.modCh c fun x => { x with lostRaised := true, lostClear := none }).emitter 8 c 0 (nth 0 w.emit.mpd (mpdOf c)))) ∧
  (∀ (s : State) (t : Tick) (mpd : List Nat),
    let w := s.advance t
    let v := w.modEmit fun e => { e with mpd := (List.range 4).map (fun m => mpdClamp (nth 0 mpd m)) }
    exec (.powerLoop t mpd) s = .next ((((v.loopRun 0 (mpdClamp (nth 0 mpd 0))).loopRun 1 (mpdClamp (nth 0 mpd 1))).loopRun 2
      (mpdClamp (nth 0 mpd 2))).loopRun 3 (mpdClamp (nth 0 mpd 3))))

/-- The pump thermistor's conversion is asked for, its failure holds both pumps dark, and its return lets the enabled ones
rise; the wavelength loop takes its ratio and lock is told after 1 s within tolerance; the APD bias follows its setting and
is cut where its thermistor is silent (R109 to R113, R126 and R127). -/
def Obligations.ThermistorAndBiasCommandsComplete : Prop :=
  (∀ (s : State) (t : Tick),
    let w := s.advance t
    w.modValid 1 = true → exec (.pumpThRequest t) s = .next (w.inject 1 (w.p K.emitPumpThAin) pumpCfg false)) ∧
  (∀ (s : State) (t : Tick),
    let w := s.advance t
    w.modValid 1 = true → w.instRuns = true → w.emit.pumpFailed = false → w.emit.pumpGood + msT 100 ≤ w.now →
    exec (.thermistorFault t) s = .next
      (((w.modEmit fun e => { e with pumpFailed := true, pumpGoodSince := none }).dark [2, 3]).emitter 11 0xFF 0 0)) ∧
  (∀ (s : State) (t : Tick) (a : Tick),
    let w := s.advance t
    w.emit.pumpGoodSince = some a → w.emit.pumpFailed = true → a + secT 1 ≤ w.now → w.now < w.emit.pumpGood + msT 100 →
    let v := w.modEmit fun e => { e with pumpFailed := false }
    exec (.pumpReturn t) s = .next (v.rampSet ([2, 3].filter v.lit) true)) ∧
  (∀ (s : State) (t : Tick) (wla wlb : Nat),
    let w := s.advance t
    w.wlRuns = true → 0 < wla + wlb →
    let r := min 65535 (rdiv (wla * 65536) (wla + wlb))
    ∃ (duty integ : Int), -((if w.modValid 0 then w.recF 0 44 2 else 0 : Nat) : Int) ≤ duty ∧
      duty ≤ ((if w.modValid 0 then w.recF 0 44 2 else 0 : Nat) : Int) ∧
      (let v := { w with emit := { w.emit with wlRatio := r, tec0 := duty, wlInteg := integ }, fresh := w.fresh + 3 }
       exec (.wlLoop t wla wlb) s = .next
        (if (r - w.wlTarget) + (w.wlTarget - r) ≤ w.p K.emitWlLockTol then
          { v with emit := { v.emit with wlSince := match v.emit.wlSince with | some a => some a | none => some v.now } }
         else v.wlDrop))) ∧
  (∀ (s : State) (t : Tick) (a : Tick),
    let w := s.advance t
    w.emit.wlSince = some a → a + secT 1 ≤ w.now → w.emit.wlLocked = false → w.wlRuns = true →
    exec (.wlLock t) s = .next ((w.modEmit fun e => { e with wlLocked := true }).emitter 10 0xFF 0 w.emit.wlRatio)) ∧
  (∀ (s : State) (t : Tick),
    let w := s.advance t
    (∀ a ∈ w.emit.apdSetAt, a + secT 1 ≤ w.now) →
    exec (.apdBiasUpdate t) s = .next
      ((w.modEmit fun e => { e with apdSetAt := some w.now, apdBias := [w.apdWant 0, w.apdWant 1] }).inject 2
        (w.p K.recvApdThAin) apdCfg false)) ∧
  (∀ (s : State) (t : Tick),
    let w := s.advance t
    w.instRuns = true → w.emit.apdCut = false → w.emit.apdGood + secT 3 ≤ w.now →
    exec (.apdBiasCut t) s = .next w.apdDrop)

/-- A module that is drawn leaves its record, its channels go dark and lose their enable bits, and the event is told; one
that is inserted is read where discovery runs; a record that is read is judged VALID or INVALID with its reason, and a bus
that hangs counts as NACK (R115 to R121 and R506). -/
def Obligations.ModuleCommandsComplete : Prop :=
  (∀ (s : State) (t : Tick) (pos : Nat),
    let w := s.advance t
    (w.modl pos).present = true →
    ((w.modl pos).state = 0 → exec (.moduleRemoved t pos) s = .next (w.modModule pos fun m => { m with present := false })) ∧
    ((w.modl pos).state ≠ 0 → exec (.moduleRemoved t pos) s = .next (w.ilkFirst.moduleGone pos)) ∧
    ((∀ low, Instr.ilkNFall w.now low ∉ w.pending) → w.ilkFirst = w)) ∧
  (∀ (s : State) (t : Tick) (pos : Nat),
    let w := s.advance t
    (w.modl pos).present = false →
    exec (.moduleInserted t pos) s = .next
      (w.modModule pos fun m => { m with present := true, state := if w.discovers then 1 else 0 })) ∧
  (∀ (s : State) (t : Tick) (pos : Nat) (one two : Option (List Byte)),
    let w := s.advance t
    (w.modl pos).state = 1 →
    (cacheOf one two = none → exec (.moduleRecordRead t pos one two) s = .next (w.moduleJudged pos 1 [])) ∧
    (∀ r, cacheOf one two = some r →
      exec (.moduleRecordRead t pos one two) s = .next (w.moduleJudged pos (recordReason pos r) r))) ∧
  (∀ (s : State) (t : Tick) (bus p : Nat),
    let w := s.advance t
    [2 * bus, 2 * bus + 1].find? (fun p => (w.modl p).state == 1) = some p →
    exec (.i2cSclTimeout t bus) s = .next (w.moduleJudged p 1 []))

/-! Calibration and self-test. -/

/-- The tracker dates missing pilots and, where it does not hold, makes new corrections of the enabled lanes and, with
transmit pilots on, of the synthesiser (at once, or at the next boundary while shots launch) or, past its limit, holds and
asks for a calibration; a pilot missing for 100 ms holds it and is told; a die temperature past its delta and a retry that
is due ask for a calibration (R129 to R132, R136 and R137). -/
def Obligations.TrackerAndCauseCommandsComplete : Prop :=
  (∀ (s : State) (t : Tick) (rx : List (List (Int × Int))) (tx : Int × Int) (found : Nat),
    let w := s.advance t
    w.rxPilotsOn = true → 3 ≤ w.clk.mode →
    let v := w.modRecv fun r =>
      { r with pilotMiss := (List.range 7).map (fun b =>
                 if bit found b then none else match nth none r.pilotMiss b with | some a => some a | none => some w.now),
               pilotRaised := (List.range 7).map (fun b => nth false r.pilotRaised b && !bit found b) }
    let far := w.lanes.any (fun l => (nth [] rx l).any (fun (e : Int × Int) =>
      decide ((w.p K.calTrackLimitMdb : Int) < (e.1.natAbs : Int)) ||
        decide ((w.p K.calTrackLimitMdb : Int) * 1000000 < (e.2.natAbs : Int) * 8686)))
    let cs := (w.rxCorrs rx, if w.txPilotsOn = true then (-tx.1, -tx.2) else w.recv.corr.tx)
    (w.recv.trackHeld = true → exec (.trackerUpdate t rx tx found) s = .next v) ∧
    (w.recv.trackHeld = false → far = true → exec (.trackerUpdate t rx tx found) s = .next
      ((v.modRecv fun r => { r with trackHeld := true, corrNext := none }).calCause 5)) ∧
    (w.recv.trackHeld = false → far = false → w.shots = true → exec (.trackerUpdate t rx tx found) s = .next
      (v.modRecv fun r => { r with corrNext := some cs })) ∧
    (w.recv.trackHeld = false → far = false → w.shots = false → exec (.trackerUpdate t rx tx found) s = .next
      (v.modRecv fun r => { r with corr := { r.corr with rx := cs.1, tx := cs.2 }, corrNext := none }))) ∧
  (∀ (s : State) (t : Tick) (b : Nat) (a : Tick),
    let w := s.advance t
    nth none w.recv.pilotMiss b = some a → a + msT 100 ≤ w.now → nth false w.recv.pilotRaised b = false →
    w.rxPilotsOn = true → 3 ≤ w.clk.mode →
    exec (.pilotLost t b) s = .next
      (((w.modRecv fun r => { r with trackHeld := true, corrNext := none,
                                     pilotRaised := modAt (fun _ => true) r.pilotRaised b }).health 5 b 0 0xFF).calCause 5)) ∧
  (∀ (s : State) (t : Tick) (temp : Int),
    let v := (s.advance t).modRecv fun r => { r with dieTemp := temp }
    let far := decide ((v.p K.calTempDelta : Int) < ((temp - v.recv.lastTemp).natAbs : Int))
    (far = true → 3 ≤ v.clk.mode → exec (.calTempCheck t temp) s = .next (v.calCause 4)) ∧
    (far = false ∨ v.clk.mode < 3 → exec (.calTempCheck t temp) s = .next v)) ∧
  (∀ (s : State) (t : Tick) (a : Tick),
    let w := s.advance t
    w.recv.retryAt = some a → a ≤ w.now →
    exec (.calRetry t) s = .next ((w.modRecv fun r => { r with retryAt := none }).calCause 6))

/-- A calibration step that was placed runs at its span, or 50 µs after the last while no shots launch and the gates are
low, and is judged; the run ends when every step is done and its reference has arrived, and fails with reason 8 where that
is missing 500 ms later; a self-test step runs the same way, keeps its first failure, and the test ends with its response
(R133 to R135, R139, R142 and R143). -/
def Obligations.CalibrationStepsComplete : Prop :=
  (∀ (s : State) (t : Tick) (level : List Int) (c : CalRun),
    let w := s.advance t
    w.recv.cal = some c →
    let fail := if c.fail = 0 then w.stepFail (c.done % 8) level else c.fail
    let step := fun (c : CalRun) => (w.modRecv fun r =>
      { r with cal := some { c with done := c.done + 1, lastStep := some w.now, fail := fail } }).perfEvent 0x0302 0xFF 0xFF 1
    (∀ x rest, c.placed = x :: rest → x + nsT 3000 ≤ w.now →
      exec (.calStep t level) s = .next (step { c with placed := rest })) ∧
    (c.placed = [] → w.shots = false → w.gatesQuiet = true → c.done < c.steps → c.paced + usT 50 ≤ w.now →
      exec (.calStep t level) s = .next (step { c with paced := w.now, waits := 0 }))) ∧
  (∀ (s : State) (t : Tick) (resid : CalResid) (c : CalRun),
    let w := s.advance t
    w.recv.cal = some c → c.steps ≤ c.done → c.refCode.isSome = true →
    exec (.calRunEnd t resid) s = .next (w.calFinish c (calJudge c resid w.lanes))) ∧
  (∀ (s : State) (t : Tick) (c : CalRun) (a : Tick),
    let w := s.advance t
    w.recv.cal = some c → c.lastStep = some a → c.steps ≤ c.done → c.refCode = none → a + msT 500 ≤ w.now →
    exec (.refdivTimeout t) s = .next (w.calFinish c (calFail 8 15 15))) ∧
  (∀ (s : State) (t : Tick) (m : Blotter) (x : SelfTest) (item left : Nat) (rest : List (Nat × Nat)),
    let w := s.advance t
    w.recv.selftest = some x → x.items = (item, left) :: rest →
    let step := fun (x : SelfTest) =>
      let pass := w.blotterPass item m && (!(decide (left ≤ 1) && decide (item < 0x0100) && item % 16 == 4) || phaseStable (m.phase :: x.phases))
      let failed := if pass then x.failed else match x.failed with | some f => some f | none => some item
      let y := if left ≤ 1 then { x with items := rest, ran := x.ran + 1, failed := failed, waits := 0, phases := [] }
        else { x with items := (item, left - 1) :: rest, failed := failed, phases := m.phase :: x.phases }
      let v := (w.modRecv fun r => { r with selftest := some y }).perfEvent 0x0302 0xFF 0xFF 1
      if x.kind = 1 then v.apdApply else v
    (∀ p more, x.placed = p :: more → p + nsT 3000 ≤ w.now →
      exec (.blotterStep t m) s = .next (step { x with placed := more })) ∧
    (x.placed = [] → w.shots = false → w.gatesQuiet = true → x.paced + usT 50 ≤ w.now →
      exec (.blotterStep t m) s = .next (step { x with paced := w.now }))) ∧
  (∀ (s : State) (t : Tick) (x : SelfTest),
    let w := s.advance t
    w.recv.selftest = some x → x.items = [] → exec (.selftestEnd t) s = .next (w.testFinish x x.failed))

/-! The signal chain. -/

/-- Converter samples that come reach the channeliser; where the next block of a slot's oldest shot is then due, it is
compressed, combined and added to the shot's line, the bins it makes ready are walked, the shot leaves the engine with its
last sample, and the group's last tone completes the group's stitching; where none is due, that is all (R125, R128, R150,
R152, R153, R155, R157, R158, R160, R161, R168 and R169). -/
def Obligations.PceBlockCompletes : Prop :=
  ∀ (s : State) (t : Tick) (slot start : Nat) (codes : List LaneCodes),
    let w := (s.advance t).takeCodes start codes
    (nth [] w.pce.jobs slot = [] → exec (.pceBlockProcessed t slot start codes) s = .next w) ∧
    (∀ j js, nth [] w.pce.jobs slot = j :: js → w.blockDue slot j = false →
      exec (.pceBlockProcessed t slot start codes) s = .next w) ∧
    (∀ j js, nth [] w.pce.jobs slot = j :: js → w.blockDue slot j = true →
      let line := nth [] w.pce.lines slot
      let o := j.origin0
      let q := (originSplit o.2.2).1
      let r := (originSplit o.2.2).2
      let need := PS.samplesNeeded j.ps q o.2.1
      let stop := PS.segEnd j.ps q o.2.1
      let count := min (PS.blockOut j.ps) (need - line.length)
      let xs := (List.range 4096).map (fun i => w.recv.stream slot ((o.1 : Int) + q + (line.length + i : Nat)).toNat)
      let x := compress j.ps r line.length count w.fresh stop (xs.map (·.1))
      let y := compress j.ps r line.length count (w.fresh + 2 * count) stop (xs.map (·.2))
      let v := ({ w with fresh := w.fresh + 4 * count }).count K.pceSatCount
        ((if PS.polOn j.ps 0 then x.2 else 0) + (if PS.polOn j.ps 1 then y.2 else 0))
      let v := if PS.polOn j.ps 0 then v.perfEvent 0x0401 (2 * slot) 0xFF 1 else v
      let v := if PS.polOn j.ps 1 then v.perfEvent 0x0401 (2 * slot + 1) 0xFF 1 else v
      let line := line ++ x.1.zip y.1
      let mode := PS.g j.ps K.pceSpatialMode
      let at_ := fun (n : Nat) => (binOf mode (line.map (·.1)).toArray stop n, binOf mode (line.map (·.2)).toArray stop n)
      let ready := PS.binsReady j.ps line.length need
      let done := decide (need ≤ line.length)
      let v := (v.walkShot j slot j.bins ready at_ 4096).ivlStep j ready
      let v := v.modPce fun p =>
        { p with lines := modAt (fun _ => if done then [] else line) p.lines slot,
                 jobs := modAt (stepJobs done ready) p.jobs slot }
      exec (.pceBlockProcessed t slot start codes) s = .next
        (if done && j.pos + 1 == PS.nTones j.ps then v.groupStitched j else v))

/-- Of every defined zone whose last bin has its interval's last sample the interval is judged, after the profiles that are
complete, and the modes are planned; a complete profile is evaluated; a row leaves the elastic buffer for its tile; a tile
that is due closes; the closed tile's bytes reach the engine's buffer; a bank's fade ends (R181 to R183, R212 to R216,
R227, R269 and R302). -/
def Obligations.TileAndProfileCommandsComplete : Prop :=
  (∀ (s : State) (t : Tick),
    let w := s.advance t
    let due := fun (bins ivl : Nat) => w.definedZones.filter fun z =>
      match (w.zone z).desc with
      | some d => decide ((w.zone z).ivlNext ≤ ivl) && decide ((PS.zoneBins w.running d).2 < bins)
      | none => false
    (w.pce.ivlProg = none → exec (.stitchEvaluation t) s = .next w) ∧
    (∀ ivl bins time, w.pce.ivlProg = some (ivl, bins, time) →
      (due bins ivl = [] → exec (.stitchEvaluation t) s = .next w) ∧
      (due bins ivl ≠ [] → exec (.stitchEvaluation t) s = .next
        ((due bins ivl).foldl (fun (z : State) k => match (z.zone k).desc with | some d => z.evalZone k d ivl time | none => z)
          (w.profilesAll w.prof.ready.length)).planModes))) ∧
  (∀ (s : State) (t : Tick) (time : Nat) (p : List Nat) (rest : List (Nat × List Nat)),
    let w := s.advance t
    w.prof.ready = (time, p) :: rest →
    exec (.amplitudeProfileComplete t) s = .next ((w.modProf fun x => { x with ready := rest }).profileDone time p)) ∧
  (∀ (s : State) (t : Tick) (r : Row) (rest : List Row),
    let w := s.advance t
    w.sill.elastic = r :: rest → PS.freshSlots w.running ≠ 0 → 3 ≤ w.clk.mode →
    let v := (w.sill.openTiles.filter (fun y => y.group == r.group && !y.joins r)).foldl
      (fun (z : State) y => z.closeTile y (y.samples < 256)) w
    let u := v.modSill fun x => { x with elastic := rest }
    (v.sill.openTiles.any (fun y => y.takes r) = true → exec (.rowWrite t) s = .next (u.putRow r)) ∧
    (v.sill.openTiles.any (fun y => y.takes r) = false → v.slotFree v.nextFresh = true →
      exec (.rowWrite t) s = .next ((u.openTile r).putRow r)) ∧
    (v.sill.openTiles.any (fun y => y.takes r) = false → v.slotFree v.nextFresh = false → exec (.rowWrite t) s = .next v)) ∧
  (∀ (s : State) (t : Tick) (group : Nat) (y : Tile),
    let w := s.advance t
    w.sill.openTiles.find? (fun y => y.group == group && w.tileDue y) = some y →
    exec (.tileClose t group) s = .next (w.closeTile y (y.samples < 256))) ∧
  (∀ (s : State) (t : Tick) (engine p q : Nat) (y : Tile),
    let w := s.advance t
    (w.eng engine).nextArchive = some (p, q) → (w.eng engine).buffer = none → engine < 2 → w.domainRuns 6 = true →
    w.sill.closed.find? (fun y => y.pos == p && y.seq == q && !y.read) = some y →
    ∀ r, w.deliverTile y = r →
    exec (.tileRead t engine) s = .next
      ((r.1.modEng engine fun e => { e with buffer := some (p, q), bufData := r.2, bufTile := some y }).modClosed p
        fun y => { y with read := true })) ∧
  (∀ (s : State) (t : Tick),
    let w := s.advance t
    w.sill.bankFading = true → w.banksDone = true →
    let v := w.modSill fun x => { x with bankFading := false, bankPending := false, fadeTo := some x.fadeLast }
    exec (.bankFadeEnd t) s = .next (if w.sill.bankPending then v.bankRequest w.sill.bankNext else v))

/-- The oldest complete base interval of a set reaches the base note, in order as far as protection grants it, its
followers and the watchers; a tile's columns reach their slice; a slice's output descriptor is carried out by its kind, or
faults the slice; a class record becomes an event of its zone (R221, R229 to R231, R242 to R245, R247, R252 and R253). -/
def Obligations.SliceDataCommandsComplete : Prop :=
  (∀ (s : State) (t : Tick) (set : Nat) (b : BandSet) (ivl : BaseIvl) (rest : List BaseIvl),
    let w := s.advance t
    let home := PS.homeSlice w.running set
    ((w.slc home).sets.find? (fun e => e.1 == set)).map (·.2) = some b → b.due = ivl :: rest → w.active = true →
    (w.slc home).bandRuns = true →
    let v := w.modSlc home fun z => { z with sets := aput set { b with due := rest } z.sets }
    let write := fun (acc : State × Bool) (r : Reduction) =>
      let z := acc.1
      if acc.2 then acc
      else if (z.baseMoved (ivl.dead r.kind) r.channel r.kind r.value (redHi r ivl.cons)).isSome && z.baseRefused then
        ((z.protFault mSlice z.baseRoom.baseAt).sliceFault home 2, true)
      else (z.baseWrite mSlice (ivl.dead r.kind) ivl.time r.channel r.kind r.value (redHi r ivl.cons), false)
    exec (.baseRecordsDelivered t set) s = .next
      (((ivl.reds.foldl write (v, false)).1.followBase home (v.baseCopies ivl)).deliverReds set ivl.time ivl.last ivl.reds)) ∧
  (∀ (s : State) (t : Tick) (sl k : Nat) (im : Image) (y : SliceTile),
    let w := (s.advance t).woken [5, 6]
    let x := w.slc sl
    (idxWhere (fun y => !y.ready || y.colsIn < y.cols) x.tiles).head? = some k → x.image = some im → x.status = 2 →
    x.tiles[k]? = some y →
    let used := (x.tiles.filter (·.ready)).map (·.hdrSlot)
    (y.ready = true → exec (.tileDma t sl) s = .next (w.dmaColumns sl k 64)) ∧
    (∀ r, y.ready = false → y.read = some r → used.length < 2 →
      let slot := if used.contains 0 then 1 else 0
      let v := if im.supplied then w
        else w.modSlc sl fun x => { x with dmem := Memory.writeBytes x.dmem (im.hdrBase + 1024 * slot) r.1 }
      let v := v.modTileAt sl k fun y =>
        { y with ready := true, hdrSlot := slot, inPos := (v.slc sl).inNext,
                 startCycle := if k == 0 then (v.slc sl).cycles else y.startCycle,
                 startAt := if k == 0 then v.now else y.startAt }
      exec (.tileDma t sl) s = .next (v.dmaColumns sl k 64))) ∧
  (∀ (s : State) (t : Tick) (sl : Nat) (d : OutDesc) (rest : List OutDesc),
    let w := s.advance t
    (w.slc sl).outQ = d :: rest → (w.slc sl).status = 2 →
    let addr := fld d.bytes 0 4 / 4 * 4
    let count := fld d.bytes 4 2
    let ch := fld d.bytes 8 4
    let len := count * (match fld d.bytes 6 1 with | 0 => 4 | 1 => 16 | 2 => 8 | _ => 1)
    let v := w.modSlc sl fun x => { x with outQ := rest }
    let data := Memory.readBytes (v.slc sl).dmem addr len
    (dmemTop < addr + len → exec (.outputDmaComplete t sl) s = .next (v.sliceFault sl 1)) ∧
    (addr + len ≤ dmemTop → fld d.bytes 6 1 = 0 →
      let r := (v.follow sl count 0 ch data).sliceHeart d.tile ch ((cutInto 4 count data).map leNat) d.reset
      exec (.outputDmaComplete t sl) s = .next (if r.2 = true then r.1.sliceFault sl 2 else r.1)) ∧
    (addr + len ≤ dmemTop → fld d.bytes 6 1 = 1 →
      exec (.outputDmaComplete t sl) s = .next
        ((v.follow sl count 1 ch data).pushRecords sl d.tile (cutInto 16 count data))) ∧
    (addr + len ≤ dmemTop → 3 ≤ fld d.bytes 6 1 →
      exec (.outputDmaComplete t sl) s = .next (v.follow sl count (fld d.bytes 6 1) ch data))) ∧
  (∀ (s : State) (t : Tick) (k : Nat) (x : Slice) (d : List Byte) (rest : List (List Byte)),
    let w := s.advance t
    w.slices.tab.find? (fun e => !e.2.evtQ.isEmpty) = some (k, x) → x.evtQ = d :: rest →
    exec (.classRecordMade t) s = .next
      (((((w.profilesAll w.prof.ready.length).stitchEval.modSlc k fun x => { x with evtQ := rest }).bump K.sliceClassSent).zoneRecord
        (fld d 8 2) 8 (fld d 10 1) (fld d 12 4) (fld d 16 4) (fld d 20 4) (fld d 0 8))))

/-! Slice instructions (R239 to R243, R254). Each names the word at the slice's program counter. -/

/-- The register instructions write Gd with the value R239 gives (G0 discards it) and fall through (R233 and R239). -/
def Obligations.SliceRegisterInstructionsComplete : Prop :=
  ∀ (s : State) (t : Tick) (sl : Nat) (w : Word),
    let v := s.advance t
    let x := v.slc sl
    let a := x.g (wA w)
    let b := x.g (wB w)
    let writes := fun (n : Nat) (r : Word) =>
      (Host.Outcome.next (v.sliceDone sl w n (x.setG (wD w) r) (x.pc + 1)) : Host.Outcome State Fault Refusal)
    v.sliceWord sl = some w → x.pc + 1 < x.codeLen →
    (wOp w = 0x00 → exec (.nop t sl) s = .next (v.sliceDone sl w 1 x (x.pc + 1))) ∧
    (wOp w = 0x01 → exec (.add t sl) s = writes 1 (a + b)) ∧
    (wOp w = 0x02 → exec (.sub t sl) s = writes 1 (a - b)) ∧
    (wOp w = 0x03 → exec (.and t sl) s = writes 1 (a &&& b)) ∧
    (wOp w = 0x04 → exec (.or t sl) s = writes 1 (a ||| b)) ∧
    (wOp w = 0x05 → exec (.xor t sl) s = writes 1 (a ^^^ b)) ∧
    (wOp w = 0x06 → exec (.shl t sl) s = writes 1 (a <<< (b.toNat % 32))) ∧
    (wOp w = 0x07 → exec (.shr t sl) s = writes 1 (a >>> (b.toNat % 32))) ∧
    (wOp w = 0x08 → exec (.sra t sl) s = writes 1 (BitVec.sshiftRight a (b.toNat % 32))) ∧
    (wOp w = 0x09 → exec (.mul t sl) s = writes 2 (a * b)) ∧
    (wOp w = 0x0A → exec (.addi t sl) s = writes 1 (a + BitVec.ofInt 32 (sext 18 (wNat w 17 0)))) ∧
    (wOp w = 0x0B → exec (.lui t sl) s = writes 1 (BitVec.ofNat 32 (wNat w 17 0 * 2 ^ 14))) ∧
    (wOp w = 0x0C → exec (.slt t sl) s = writes 1 (if a.toInt < b.toInt then 1 else 0))

/-- Loads and stores use the generator's address before its update, with the low bits taken as 0, and an operand past the
data memory is the slice fault ADDRESS that writes nothing (R235, R239 and R252). -/
def Obligations.SliceLoadsAndStoresComplete : Prop :=
  ∀ (s : State) (t : Tick) (sl : Nat) (w : Word),
    let v := s.advance t
    let x := v.slc sl
    let at_ := (x.ag (wAg w)).addr
    let y := if wUpd w then x.setAg (wAg w) Agen.step' else x
    let done := fun (z : Slice) =>
      (Host.Outcome.next (v.sliceDone sl w 1 z (x.pc + 1)) : Host.Outcome State Fault Refusal)
    v.sliceWord sl = some w → x.pc + 1 < x.codeLen →
    (at_ < 0x28000 →
      (wOp w = 0x10 → exec (.ld t sl) s =
        done (y.setG (wD w) (BitVec.ofNat 32 (leNat (Memory.readBytes x.dmem (at_ / 4 * 4) 4))))) ∧
      (wOp w = 0x11 → exec (.ldh t sl) s =
        done (y.setG (wD w) (BitVec.ofInt 32 (sext 16 (leNat (Memory.readBytes x.dmem (at_ / 2 * 2) 2)))))) ∧
      (wOp w = 0x12 → exec (.st t sl) s =
        done { y with dmem := Memory.writeBytes x.dmem (at_ / 4 * 4) (leBytes 4 (x.g (wD w)).toNat) }) ∧
      (wOp w = 0x13 → exec (.sth t sl) s =
        done { y with dmem := Memory.writeBytes x.dmem (at_ / 2 * 2) (leBytes 2 ((x.g (wD w)).toNat % 65536)) })) ∧
    (0x28000 ≤ at_ →
      (wOp w = 0x10 → exec (.ld t sl) s = .next (v.sliceFault sl 1)) ∧
      (wOp w = 0x11 → exec (.ldh t sl) s = .next (v.sliceFault sl 1)) ∧
      (wOp w = 0x12 → exec (.st t sl) s = .next (v.sliceFault sl 1)) ∧
      (wOp w = 0x13 → exec (.sth t sl) s = .next (v.sliceFault sl 1)))

/-- The multiply-accumulates add or subtract their products exactly and saturate at the lane's or the wide width, raising
the saturation flag; CLR starts from zero. The y address is taken after the x generator's update (R235 to R237 and R239).
-/
def Obligations.SliceMultiplyAccumulatesComplete : Prop :=
  ∀ (s : State) (t : Tick) (sl : Nat) (w : Word),
    let v := s.advance t
    let x := v.slc sl
    let gx := wNat w 23 22
    let gy := wNat w 20 19
    let y := if bit w.toNat 21 then x.setAg gx Agen.step' else x
    let z := if bit w.toNat 18 then y.setAg gy Agen.step' else y
    let vx := (x.word (x.ag gx).addr).toNat
    let vy := (x.word (y.ag gy).addr).toNat
    let k := wNat w 25 24
    let old := if bit w.toNat 16 then 0 else x.acc k
    let term := fun (p : Int) => if bit w.toNat 17 then -p else p
    let done := fun (z : Slice) =>
      (Host.Outcome.next (v.sliceDone sl w 1 z (x.pc + 1)) : Host.Outcome State Fault Refusal)
    v.sliceWord sl = some w → x.pc + 1 < x.codeLen → (x.ag gx).addr < 0x28000 → (y.ag gy).addr < 0x28000 →
    (wOp w = 0x18 →
      let l := accL old + term (sext 16 vx * sext 16 vy)
      let h := accH old + term (sext 16 (vx / 65536) * sext 16 (vy / 65536))
      exec (.macn t sl) s = done { z.setAcc k (mkNarrow (satI 40 h) (satI 40 l)) with
        sat := x.sat || (h != satI 40 h || l != satI 40 l) }) ∧
    (wOp w = 0x19 →
      let r := accW old + term (sext 24 vx * sext 24 vy)
      exec (.macw t sl) s = done { z.setAcc k (mkWide (satI 56 r)) with sat := x.sat || r != satI 56 r })

/-- ACCST stores the shifted, rounded and saturated lanes or wide value; ACCX stores and ACCI loads a 32-bit part of the
accumulator's 80 bits, the value of part 3 being left open (R236, R238 and R239). -/
def Obligations.SliceAccumulatorMovesComplete : Prop :=
  ∀ (s : State) (t : Tick) (sl : Nat) (w : Word),
    let v := s.advance t
    let x := v.slc sl
    let n := wNat w 23 22
    let at_ := (x.ag n).addr
    let y := if bit w.toNat 21 then x.setAg n Agen.step' else x
    let k := wNat w 25 24
    let d := 2 ^ wNat w 20 15
    let part := wNat w 13 12
    v.sliceWord sl = some w → x.pc + 1 < x.codeLen → at_ < 0x28000 →
    (wOp w = 0x1C → bit w.toNat 14 = true →
      let l := rdivAway (accL (x.acc k)) d
      let h := rdivAway (accH (x.acc k)) d
      exec (.accst t sl) s = .next (v.sliceDone sl w 1
        { y.setWord at_ (BitVec.ofNat 32 (uns 16 (satI 16 h) * 65536 + uns 16 (satI 16 l))) with
          sat := y.sat || h != satI 16 h || l != satI 16 l } (x.pc + 1))) ∧
    (wOp w = 0x1C → bit w.toNat 14 = false →
      let r := rdivAway (accW (x.acc k)) d
      exec (.accst t sl) s = .next (v.sliceDone sl w 1
        { y.setWord at_ (BitVec.ofInt 32 (satI 32 r)) with sat := y.sat || r != satI 32 r } (x.pc + 1))) ∧
    (wOp w = 0x1E →
      let a := (x.acc k).toNat
      ∃ out, (part = 0 → out = BitVec.ofNat 32 a) ∧ (part = 1 → out = BitVec.ofNat 32 (a / 2 ^ 32)) ∧
        (part = 2 → out = BitVec.ofInt 32 (sext 16 (a / 2 ^ 64))) ∧
        exec (.accx t sl) s = .next (v.tookFree.sliceDone sl w 1 (y.setWord at_ out) (x.pc + 1))) ∧
    (wOp w = 0x1F →
      let a := (x.acc k).toNat
      let m := (x.word at_).toNat
      ∃ out, (part = 0 → out = a / 2 ^ 32 * 2 ^ 32 + m) ∧
        (part = 1 → out = a / 2 ^ 64 * 2 ^ 64 + m * 2 ^ 32 + a % 2 ^ 32) ∧
        (part = 2 → out = m % 65536 * 2 ^ 64 + a % 2 ^ 64) ∧
        exec (.acci t sl) s = .next (v.tookFree.sliceDone sl w 1 (y.setAcc k (BitVec.ofNat 80 out)) (x.pc + 1)))

/-- Branches compare the two registers and go on at the signed offset behind the instruction in three cycles, else fall
through in one; CALL writes G15 and jumps, RET goes to G15; WAITT and WAITC go on when the tile is there. A place outside
the code is the slice fault CODE, told apart here by the same test of R252 (R239, R243 and R252). -/
def Obligations.SliceBranchesComplete : Prop :=
  ∀ (s : State) (t : Tick) (sl : Nat) (w : Word),
    let v := s.advance t
    let x := v.slc sl
    let a := x.g (wBrA w)
    let b := x.g (wBrB w)
    let dest : Int := (x.pc : Int) + 1 + sext 18 (wNat w 17 0)
    let onward := fun (n : Nat) (p : Nat) =>
      (Host.Outcome.next (v.sliceOn sl w n p) : Host.Outcome State Fault Refusal)
    v.sliceWord sl = some w → x.pc + 1 < x.codeLen →
    (∀ p : Nat, dest = p → p < x.codeLen →
      (wOp w = 0x20 → exec (.beq t sl) s = if a = b then onward 3 p else onward 1 (x.pc + 1)) ∧
      (wOp w = 0x21 → exec (.bne t sl) s = if a = b then onward 1 (x.pc + 1) else onward 3 p) ∧
      (wOp w = 0x22 → exec (.blt t sl) s = if a.toInt < b.toInt then onward 3 p else onward 1 (x.pc + 1)) ∧
      (wOp w = 0x23 → exec (.bge t sl) s = if b.toInt ≤ a.toInt then onward 3 p else onward 1 (x.pc + 1)) ∧
      (wOp w = 0x24 → exec (.jmp t sl) s = onward 3 p) ∧
      (wOp w = 0x25 → exec (.call t sl) s = .next (v.sliceDone sl w 3 (x.setG 15 (BitVec.ofNat 32 (x.pc + 1))) p))) ∧
    ((dest < 0 ∨ (x.codeLen : Int) ≤ dest) → wOp w = 0x24 →
      exec (.jmp t sl) s = .next ((v.sliceCycles sl w 3).sliceFault sl 3)) ∧
    (wOp w = 0x26 → (x.g 15).toNat < x.codeLen → exec (.ret t sl) s = onward 3 (x.g 15).toNat) ∧
    (wOp w = 0x38 →
      (bit x.tileStatus 0 = true → exec (.waitt t sl) s = onward 1 (x.pc + 1)) ∧
      (bit x.tileStatus 0 = false → exec (.waitt t sl) s = .next (v.modSlc sl fun y => { y with waiting := true }))) ∧
    (wOp w = 0x39 →
      ((x.g (wA w)).toNat ≤ x.tileStatus / 65536 → exec (.waitc t sl) s = onward 1 (x.pc + 1)) ∧
      (x.tileStatus / 65536 < (x.g (wA w)).toNat →
        exec (.waitc t sl) s = .next (v.modSlc sl fun y => { y with cycles := y.cycles + 1 })))

/-- REP runs the instruction behind it n times and goes on behind that; MFS reads a special register and MTS writes one,
CYCLE_LO and PERF_LO latch their upper words, COL_FREE frees the oldest columns. Every special register without an effect
of its own reads as listed, any other number 0 (R239 to R241 and R254). -/
def Obligations.SliceRepAndSpecialsComplete : Prop :=
  (∀ (s : State) (t : Tick) (sl : Nat) (w : Word),
      let v := s.advance t
      let x := v.slc sl
      let moved := fun (u : State) (y : Slice) =>
        (Host.Outcome.next (u.sliceDone sl w 1 y (x.pc + 1)) : Host.Outcome State Fault Refusal)
      v.sliceWord sl = some w → x.pc + 1 < x.codeLen →
      (∀ (b : Word) (y : Slice),
        let n := if wD w = 0 then wNat w 15 0 else (x.g (wD w)).toNat % 65536
        wOp w = 0x28 → (x.image.bind fun im => im.code[x.pc + 1]?) = some b → sliceRep v.fresh b n true x = .ok y →
        x.pc + 2 < y.codeLen →
        let u := ({ v with fresh := v.fresh + n }.modSlc sl fun _ => y).sliceCycles sl w (1 + n)
        exec (.rep t sl) s = .next (((u.modSlc sl fun z => { z with hazard := if n == 0 then none else leaves b }).perfEvent
          0x0503 sl 0xFF n).modSlc sl fun z => { z with pc := x.pc + 2, waiting := false })) ∧
      (wOp w = 0x30 → wSpr w ≠ 0x002 → wSpr w ≠ 0x031 →
        exec (.mfs t sl) s = moved v (x.setG (wD w) (x.spr sl (wSpr w)))) ∧
      (wOp w = 0x30 → wSpr w = 0x002 → exec (.cycleLo t sl) s =
        moved v { x.setG (wD w) (BitVec.ofNat 32 x.cycles) with cycleHi := BitVec.ofNat 32 (x.cycles / 2 ^ 32) }) ∧
      (wOp w = 0x30 → wSpr w = 0x031 → exec (.perfLo t sl) s =
        moved v { x.setG (wD w) (BitVec.ofNat 32 (v.perfFor x.perfSel)) with perfLatch := v.perfFor x.perfSel }) ∧
      (wOp w = 0x31 → wSpr w ∉ [0x022, 0x023, 0x024, 0x026] →
        exec (.mts t sl) s = moved v.tookFree (x.setSpr (wSpr w) v.fresh (x.g (wD w)))) ∧
      (wOp w = 0x31 → wSpr w = 0x022 → exec (.colFree t sl) s =
        moved v { x with tiles := freeCols ((x.g (wD w)).toNat % 128) x.tiles })) ∧
  (∀ (x : Slice) (i : Nat),
      x.spr i 0x000 = BitVec.ofNat 32 i ∧
      x.spr i 0x001 = BitVec.ofNat 32 (b2n x.sat + 2 * b2n x.outDrop + 4 * b2n x.evtDrop) ∧
      x.spr i 0x003 = x.cycleHi ∧
      (∀ n, n < 4 → x.spr i (0x010 + 4 * n) = BitVec.ofNat 32 (x.ag n).base ∧ x.spr i (0x011 + 4 * n) = (x.ag n).idx ∧
        x.spr i (0x012 + 4 * n) = (x.ag n).step ∧
        x.spr i (0x013 + 4 * n) = BitVec.ofNat 32 ((x.ag n).len + (x.ag n).mode * 2 ^ 28)) ∧
      x.spr i 0x020 = BitVec.ofNat 32 x.tileStatus ∧
      x.spr i 0x025 = BitVec.ofNat 32 (16 - x.outQ.length) ∧ x.spr i 0x027 = BitVec.ofNat 32 (16 - x.evtQ.length) ∧
      x.spr i 0x028 = x.finHead ∧ x.spr i 0x029 = x.finTail ∧
      (∀ n, 0x033 ≤ n → x.spr i n = 0) ∧ (∀ n, 0x004 ≤ n → n < 0x010 → x.spr i n = 0))

/-- TILE_DONE ends the oldest tile where it is ready; OUT_PUSH and EVT take a descriptor into their queue, or drop it and
count, and one past the data memory is the slice fault ADDRESS (R243, R244, R252 and R253). -/
def Obligations.SliceQueueRegistersComplete : Prop :=
  (∀ (s : State) (t : Tick) (sl : Nat),
    let v := s.advance t
    (s.slc sl).supplied = true → (s.slc sl).status = 2 → bit (s.slc sl).tileStatus 0 = true → s.domainRuns 5 = true →
    exec (.tileDone t sl) s = .next (v.tileComplete sl)) ∧
  ∀ (s : State) (t : Tick) (sl : Nat) (w : Word),
    let v := s.advance t
    let x := v.slc sl
    let a := (x.g (wD w)).toNat % 2 ^ 18
    let d := Memory.readBytes x.dmem a 16
    let e := Memory.readBytes x.dmem a 24
    let onward := fun (u : State) => (Host.Outcome.next (u.sliceOn sl w 1 (x.pc + 1)) : Host.Outcome State Fault Refusal)
    v.sliceWord sl = some w → wOp w = 0x31 → x.pc + 1 < x.codeLen →
    (wSpr w = 0x023 → x.supplied = false → (bit (x.g (wD w)).toNat 0 = false ∨ bit x.tileStatus 0 = false) →
      exec (.tileDone t sl) s = onward v) ∧
    (wSpr w = 0x023 → x.supplied = false → bit (x.g (wD w)).toNat 0 = true → bit x.tileStatus 0 = true →
      exec (.tileDone t sl) s = onward (v.tileComplete sl)) ∧
    (wSpr w = 0x024 →
      (0x28000 < a + 16 → exec (.outPush t sl) s = .next (v.sliceFault sl 1)) ∧
      (a + 16 ≤ 0x28000 → x.outQ.length < 16 → fld d 6 1 ≤ 3 →
        exec (.outPush t sl) s = onward (v.modSlc sl fun y =>
          { y with outQ := y.outQ ++ [{ bytes := d, tile := (y.tiles.head?).map (·.tile),
                                        reset := (y.tiles.head?.map (·.reset)).getD false }] })) ∧
      (a + 16 ≤ 0x28000 → 16 ≤ x.outQ.length ∨ 3 < fld d 6 1 →
        exec (.outPush t sl) s = onward ((v.modSlc sl fun y => { y with outDrop := true }).bump K.sliceOutDropped))) ∧
    (wSpr w = 0x026 →
      (0x28000 < a + 24 → exec (.evt t sl) s = .next (v.sliceFault sl 1)) ∧
      (∀ z, a + 24 ≤ 0x28000 → (v.zone (fld e 8 2)).desc = some z → z.first ≤ fld e 20 4 → fld e 20 4 ≤ z.last →
        fld e 10 1 ≤ 15 → x.evtQ.length < 16 →
        exec (.evt t sl) s = onward (v.modSlc sl fun y => { y with evtQ := y.evtQ ++ [e] })) ∧
      (a + 24 ≤ 0x28000 → (v.zone (fld e 8 2)).desc = none ∨ 15 < fld e 10 1 ∨ 16 ≤ x.evtQ.length →
        exec (.evt t sl) s = onward ((v.modSlc sl fun y => { y with evtDrop := true }).bump K.sliceClassDropped)))

/-! Temperatures, zones, captures and compression. -/

/-- An update brings every section to the whole second and leaves its frame pending; the frame's completion smooths the
sections, judges the zones and sends the ACCORD frame; an expired hold-off re-arms its criterion; the coil is asked and its
held record expires (R195, R196, R201, R204 to R206, R261 and R266 to R268). -/
def Obligations.ThermalAndZoneCommandsComplete : Prop :=
  (∀ (s : State) (t : Tick),
    let w := s.advance t
    let S := w.dev / 1000000000 * 1000000000
    PS.g w.running K.thermSections ≠ 0 → 2 ≤ w.clk.mode → w.therm.accordFrom < S →
    exec (.accordUpdate t) s = .next
      (let up := (List.range (PS.g w.running K.thermSections)).foldl (fun (v : State) sec =>
         let y := (aget {} v.therm.sections sec).update S (PS.g w.running K.thermRamanStaleS) (PS.accordBeta w.running)
           (PS.accordBetaR w.running) (if v.clk.mode == 2 then none else v.sectionShift S sec)
         v.modTherm fun h => { h with sections := aput sec y h.sections }) w
       up.modTherm fun h =>
         { h with updateNo := (h.updateNo + 1) % 2 ^ 32, updateTime := S, accordFrom := S, frameFlags := up.frameFlagsNow,
                  ramanTime := match w.ramanUsed S with
                               | some r => r.stop
                               | none => 0,
                  frameCoil := match w.ramanUsed S with
                               | some r => some r.coil
                               | none => up.coilUse.map (·.1),
                  framePending := true })) ∧
  (∀ (s : State) (t : Tick),
    let w := s.advance t
    let v := ((w.refreshDark.modTherm fun h =>
      { h with framePending := false, frameAt := some w.now,
               sections := h.sections.map fun e => (e.1, e.2.smoothed (w.p K.zoneRiseWindowS)) }).tempAll
                 w.therm.updateTime).refreshDark
    w.therm.framePending = true →
    (v.active = false → exec (.accordFrameComplete t) s = .next v) ∧
    (v.active = true → exec (.accordFrameComplete t) s = .next
      (let u := (List.range (v.p K.thermSections)).foldl (fun (z : State) i =>
         z.baseWrite mSteward (z.deadBand 11) w.therm.updateTime i 11
           (match Section.temp (z.section i) with | some v => uns 32 v | none => 0x80000000)
           (b2n (z.inCons (PS.sectionBin z.running i / 64)) + 2 * ((z.section i).flags % 64))) v
       u.objectOut 1 18 u.therm.updateNo (fun _ => true) u.accordFrame))) ∧
  (∀ (s : State) (t : Tick) (zone crit : Nat) (d : ZoneDesc),
    let w := s.advance t
    (w.zone zone).desc = some d → crit < 6 → w.holdoffOver d (w.crit zone crit) = true →
    exec (.holdoffExpired t zone crit) s = .next (w.modCrit zone crit fun c => { c with st := .idle, cnt := 0 })) ∧
  (∀ (s : State) (t : Tick),
    let w := s.advance t
    (∀ a ∈ w.therm.coilReadAt, a + msT (w.p K.thermCoilReadMs) ≤ w.now) →
    w.therm.coilBusy = false → w.modValid 4 = true → w.coilSensors ≠ 0 → w.instRuns = true →
    exec (.coilRead t) s = .next (w.modTherm fun h =>
      { h with coilBusy := true, coilIdx := 0, coilFirst := none, coilReadAt := some w.now }).coilAsk) ∧
  (∀ (s : State) (t : Tick) (a : Tick),
    let w := s.advance t
    w.coilOutAt = some a → w.therm.coilExpired = false → a + secT (w.p K.thermCoilHoldS) ≤ w.now →
    2 ≤ w.clk.mode →
    exec (.coilHoldExpired t) s = .next ((w.modTherm fun h => { h with coilExpired := true }).health 9 0 2 2))

/-- An edge of its polarity at a trigger input whose level has held for the minimum triggers the slots armed for it, the
star line's outside the pulse the device sends itself; a capture whose window ended becomes SEALING and is sealed when all
it holds has settled or its bound has come (R286, R287, R291 to R294 and R298). -/
def Obligations.CaptureCommandsComplete : Prop :=
  (∀ (s : State) (t : Tick) (n : Nat) (falling : Bool) (edge : Tick) (frac : Nat),
    let w := s.advance t
    n < 4 → 2 ≤ w.clk.mode →
    (falling = bit (w.p K.sillTrigPolarity) n → edge + nsT (w.p K.sillTrigMinNs) ≤ w.now →
      exec (.trigEdge t n falling edge frac) s = .next
        (w.triggerAll n (w.dev16 edge / 65536) (frac % 65536) 0xFFFF 0 false)) ∧
    (falling ≠ bit (w.p K.sillTrigPolarity) n ∨ w.now < edge + nsT (w.p K.sillTrigMinNs) →
      exec (.trigEdge t n falling edge frac) s = .next w)) ∧
  (∀ (s : State) (t edge : Tick) (frac : Nat),
    let w := s.advance t
    2 ≤ w.clk.mode →
    (w.cap.starIgnore ≤ edge → edge + nsT (w.p K.sillTrigMinNs) ≤ w.now →
      exec (.starEdge t edge frac) s = .next (w.triggerAll 4 (w.dev16 edge / 65536) (frac % 65536) 0xFFFF 0 false)) ∧
    (edge < w.cap.starIgnore ∨ w.now < edge + nsT (w.p K.sillTrigMinNs) → exec (.starEdge t edge frac) s = .next w)) ∧
  (∀ (s : State) (t : Tick) (a : Tick),
    let w := s.advance t
    w.cap.starUntil = some a → a ≤ w.now →
    exec (.starPulseEnd t) s = .next { w with cap := { w.cap with starUntil := none } }) ∧
  (∀ (s : State) (t : Tick) (slot : Nat),
    let w := s.advance t
    (w.capSlot slot).state = 2 → (w.capSlot slot).windowEnd ≤ w.dev16 w.now →
    exec (.captureWindowEnd t slot) s = .next (w.enterSealing slot)) ∧
  (∀ (s : State) (t : Tick) (slot : Nat),
    let w := s.advance t
    (w.capSlot slot).state = 3 → w.windowSettled (w.capSlot slot) = true ∨ w.sealBound (w.capSlot slot) ≤ w.dev16 w.now →
    exec (.captureSeal t slot) s = .next (w.sealed slot))

/-- An engine starts the archive job whose tile is in its buffer and has been turned for the slices, else a restore job;
its finished stream is stored, raw where it is no shorter, in the open segment, listed, counted and sent; a flacon is
decoded and the restored tile goes to its requester, or fails; flush times expire and an output that waits is counted by an
amount the manual leaves open (R281, R302 to R304 and R306 to R311). -/
def Obligations.FlaconCommandsComplete : Prop :=
  (∀ (s : State) (t : Tick),
    let w := s.advance t
    exec (.flushTimeExpiry t) s = .next { w with engines := w.engines.map (fun (e : Engine) =>
      { e with flushes := e.flushes.filter (fun x => w.dev < x.1 + tickNs (2 * w.longestTile)) }) }) ∧
  (∀ (s : State) (t : Tick) (engine p q : Nat) (y : Tile),
    let w := (s.advance t).woken [6]
    let e := w.eng engine
    let rows := splitRows y ((e.flushes.filter (fun x =>
      w.cycles 6 x.2 w.now != 0 && w.dev < x.1 + tickNs (2 * w.longestTile))).map (·.1))
    e.running = none → engine < 2 → w.domainRuns 6 = true → e.nextArchive = some (p, q) → e.buffer = some (p, q) →
    e.bufTile = some y → (∀ c ∈ w.sill.closed, c.pos = p → c.seq = q → w.turned c = true) →
    exec (.flaconJobStart t engine) s = .next ((w.count K.flacSplitIgnored (rows.length - 2)).modEng engine fun e =>
      { e with queue := e.queue.filter (· != .archive p q), running := some (.archive p q), splits := rows.take 2,
               runData := e.bufData, runTile := some y, buffer := none, bufData := [], bufTile := none,
               busySince := w.now })) ∧
  (∀ (s : State) (t : Tick) (engine : Nat) (j : FlaconJob),
    let w := (s.advance t).woken [6]
    let e := w.eng engine
    e.running = none → engine < 2 → w.domainRuns 6 = true → e.nextArchive = none → e.nextRestore = some j →
    exec (.flaconJobStart t engine) s = .next (w.modEng engine fun e =>
      { e with queue := e.queue.erase j, running := some j, splits := [], busySince := w.now })) ∧
  (∀ (s : State) (t : Tick) (engine : Nat),
    let w := s.advance t
    (w.eng engine).running.isSome = true → engine < 2 →
    ∃ n, n ≤ (w.now - (w.eng engine).busySince) / usT 1 ∧
      exec (.flaconOutputDrain t engine) s = .next (w.tookFree.count K.flacStallUs n)) ∧
  (∀ (s : State) (t : Tick) (engine p q : Nat) (stream : List Byte) (y : Tile),
    let w := s.advance t
    (w.eng engine).running = some (.archive p q) → (w.eng engine).runTile = some y →
    let data := (w.eng engine).runData
    let splits := (w.eng engine).splits
    (65546 ≤ stream.length → exec (.flaconCommit t engine stream) s = .next
      (w.flaconStore engine p q y true (storedStream data)
        (flaconBytes true y.precond engine splits 0 0 w.dev y.header data (storedStream data)))) ∧
    (∀ offs, stream.length < 65546 →
      flaconStream y.blockKib y.windowLog (flaconParts y.precond splits data) stream = some offs →
      exec (.flaconCommit t engine stream) s = .next
        (w.flaconStore engine p q y false stream
          (flaconBytes false y.precond engine splits (nth 0 offs 0) (nth 0 offs 1) w.dev y.header data stream)))) ∧
  (∀ (w : State) (engine p q : Nat) (y : Tile) (stored : Bool) (out bytes : List Byte),
    let x := (w.openSegment engine).2
    let a := (w.openSegment engine).1.flaconAddr x.index x.used
    let v := (w.openSegment engine).1.engineDone engine
    let settle := fun (s : State) =>
      s.modClosed p fun c => if c.seq == q && c.group == y.group then { c with settled := true } else c
    (v.protOk mFlacon a bytes.length true = false →
      w.flaconStore engine p q y stored out bytes = settle (v.protFault mFlacon a)) ∧
    (v.protOk mFlacon a bytes.length true = true → w.flaconStore engine p q y stored out bytes =
      (let f : Flacon := { segment := x.index, offset := x.used, len := bytes.length, group := y.group, start := y.startTime,
                           stop := y.stop, newest := v.devRound y.lastTick, commitTime := w.dev, seq := q }
       let u := (v.dramPut a bytes).modSill fun z =>
         { z with flacons := z.flacons ++ [f],
                  segments := z.segments.map fun (g : Segment) =>
                    if g.openBy == some engine then { g with used := g.used + bytes.length } else g }
       let u := (u.bump K.flacArchived).count K.flacStoredCount (b2n stored)
       let u := u.objectOut 3 21 q (fun z => PS.setGroup u.running z.chanSet y.group) bytes
       let u := u.modEng engine fun e =>
         { e with recent := (u.now, out.length) :: e.recent.filter (fun c => u.now ≤ c.1 + secT 1) }
       ((settle u).wrote 0 bytes.length).pinWritten 0 x.index y.startTime y.stop))) ∧
  (∀ (s : State) (t : Tick) (engine seg off mb tag : Nat),
    let w := s.advance t
    let v := w.engineDone engine
    (w.eng engine).running = some (.restore seg off mb tag) →
    (v.sill.flacons.find? (fun f => f.segment == seg && f.offset == off) = none →
      exec (.decompressionDone t engine) s = .next (v.restored seg off mb tag none)) ∧
    (∀ f, v.sill.flacons.find? (fun f => f.segment == seg && f.offset == off) = some f →
      let r := v.masterRead mFlacon (v.flaconAddr seg off) f.len
      let long := ∃ d ∈ flaconOut r.2, 65536 < d.length
      (flaconHead r.2 = true → long → exec (.decompressionDone t engine) s = .next
        ((r.1.bump K.flacNoSpace).restored seg off mb tag none)) ∧
      (∀ img, (flaconHead r.2 = false ∨ ¬ long) → restore r.2 (flaconOut r.2) = some img →
        exec (.decompressionDone t engine) s = .next (r.1.restored seg off mb tag (some img))) ∧
      ((flaconHead r.2 = false ∨ ¬ long) → restore r.2 (flaconOut r.2) = none →
        exec (.decompressionDone t engine) s = .next
          (((r.1.bump K.flacCrcFail).health 17 engine 0 1).restored seg off mb tag none))))

/-! Sessions, streams, rings and ports. -/

/-- Event records, stream items and keepalives leave as frames once enough has come or the hold has passed, and a session
closes when its last frame has gone (R317, R319 and R323 to R327). -/
def Obligations.FrameMakingCommandsComplete : Prop :=
  (∀ (s : State) (t : Tick),
    let w := s.advance t
    let evs := w.atom.evRing
    let f : Frame := { typ := 1, session := 0xFFFE, seq := (w.ring 32).seq, withheld := 0, sendTime := w.dev, resumed := false,
                       last := false, payload := (evs.take 4096).flatMap EventRec.bytes, dest := 0, destPort := 0, dscp := 0 }
    evs ≠ [] → w.active = true → 4096 ≤ evs.length ∨ w.held w.atom.evRingAt (w.p K.atomEventHoldUs) = true →
    exec (.eventFrameSend t 0xFFFE) s = .next
      ((w.modRing 32 fun r => { r with seq := (r.seq + 1) % 2 ^ 32, queue := r.queue ++ [f] }).modAtom fun a =>
        { a with evRing := evs.drop 4096, evRingTs := a.evRingTs.drop 4096,
                 evRingAt := ((a.evRingTs.drop 4096).head?).getD a.evRingAt })) ∧
  (∀ (s : State) (t : Tick) (session : Nat) (x : Session),
    let w := s.advance t
    let most := w.maxPayload x / 32
    session ≠ 0xFFFE → w.session session = some x → x.events ≠ [] → x.closing = none → w.sessionLive x = true →
    most ≤ x.events.length ∨ w.held x.eventsAt (w.p K.atomEventHoldUs) = true →
    exec (.eventFrameSend t session) s = .next
      ((w.modSession session fun y =>
        { y with events := y.events.drop most, eventTs := y.eventTs.drop most,
                 eventsAt := ((y.eventTs.drop most).head?).getD y.eventsAt }).emitFrame session 1
        ((x.events.take most).flatMap EventRec.bytes) false true)) ∧
  (∀ (s : State) (t : Tick) (session kind : Nat) (x : Session) (at_ : Tick) (items : List (List Byte)),
    let w := s.advance t
    let r := takeItems (w.maxPayload x) items
    let ts := (aget [] x.itemTs kind).drop r.1.length
    w.session session = some x → x.closing = none → w.sessionLive x = true → w.eventDue x = false → kind ≠ 5 →
    x.streams.find? (fun e => e.1 == kind) = some (kind, at_, items) → r.1 ≠ [] →
    r.2 ≠ [] ∨ w.held at_ (w.p K.atomStreamHoldUs) = true →
    exec (.streamFrameSend t session kind) s = .next
      ((w.modSession session fun y =>
        { y with itemTs := if r.2.isEmpty then adel y.itemTs kind else aput kind ts y.itemTs,
                 streams := if r.2.isEmpty then y.streams.filter (fun q => q.1 != kind)
                            else y.streams.map (fun q => if q.1 == kind then (q.1, ts.headD q.2.1, r.2) else q) }).emitStream x kind
          r.1.flatten false)) ∧
  (∀ (s : State) (t : Tick) (session : Nat) (x : Session),
    let w := s.advance t
    w.session session = some x → x.closing = none → w.sessionLive x = true → w.eventDue x = false →
    exec (.streamFrameSend t session 5) s = .next (w.objectSend x)) ∧
  (∀ (s : State) (t : Tick) (session : Nat) (x : Session),
    let w := s.advance t
    w.session session = some x → w.p K.atomKeepaliveMs ≠ 0 → x.closing = none → w.sessionLive x = true →
    x.lastFrame + msT (w.p K.atomKeepaliveMs) ≤ w.now →
    exec (.keepalive t session) s = .next
      ((w.toPaths x (w.frameOf x 7 [] false false) false).1.modSession session fun y =>
        { y with resumed := false, lastFrame := w.now })) ∧
  (∀ (s : State) (t : Tick) (session : Nat) (x : Session) (id : ReqId),
    let w := s.advance t
    w.session session = some x → x.closing = some id → w.sessionQueued session = false →
    exec (.sessionCloseComplete t session) s = .next
      (((w.modAtom fun a => { a with sessions := a.sessions.filter (fun y => y.num != session) }).final id .ok []).finished id.mb))

/-- A path sends its oldest frame: a ring's into its memory, a port's onto the line, the management port's datagram first;
a retrieval job takes its next object, and ends with its RETRIEVE_END frame and its final response (R318 to R320, R322,
R323, R328 and R338 to R342). -/
def Obligations.FrameSendingCommandsComplete : Prop :=
  (∀ (s : State) (t : Tick) (path : Nat),
    let w := s.advance t
    (16 ≤ path → w.active = true → exec (.frameTransmit t path) s = .next (w.ringWrite (path - 16))) ∧
    (path < 3 → w.portRuns path = true → w.atom.datagrams = [] → exec (.frameTransmit t path) s = .next (w.portSend path)) ∧
    (path < 2 → w.portRuns path = true → exec (.frameTransmit t path) s = .next (w.portSend path)) ∧
    (∀ d rest, path = 2 → w.portRuns 2 = true → w.atom.datagrams = d :: rest →
      ((w.port 2).link = true → exec (.frameTransmit t path) s = .next
        ((w.modAtom fun a =>
          { a with datagrams := rest, wire := some (2, d.2.2), wireEnds := some (d.1, d.2.1), wireDscp := 0,
                   wireRct := none }).perfEvent 0x0701 2 0xFF 1)) ∧
      ((w.port 2).link = false → exec (.frameTransmit t path) s = .next (w.modAtom fun a => { a with datagrams := rest })))) ∧
  (∀ (s : State) (t : Tick) (job : Nat) (overwritten : Bool) (j : RetrJob),
    let w := s.advance t
    let v := w.jobStep j overwritten
    w.atom.jobs[job]? = some j → j.cancelled = false → w.domainRuns 6 = true →
    (w.jobReady j = true → w.atom.retrAt ≤ w.now → (w.atom.jobs.take job).any w.jobReady = false →
      exec (.retrieveObject t job overwritten) s = .next
        (v.modAtom fun a =>
          { a with retrAt := w.now + (v.jobBytes j.who - j.bytes) * secT 1 / (w.p K.atomRetrMaxMbs * 1000000) })) ∧
    (w.jobReady j = false → exec (.retrieveObject t job overwritten) s = .next (w.jobQueue j))) ∧
  (∀ (s : State) (t : Tick) (job : Nat) (j : RetrJob),
    let w := s.advance t
    let st : Status := if j.cancelled then .aborted else .ok
    let finish := fun (s : State) =>
      (s.modAtom fun a => { a with jobs := a.jobs.filter (fun x => !(x.who.mb == j.who.mb && x.who.tag == j.who.tag)) }).final
        j.who st (leBytes 8 j.bytes ++ leBytes 4 j.gaps)
    w.atom.jobs[job]? = some j → w.jobWaits j = false → j.cancelled = true ∨ w.jobDone j = true →
    (j.target ≠ 0 → exec (.retrieveEnd t job) s = .next (finish (w.emitFrame j.session 6 (j.endBytes st) false false))) ∧
    (let u := (w.ringFrame 6 (j.endBytes st) false).ringWrite 33
     j.target = 0 → (u.ring 33).queue = [] → exec (.retrieveEnd t job) s = .next (finish u)))

/-- A ring is enabled or disabled, its held interrupt is signalled when its spacing has passed, a port's link comes and
goes, the device answers for its own addresses and groups alone, and supervision frames leave on both ports (R328, R329 and
R331 to R335). -/
def Obligations.RingAndPortCommandsComplete : Prop :=
  (∀ (s : State) (t : Tick) (ring : Nat) (v : Word),
    let w := s.advance t
    (w.clk.pcie = true → exec (.ringEnable t ring v) s = .next (w.ringEnableWrite ring v)) ∧
    (w.clk.pcie = false → exec (.ringEnable t ring v) s = .next w)) ∧
  (∀ (s : State) (t : Tick) (ring : Nat),
    let w := s.advance t
    (w.ring ring).intHeld = true → w.ringSpaced (w.ring ring) = true →
    exec (.ringInterruptHoldoffEnd t ring) s = .next (w.ringVector ring)) ∧
  (∀ (s : State) (t : Tick) (port : Nat) (up : Bool),
    let w := s.advance t
    exec (.netLinkChange t port up) s = .next (w.modPort port fun p => { p with link := up })) ∧
  (∀ (s : State) (t : Tick) (port kind addr src : Nat) (rct : Option (Nat × Nat × Nat)),
    let w := s.advance t
    let r := match rct with
      | some (node, n, lan) => if port < 2 && w.pB K.atomPrpEn then w.prpReceive port node n lan else (w, false)
      | none => (w, false)
    let u := r.1
    let answers := fun (v : State) => (v.modAtom fun a => { a with wire := some (port, []) }).perfEvent 0x0701 port 0xFF 1
    port < 3 → w.portRuns port = true → (w.port port).link = true →
    (r.2 = true → exec (.networkRequest t port kind addr src rct) s = .next u) ∧
    (r.2 = false → u.portRuns port = true → (u.port port).link = true →
      (kind < 3 → (u.portAddrs port).contains addr = true → u.atom.resolved.contains (port, src) = true →
        exec (.networkRequest t port kind addr src rct) s = .next (answers u)) ∧
      (kind < 3 → (u.portAddrs port).contains addr = true → u.atom.resolved.contains (port, src) = false →
        exec (.networkRequest t port kind addr src rct) s = .next
          (answers (u.modAtom fun a => { a with resolved := (port, src) :: a.resolved }))) ∧
      (kind = 3 → u.atom.sessions.any (fun x => x.transport == 1 && bit x.ports port && (addr == 0 || x.dest == addr)) = true →
        exec (.networkRequest t port kind addr src rct) s = .next (answers u)) ∧
      (kind < 3 → (u.portAddrs port).contains addr = false → exec (.networkRequest t port kind addr src rct) s = .next u))) ∧
  (∀ (s : State) (t : Tick),
    let w := s.advance t
    w.pB K.atomPrpEn = true → w.active = true → w.atom.prpAt + msT (w.p K.atomPrpLifecheckMs) ≤ w.now →
    exec (.prpSupervision t) s = .next
      ([0, 1].foldl (fun (v : State) p => if v.portRuns p && (v.port p).link then v.perfEvent 0x0701 p 0xFF 1 else v)
        (w.modAtom fun a => { a with prpAt := w.now, prpSeq := (a.prpSeq + 1) % 65536, wire := some (0, []) })))

/-! Time. -/

/-- The master's announcement names it and starts locking; a Sync message steps, slews or steers by its corrected offset
and counts towards LOCKED; four missing intervals bring HOLDOVER; ageing moves in steps of at most 1 ppb and leaves a
locked rate as it is (R330 and R366 to R372). -/
def Obligations.DeviceTimeCommandsComplete : Prop :=
  (∀ (s : State) (t : Tick) (port domain : Nat) (ipv6 : Bool) (master quality : Nat) (utc : Int) (m : PtpMaster),
    let w := s.advance t
    let new : PtpMaster := { port := port, master := master, quality := quality, utcOffset := satI 32 utc, at_ := w.now }
    let all := new :: w.time.ptpForeign.filter fun x =>
      !(x.port == port && x.master == master) && w.now < x.at_ + w.announceT && w.ptpPort x.port
    let v := w.modTime fun b =>
      { b with ptpForeign := all, ptpMaster := some (m.port, m.master), utcOffset := m.utcOffset }
    w.p K.timePtpMode ≠ 0 → w.ptpPort port = true → domain = w.p K.timePtpDomain → b2n ipv6 = w.p K.timePtpTransport →
    bestMaster all = some m →
    (w.time.ptpMaster = some (m.port, m.master) → w.time.ptpState ≠ 0 →
      exec (.ptpAnnounce t port domain ipv6 master quality utc) s = .next v) ∧
    (w.time.ptpMaster ≠ some (m.port, m.master) ∨ w.time.ptpState = 0 →
      exec (.ptpAnnounce t port domain ipv6 master quality utc) s = .next (v.ptpGo 1))) ∧
  (∀ (s : State) (t : Tick) (offPs : Int) (interval port master : Nat),
    let w := s.advance t
    let off := offPs - w.pI K.timePtpAsymPs
    w.time.ptpMaster = some (port, master) → w.p K.timePtpMode ≠ 0 → w.ptpPort port = true →
    exec (.ptpSync t port master offPs interval) s = .next ((w.ptpHeard off interval).ptpAct off)) ∧
  (∀ (v : State) (off : Int),
    let big := (v.p K.timePtpStepNs : Int) * 1000 < (off.natAbs : Int)
    let good := off.natAbs ≤ v.p K.timePtpLockNs * 1000
    (v.time.ptpState = 1 → big → v.run.state = 0 → v.ptpAct off =
      (v.stepTime ((v.devRound v.now : Int) - rdivI off 1000).toNat).modTime fun b => { b with ptpGood := 0 }) ∧
    (v.time.ptpState = 1 → big → v.run.state ≠ 0 →
      let u := (v.setRate (if off < 0 then v.slewPpt else -v.slewPpt)).modTime fun b =>
        { b with ptpGood := 0, ptpSlewTold := true }
      v.ptpAct off = if v.time.ptpSlewTold then u else u.health 18 1 3 0xFF) ∧
    (v.time.ptpState ≠ 1 ∨ ¬ big →
      let u := v.ptpSteer.modTime fun b => { b with ptpGood := if decide good then b.ptpGood + 1 else 0 }
      (u.time.ptpState = 1 → 16 ≤ u.time.ptpGood → v.ptpAct off = u.ptpGo 2) ∧
      (u.time.ptpState = 2 → ¬ good → v.ptpAct off = u.ptpGo 1) ∧
      (u.time.ptpState = 2 → good → v.ptpAct off = u))) ∧
  (∀ (s : State) (t : Tick),
    let w := s.advance t
    w.time.ptpState = 2 → w.time.ptpSyncAt + nsT (4 * w.time.ptpInterval) ≤ w.now →
    exec (.ptpHoldover t) s = .next ((w.setRate (-w.time.ptpFreq)).ptpGo 3)) ∧
  (∀ (s : State) (t : Tick),
    let w := s.advance t
    let d := clampI (-1000) 1000 (w.pI K.timeXaAgeingPpt - w.time.ageing)
    (d = 0 ∨ w.spaced w.time.ageAt (msT 1) = false → exec (.ageingStep t) s = .next w) ∧
    (d ≠ 0 → w.spaced w.time.ageAt (msT 1) = true →
      (w.time.ptpState = 2 → exec (.ageingStep t) s = .next
        (w.settle.modTime fun b =>
          { b with ageing := b.ageing + d, ageAt := some w.now, ptpFreq := b.ptpFreq - d, ptpRate := b.ptpRate + d })) ∧
      (w.time.ptpState ≠ 2 → exec (.ageingStep t) s = .next
        (w.modTime fun b => { b with ageing := b.ageing + d, ageAt := some w.now }))))

/-- An edge at an interval-unit input is stamped 3 ns or more after the last, else counted as an overrun; the unit arms,
gives what it has, times out and renews its table; the pair's synchronisation drives its half of the second, stamps the
other device's pulse and sends it, and counts seconds without a result (R373 to R376, R378 to R380, R382 and R383). -/
def Obligations.IntervalAndPairTimeCommandsComplete : Prop :=
  (∀ (s : State) (t : Tick) (source : Nat) (rising : Bool),
    let w := s.advance t
    let v := w.modTime fun b => { b with tinHigh := setBit b.tinHigh source rising }
    (source < 8 → rising = v.tiuDirection source → exec (.tiuInputEdge t source rising) s = .next (v.tiuEdge source v.now)) ∧
    (10 ≤ source → source ≤ 14 → rising = w.tiuDirection source →
      exec (.tiuInputEdge t source rising) s = .next (w.tiuBuffered source)) ∧
    (source = 16 → w.dev % 1000000000 = 0 → exec (.tiuInputEdge t source rising) s = .next (w.tiuEdge 16 w.now))) ∧
  (∀ (s : State) (source : Nat) (at_ : Tick) (j : TiuJob),
    let w := s.tiuTake
    s.domainRuns 11 = true → w.time.tiu = some j →
    s.tiuEdge source at_ = w.tiuStamped source at_ (some (j.prescale source at_))) ∧
  (∀ (w : State) (source : Nat) (at_ : Tick) (j : TiuJob),
    let early := match w.time.lastEdge.find? (fun e => e.1 == source) with
      | some e => decide (at_ < e.2 + psT 3000)
      | none => false
    let v := w.modTime fun b => { b with tiu := some j, lastEdge := aput source at_ b.lastEdge }
    (early = true → w.tiuStamped source at_ (some (j, true)) = v.bump K.timeTiuOverrun) ∧
    (early = false → w.tiuStamped source at_ (some (j, true)) =
      (v.perfEvent 0x0B01 source 0xFF 1).modTime fun b => { b with tiu := some (j.edge source (stampOf source at_)) })) ∧
  (∀ (s : State) (t : Tick) (j : TiuJob),
    let w := s.advance t
    w.time.tiu = some j → j.armed = none → j.armFrom ≤ w.now →
    (j.arm = 1 ∧ w.run.state = 1 ∧ w.run.boundary = w.now) ∨ (j.arm = 2 ∧ w.dev % 1000000000 = 0) ∨
      (j.arm = 3 ∧ bit w.time.tinHigh j.gate = true) →
    exec (.tiuArm t) s = .next (w.modTime fun x => { x with tiu := some (w.tiuArmed j w.now) })) ∧
  (∀ (s : State) (t : Tick), exec (.tiuMeasurementDone t) s = .next (s.advance t).tiuTake) ∧
  (∀ (s : State) (t : Tick) (j : TiuJob) (a : Tick),
    let w := (s.advance t).tiuTake
    w.time.tiu = some j → j.armed = some a → a + msT j.timeoutMs ≤ w.now →
    exec (.tiuTimeout t) s = .next (w.tiuEnd j .timeout)) ∧
  (∀ (s : State) (t : Tick) (temp : Int),
    let w := s.advance t
    w.domainRuns 11 = true → w.time.tableTemp = none ∨ (∃ x ∈ w.time.tableTemp, 20000 < (temp - x).natAbs) →
    exec (.tiuCodeDensityTest t temp) s = .next
      (w.modTime fun b => { b with tableTemp := some temp, tables := b.tables + 1 })) ∧
  (∀ (s : State) (t : Tick),
    let w := s.advance t
    w.pairsync = true → w.dev % 1000000000 = 500000000 * w.twinId →
    exec (.pairsyncDrive t) s = .next
      ((w.psSecond (w.dev / 1000000000)).modTime fun b => { b with psIgnore := w.now + nsT 1100 })) ∧
  (∀ (s : State) (t : Tick),
    let w := s.advance t
    let d := w.dev + 1000000000 - (if w.twinId == 1 then 0 else 500000000) + 1000000
    let sec := d / 1000000000 - 1
    let u := w.tiuEdge 15 w.now
    let stamp := u.dev16 u.now
    let v := (u.psSecond sec).modTime fun b => { b with psOwn := some stamp }
    w.pairsync = true → w.time.psIgnore ≤ w.now → d % 1000000000 ≤ 2000000 → 1001000000 ≤ d →
    (v.twin.link < 2 → exec (.pairsyncPulse t) s = .next v.psTry) ∧
    (2 ≤ v.twin.link → exec (.pairsyncPulse t) s = .next (v.linkWire (v.linkFrame 7 false 0
      (leBytes 8 sec ++ leBytes 8 (stamp / 65536) ++ leBytes 2 (stamp % 65536) ++ leBytes 2 0))).psTry)) ∧
  (∀ (s : State) (t : Tick),
    let w := s.advance t
    let had := w.time.psDone = some (w.dev / 1000000000)
    let v := w.modTime fun b => { b with psAge := min (b.psAge + 1) 0xFFFFFFFF, psMiss := b.psMiss + 1, psOwn := none, psPeer := none }
    w.pairsync = true → 900000000 ≤ w.dev % 1000000000 →
    (had → exec (.pairsyncResultDeadline t) s = .next (w.modTime fun b => { b with psOwn := none, psPeer := none })) ∧
    (¬ had → 3 ≤ v.time.psMiss → v.time.psRaised = false →
      exec (.pairsyncResultDeadline t) s = .next ((v.modTime fun b => { b with psRaised := true }).health 19 0 0 0xFF)) ∧
    (¬ had → v.time.psMiss < 3 ∨ v.time.psRaised = true → exec (.pairsyncResultDeadline t) s = .next v))

/-! Memory. -/

/-- A read completes where the address is usable and its master may read it, and is served as zeros with a protection fault
where it may not (for an address that is not usable: the model's choice, log 5); a re-read gives up after its last try; the
scrubber takes the next column and writes a single error back or begins its re-reads; fills clear one MiB at a time.
Refreshes are postponed up to eight, MR4 codes set the factor and warn from 4 on, a drift past 8 is told once until it
returns, the hour's corrected errors start over, aged requests are promoted and counted, and the two panic signals follow
the oldest closed tile's age and the display's fill (R69, R345, R346, R349 to R351, R353, R356, R357, R359, R360 and R363).
-/
def Obligations.MemoryCommandsComplete : Prop :=
  (∀ (s : State) (t : Tick) (master addr len : Nat) (errs : List WordErr),
    let w := (s.advance t).woken [6]
    let z := (w.protFault master addr).readDone (List.replicate len 0) true
    w.domainRuns 6 = true → master ≤ 6 → len ≠ 0 →
    (w.usable addr len = true → w.protOk master addr len false = true →
      exec (.memReadComplete t master addr len errs) s = .next ((w.issued master addr).readResult master addr len errs)) ∧
    (w.usable addr len = false ∨ w.protOk master addr len false = false → master ≠ mDisplay →
      exec (.memReadComplete t master addr len errs) s = .next z) ∧
    (w.usable addr len = false ∨ w.protOk master addr len false = false → master = mDisplay →
      exec (.memReadComplete t master addr len errs) s = .next (z.fetchFails addr))) ∧
  (∀ (s : State) (t : Tick) (errs : List WordErr) (late : Bool) (master a len left : Nat)
      (rest : List (Nat × Nat × Nat × Nat)),
    let w := s.advance t
    let v := w.modMemc fun m => { m with reread := rest }
    let r := readFinds a len errs
    w.memc.reread = (master, a, len, left) :: rest →
    (r = .uncorrectable → left ≤ 1 → exec (.memReread t errs late) s = .next (v.uncorrectable master a (badWord a len errs))) ∧
    (r = .uncorrectable → 1 < left → exec (.memReread t errs late) s = .next
      (v.modMemc fun m => { m with reread := (master, a, len, left - 1) :: m.reread })) ∧
    (r ≠ .uncorrectable → late = true → exec (.memReread t errs late) s = .next (v.bump K.memcLateCount).lateOnce) ∧
    (r ≠ .uncorrectable → late = false → exec (.memReread t errs late) s = .next (v.rereadGood a len master errs))) ∧
  (∀ (s : State) (t : Tick) (errs : List WordErr),
    let w := (s.advance t).woken [6]
    let a := w.memc.scrubAt
    let v := (w.issued 7 a).modMemc fun m => { m with scrubAt := (a + 8) % (w.usableMib * PS.mib) }
    let r := readFinds a 8 errs
    w.domainRuns 6 = true → w.memc.fillLeft = [] → w.usableMib ≠ 0 →
    (r = .clean → exec (.scrubRead t errs) s = .next v) ∧
    (r = .single → exec (.scrubRead t errs) s = .next (v.corrected a)) ∧
    (r = .uncorrectable → v.p K.memcRereadMax = 0 → exec (.scrubRead t errs) s = .next (v.uncorrectable 7 a a)) ∧
    (r = .uncorrectable → v.p K.memcRereadMax ≠ 0 → exec (.scrubRead t errs) s = .next
      (v.modMemc fun m => { m with reread := m.reread ++ [(7, a, 8, v.p K.memcRereadMax)] }))) ∧
  (∀ (s : State) (t : Tick) (lo hi : Nat) (rest : List (Nat × Nat)),
    let w := s.advance t
    w.memc.fillLeft = (lo, hi) :: rest → w.domainRuns 6 = true →
    exec (.fill t) s = .next ((w.issueOlder.dramZero (lo * PS.mib) PS.mib).modMemc fun m =>
      { m with fillLeft := if hi ≤ lo then rest else (lo + 1, hi) :: rest })) ∧
  (∀ (s : State) (t : Tick) (sc rank bank : Nat),
    let w := s.advance t
    let k := (sc * 2 + rank) * 8 + bank
    let n := aget 0 w.memc.postponed k
    w.memc.power = 1 → sc ≤ 3 → rank < w.memc.ranks → bank ≤ 7 →
    (n < 8 → exec (.refresh t sc rank bank true) s = .next
      (w.modMemc fun m => { m with postponed := aset 0 m.postponed k (n + 1), postMax := max m.postMax (n + 1) })) ∧
    (8 ≤ n → exec (.refresh t sc rank bank true) s = .next w) ∧
    exec (.refresh t sc rank bank false) s = .next (w.modMemc fun m => { m with postponed := aset 0 m.postponed k 0 })) ∧
  (∀ (s : State) (t : Tick) (codes : List Nat),
    let w := s.advance t
    w.memc.power = 1 → codes ≠ [] → w.spaced w.memc.mr4At (msT 16) = true → exec (.mr4Poll t codes) s = .next
      ((idxWhere (fun c => 4 ≤ c) codes).foldl (fun (v : State) i => v.health 16 (i / 2) 2 0xFF)
        (w.modMemc fun m => { m with factor := (codes.map mr4Factor).foldl max 0, mr4At := some w.now }))) ∧
  (∀ (s : State) (t : Tick) (drift : List Int),
    let w := s.advance t
    let drifted := idxWhere (fun (d : Int) => decide (8 < d.natAbs)) drift
    w.memc.power = 1 → 3 ≤ w.clk.mode → w.spaced w.memc.trackAt (msT (w.p K.memcTrackMs)) = true →
    exec (.dqsTrack t drift) s = .next
      ((drifted.filter (fun i => !w.memc.driftRaised.contains i)).foldl (fun (v : State) i => v.health 16 (i / 2) 1 0xFF)
        (w.modMemc fun m => { m with drift := drift, driftRaised := drifted, trackAt := some w.now }))) ∧
  (∀ (s : State) (t : Tick),
    let w := s.advance t
    w.spaced w.memc.ceHourAt (secT 3600) = true → exec (.ceHealthHour t) s = .next (w.modMemc fun m =>
      { m with ceRaised := m.ceRaised && decide (w.p K.memcCeHealth < m.ceHour), ceHour := 0, ceHourAt := some w.now })) ∧
  (∀ (s : State) (t : Tick),
    let w := s.advance t
    exec (.agePromotion t) s = .next ((w.modMemc fun m => { m with queue := m.queue.map w.promoteReq }).count K.memcPromoted
      (w.memc.queue.filter (fun r => w.promoteReq r != r)).length)) ∧
  (∀ (s : State) (t : Tick) (level : Nat),
    let w := s.advance t
    let tile := w.domainAllowed 6 && w.panicTileNow
    let disp := w.scans 0 && level < w.p K.memcPanicDispPct
    exec (.panic t 0 level) s = .next
      ((w.count K.memcPanicCount (b2n (tile && !w.memc.panicTile))).modMemc fun m => { m with panicTile := tile }) ∧
    exec (.panic t 1 level) s = .next
      ((w.count (K.memcPanicCount + 1) (b2n (disp && !w.memc.panicDisp))).modMemc fun m => { m with panicDisp := disp }))

/-! The pair. -/

/-- The content of the peer's frames: heartbeats are taken and begin or keep the join, confirmations are kept and move the
sequences of zones this device does not act for, tables and digests are compared, a zone that is handed back is acted for
from the sequence given, and its acknowledgement ends the handing (R382, R387 to R391, R394, R395 and R398 to R400). -/
def Obligations.LinkFramesComplete : Prop :=
  (∀ (s : State) (t : Tick) (h : LinkHdr) (leaving : Bool) (caps hold loss : Nat) (dark : List Nat),
    let w := s.advance t
    let taken := fun (v : State) =>
      v.modTwin fun x => { x with peerAt := some v.now, peerCaps := caps % 4, peerDark := dark, conflictTold := false }
    (w.twin.link ≠ 0 → w.lane = true → (h.ident = w.twinId ∨ hold ≠ w.p K.twinHoldMs ∨ loss ≠ w.p K.twinHbLossUs) →
      w.twin.conflictTold = false → exec (.heartbeat t h leaving caps hold loss dark) s = .next
        ((w.modTwin fun x => { x with conflictTold := true }).twinRecord 2 4)) ∧
    (h.ident ≠ w.twinId → hold = w.p K.twinHoldMs → loss = w.p K.twinHbLossUs →
      (w.twin.link = 1 → w.lane = true → leaving = false →
        exec (.heartbeat t h leaving caps hold loss dark) s = .next ((taken w).join h)) ∧
      (w.Hears h → leaving = false →
        exec (.heartbeat t h leaving caps hold loss dark) s = .next (taken (w.heardAny h)).tryPair.ownership) ∧
      (w.Hears h → leaving = true →
        exec (.heartbeat t h leaving caps hold loss dark) s = .next ((taken (w.heardAny h)).linkDown 2)))) ∧
  (∀ (s : State) (t : Tick) (h : LinkHdr),
    let w := s.advance t
    let v := w.heard h
    w.Hears h → w.InOrder h →
    (∀ recs : List EventRec, exec (.confirm t h recs) s = .next
      (((recs.foldl (fun (v : State) (r : EventRec) =>
        let u := v.modTwin fun x => { x with kept := x.kept ++ [{ record := r, since := v.now, matched := false }] }
        if (u.zone r.zone).desc.isSome && !u.actsFor r.zone then
          if serialLt 32 (((u.zone r.zone).nextSeq + 2 ^ 32 - 1) % 2 ^ 32) (r.seq % 2 ^ 32)
          then u.modZone r.zone fun x => { x with nextSeq := (r.seq % 2 ^ 32 + 1) % 2 ^ 32 } else u
        else u) v).matchHeld.resyncIn h).tryPair)) ∧
    (∀ (first : Nat) (next : List Nat), exec (.seqTable t h first next) s = .next
      (let u := next.zipIdx.foldl (fun (v : State) e =>
         if (v.zone (first + e.2)).desc.isNone then v
         else
           let u := v.modZone (first + e.2) fun x => { x with peerSeq := some (e.1 % 2 ^ 32) }
           if u.twin.link == 3 && (u.zone (first + e.2)).paired then u.adopt (first + e.2) else u) v
       ((u.modTwin fun x => { x with peerSeqs := x.peerSeqs + next.length }).resyncIn h).donePhase.tryPair)) ∧
    (∀ (first : Nat) (entries : List Nat), exec (.digest t h first entries) s = .next
      (let u := v.modTwin fun x =>
         { x with peerDigs := x.peerDigs + entries.length,
                  peerDigest := entries.zipIdx.foldl (fun (d : List (Nat × Nat)) e =>
                    aset 0 d (first + e.2) (e.1 % 256)) x.peerDigest }
       let u := if u.twin.link == 3 then
           (u.definedZones.filter (fun z => first ≤ z && z < first + entries.length)).foldl State.repair u
         else u
       (u.resyncIn h).seqPhase.donePhase.tryPair)) ∧
    (∀ zone next : Nat, v.twin.link = 3 → v.ownsZone zone = true → (v.zone zone).paired = true →
      exec (.handback t h zone next) s = .next
        (((((v.modZone zone fun x => { x with nextSeq := next % 2 ^ 32, given := false, lossAt := none }).sendHeldOf zone
          (fun r => h.sendTime ≤ r.record.time) false false).linkSend (.handbackAck zone)).resyncIn h).tryPair)) ∧
    (∀ zone : Nat, (v.zone zone).handing = true → exec (.handbackAck t h zone) s = .next
      ((((v.modZone zone fun x => { x with handing := false }).twinRecord 4 1).resyncIn h).tryPair)) ∧
    (v.twin.link = 3 → exec (.rejoinDone t h) s = .next (((v.linkSend .rejoinDone).resyncIn h).tryPair)) ∧
    (v.twin.link ≠ 3 → exec (.rejoinDone t h) s = .next
      (((v.modTwin fun x => { x with doneGot := true }).resyncIn h).tryPair))) ∧
  (∀ (s : State) (t : Tick) (h : LinkHdr) (sec stamp frac : Nat),
    let w := s.advance t
    let v := w.heardAny h
    w.Hears h → v.pairsync = true → v.dev % 1000000000 < 900000000 → sec = v.dev / 1000000000 →
    exec (.pairsyncFrame t h sec stamp frac) s = .next
      ((v.psSecond sec).modTime fun b => { b with psPeer := some (stamp * 65536 + frac % 65536) }).psTry)

/-- The link's own times: a damaged frame is counted, heartbeats go out at their spacing, a silent peer or a join that
takes 100 ms brings the link down, and unacknowledged frames are sent again up to their limit, after which both sides
exchange anew. Records held too long are dropped as unconfirmed and kept confirmations are forgotten; zones whose owner is
lost are promoted unless dark, a dark zone returns after its quiet time, and a zone taken over is handed back (R388 to
R390, R392, R394 to R396 and R398 to R400). -/
def Obligations.LinkTimersAndOwnershipComplete : Prop :=
  (∀ (s : State) (t : Tick),
    let w := s.advance t
    (w.lane = true → exec (.twinFrameCrcError t) s = .next (w.bump K.twinCrcErrors)) ∧
    (w.lane = true → w.twin.link ≠ 0 → w.sys.resetDue = none → w.twin.hbSent + usT (w.p K.twinHbUs) ≤ w.now →
      let v := w.refreshDark.ownership
      exec (.heartbeatSend t) s = .next ((v.heartbeatOut false).modTwin fun x => { x with hbSent := v.now })) ∧
    (∀ a, w.twin.peerAt = some a → 2 ≤ w.twin.link → a + usT (w.p K.twinHbLossUs) ≤ w.now →
      exec (.heartbeatLoss t) s = .next (w.linkDown 1)) ∧
    (w.twin.link = 2 → w.twin.joinAt + msT 100 ≤ w.now → exec (.rejoinTimeout t) s = .next (w.linkDown 3))) ∧
  (∀ (s : State) (t : Tick),
    let w := s.advance t
    let due := fun (o : LinkOut) => decide (o.sentAt + usT (w.p K.twinRetxUs) ≤ w.now)
    let v := (w.twin.unacked.filter (fun o => due o && o.resends < w.p K.twinRetxMax)).foldl
      (fun (u : State) o => u.linkWire (u.linkFrame o.msg.type o.resync o.lseq o.msg.payload)) w
    let u := v.modTwin fun x =>
      { x with unacked := (x.unacked.filter (fun o => !(due o && w.p K.twinRetxMax ≤ o.resends))).map (fun (o : LinkOut) =>
          if due o then { o with resends := o.resends + 1, sentAt := w.now } else o) }
    let gone := (w.twin.unacked.filter (fun o => due o && w.p K.twinRetxMax ≤ o.resends)).length
    2 ≤ w.twin.link → w.lane = true →
    (gone = 0 → exec (.twinRetx t) s = .next u) ∧
    (gone ≠ 0 → exec (.twinRetx t) s = .next
      (((u.count K.twinRetxFail gone).modTwin fun x => { x with resyncNext := true }).linkDrain 64).exchange)) ∧
  (∀ (s : State) (t : Tick),
    let w := s.advance t
    let gone := fun (h : HeldRec) =>
      decide (h.since + msT (w.p K.twinHoldMs) ≤ w.now) && !(w.twin.link == 2 && (w.zone h.record.zone).lossAt.isNone)
    exec (.heldRecordExpiry t) s = .next ((w.modTwin fun x => { x with held := x.held.filter (fun h => !gone h) }).count
      K.twinUnconfirmed (w.twin.held.filter gone).length) ∧
    exec (.confirmKeepExpiry t) s = .next (w.modTwin fun x =>
      { x with kept := x.kept.filter (fun k => w.now < k.since + msT (w.p K.twinHoldMs)) })) ∧
  (∀ (s : State) (t : Tick),
    let w := (s.advance t).refreshDark
    let due := w.definedZones.filter fun z => match (w.zone z).lossAt with | some a => w.promotes a | none => false
    let zs := due.filter (fun z => !w.isDark z)
    let v := (due.filter w.isDark).foldl (fun (u : State) z =>
      (u.modZone z fun x => { x with lossAt := none }).repair z) w
    (zs = [] → exec (.promotion t) s = .next v) ∧
    (zs ≠ [] → exec (.promotion t) s = .next ((zs.foldl State.promote v).twinRecord 3 zs.length))) ∧
  (∀ (s : State) (t : Tick) (zone : Nat) (d : ZoneDesc),
    let w := (s.advance t).refreshDark
    (w.zone zone).desc = some d → (w.zone zone).dark = true → w.darkCond d = false →
    (w.zone zone).darkAt + secT (w.p K.twinReturnS) ≤ w.now →
    exec (.darkReturn t zone) s = .next (w.modZone zone fun x => { x with dark := false })) ∧
  (∀ (s : State) (t : Tick) (zone : Nat),
    let w := (s.advance t).refreshDark
    let x := w.zone zone
    w.twin.link = 3 → x.paired = true → x.taken = true → x.handing = false → w.isDark zone = false →
    w.twin.peerDark.contains zone = false →
    exec (.handbackInitiate t zone) s = .next
      ((w.modZone zone fun x => { x with taken := false, handing := true }).linkSend (.handback zone x.nextSeq)))

/-! Instruments and displays. -/

/-- A conversion gives a result when its time has come, sooner a coarse one, and turns to the fallback on a chopper fault;
it ends at its dwell and the next begins; an input fault flags and discards; a fallback is retried; an analogue window is
left and entered again; a fast output follows its source or goes to its failsafe (R406 to R409, R411, R412, R418, R419,
R423, R424, R426 and R427). -/
def Obligations.InstrumentCommandsComplete : Prop :=
  (∀ (s : State) (t : Tick) (code : Int) (chop : Bool) (c : Conv),
    let w := s.advance t
    let pre := cfgPreset c.cfg
    w.inst.running = some c → c.given < cfgDwell c.cfg →
    (chop = true → w.pB K.instFallbackAuto = true → cfgPath c.cfg = false → c.fallback = false →
      exec (.conversionResult t code chop) s = .next (w.chopperFault c).endConv) ∧
    (chop = false ∨ c.fallback = true →
      (c.settleAt + usT (w.settleUs pre + c.outs * w.outputUs pre) ≤ w.now →
        exec (.conversionResult t code chop) s = .next ((w.chopperGood c).convResult c code false)) ∧
      (c.outs = 0 → cfgCoarse c.cfg = true → c.settleAt + usT (400 + c.coarse * 100) ≤ w.now →
        w.now < c.settleAt + usT (w.settleUs pre) → c.req % 5 = 0 →
        exec (.conversionResult t code chop) s = .next (w.convResult c code true)))) ∧
  (∀ (s : State) (t : Tick),
    let w := s.advance t
    (∀ c, w.inst.running = some c → cfgDwell c.cfg ≤ c.given → exec (.conversionComplete t) s = .next w.endConv) ∧
    (w.inst.running = none → w.inst.queue ≠ [] ∨ w.nextScan.isSome = true →
      exec (.conversionComplete t) s = .next w.nextConv)) ∧
  (∀ (s : State) (t : Tick) (kind : Nat) (c : Conv),
    let w := s.advance t
    let ends := fun (v : State) => ((v.modInst fun x =>
      { x with running := x.running.map (fun (c : Conv) => { c with result := none }) }).bump K.instDiscarded).endConv
    w.inst.running = some c → c.given < cfgDwell c.cfg →
    (kind = 0 → cfgExc c.cfg ≠ 0 ∨ cfgBurnout c.cfg ≠ 0 → exec (.inputFault t kind) s = .next (ends (w.convFlag c 0))) ∧
    (kind = 1 → exec (.inputFault t kind) s = .next (ends (w.convFlag c 1))) ∧
    (kind = 2 → cfgExc c.cfg ≠ 0 ∨ cfgBurnout c.cfg ≠ 0 →
      exec (.inputFault t kind) s = .next (ends ((w.convFlag c 0).convFlag c 1))) ∧
    (kind = 2 → cfgExc c.cfg = 0 → cfgBurnout c.cfg = 0 → exec (.inputFault t kind) s = .next (ends (w.convFlag c 1)))) ∧
  (∀ (s : State) (t : Tick) (input : Nat),
    let w := s.advance t
    exec (.fallbackRetry t input) s = .next (w.modInst fun x =>
      { x with fallback := x.fallback.map (fun (e : Nat × Tick) => if e.1 == input && e.2 ≤ w.now then (e.1, 0) else e) })) ∧
  (∀ (s : State) (t left : Tick) (n : Nat) (above : Bool),
    let w := s.advance t
    n < 4 → 1 ≤ w.clk.mode → bit (w.p K.instWinEnable) n = true → nth false w.inst.outside n = false →
    max left (nth 0 w.inst.winSince n) + usT (w.p K.instWinFilterUs) ≤ w.now →
    exec (.instWindow t n above left) s = .next
      ((w.winGo n true).deviceRecordAt (w.devAtT (max left (nth 0 w.inst.winSince n))) 0x09
        (w.p K.instWinSeverity / 16 ^ n % 16) ((if above then 1 else 2) + 256 * (12 + n))
        (if above then w.p (K.instWinHigh + n) else w.p (K.instWinLow + n)) 0)) ∧
  (∀ (s : State) (t : Tick) (n : Nat),
    let w := s.advance t
    n < 4 → 1 ≤ w.clk.mode → bit (w.p K.instWinEnable) n = true → nth false w.inst.outside n = true →
    nth 0 w.inst.winSince n + usT (w.p K.instWinFilterUs) ≤ w.now →
    exec (.windowReturn t n) s = .next (w.winGo n false)) ∧
  (∀ (s : State) (t : Tick) (n : Nat),
    let w := s.advance t
    (n < 4 → 2 ≤ w.clk.mode → w.p (K.instFqoMode + n) ≠ 0 →
      (∀ v, w.fqoValue n = some v → exec (.fqoUpdate t n) s = .next (w.modInst fun x =>
        { x with fqos := modAt (fun _ => { failsafe := false, lastWrite := some w.now, out := w.fqoOut n v }) x.fqos n })) ∧
      (w.fqoValue n = none → exec (.fqoUpdate t n) s = .next (w.fqoFail n))) ∧
    (∀ a, (nth {} w.inst.fqos n).lastWrite = some a → a + msT (w.p K.instFqoTimeoutMs) ≤ w.now →
      exec (.fqoTimeout t n) s = .next (w.fqoFail n)))

/-- A frame's start latches layers, checks, colour map and background and fetches the surfaces, its end closes the checks,
and a waterfall row enters its layer one row's spacing after the last, index 0 where no run goes (R434 and R436 to R438).
-/
def Obligations.DisplayCommandsComplete : Prop :=
  (∀ (s : State) (t : Tick) (underruns : List (Nat × Nat)),
    let w := s.advance t
    w.scans 0 = true → exec (.dispFrameStart t underruns) s = .next
      (underruns.foldl (fun (v : State) e => if v.fetched e.1 then v.underrun e.1 e.2 else v)
        ((List.range 6).foldl State.fetchCheck ((w.modDisp fun x =>
          { x with layers := x.layers.zipIdx.map (fun e => e.1.frame (e.2 % 3 == 0) w.now), checks := x.checks.map Check.frame,
                   cmapShown := x.cmap, bgShown := w.p K.dispBgRgb, frames := x.frames + 1,
                   inFrame := true }).pulse 4 0 9 1)))) ∧
  (∀ (s : State) (t : Tick),
    let w := s.advance t
    w.disp.inFrame = true → w.scans 0 = true → exec (.dispFrameEnd t) s = .next
      (((List.range 16).foldl State.checkEnd w).modDisp fun x => { x with inFrame := false })) ∧
  (∀ (s : State) (t : Tick) (output : Nat) (d : List Byte),
    let w := s.advance t
    let n := 3 * output
    let a := (w.layer n).rowAt
    let b := a + usT (dRowUs d)
    (w.layer n).desc = some d → output ≤ 1 → w.hasOutput output = true → w.active = true → dEnable d = true → b ≤ w.now →
    exec (.waterfallRow t output) s = .next (w.modLayer n fun l =>
      { l with rowNext := (w.rowColumns d a b).map (fun (v : Option Int) =>
                 match v with
                 | some v => if w.run.state == 1 then waterIndex (dLow d) (dHigh d) v else 0
                 | none => 0) :: l.rowNext,
               rowAt := b }))

/-! Clocks, power and monitors. -/

/-- Losing and regaining a loop or a reference, a forced switch, gating, waking and draining act as the clock chapter says
(R441 to R450). -/
def Obligations.ClockCommandsComplete : Prop :=
  (∀ (s : State) (t : Tick) (loop : Nat),
    let w := s.advance t
    (w.loopLocked loop = true → exec (.loopLockLoss t loop) s = .next (w.loopLost loop)) ∧
    (w.loopLocked loop = false → w.loopRuns loop = true → w.clk.xa = true →
      let v := (w.setLock loop true).pulse 3 loop (loopDomain loop) 1
      (loop = 0 → exec (.loopLock t loop) s = .next v.calTry) ∧
      (loop = 1 → exec (.loopLock t loop) s = .next (v.modClk fun k => { k with stwOnHfo := false })) ∧
      (loop = 3 → exec (.loopLock t loop) s = .next ((v.woken [9]).modDisp fun d => { d with stopped := false })) ∧
      (loop = 2 ∨ loop = 4 → exec (.loopLock t loop) s = .next v))) ∧
  (∀ (s : State) (t : Tick),
    let w := s.advance t
    (w.clk.xa = true → exec (.xaLost t) s = .next
      (((List.range 5).foldl (fun (v : State) n => if v.loopLocked n then v.loopLost n else v)
        ((w.settle.modTime fun b => { b with backup := true, fromBackup := true }).modClk fun k =>
          { k with xa := false })).health 2 5 0 2)) ∧
    (w.clk.xa = false → exec (.xaReturn t) s = .next
      ((w.settle.modTime fun b => { b with backup := w.clk.mode == 1 }).modClk fun k => { k with xa := true })) ∧
    (w.clk.xb = true → exec (.xbLost t) s = .next
      (((w.settle.modTime fun b => { b with onLfo := true }).modClk fun k => { k with xb := false }).forcedSwitch 0)) ∧
    (w.clk.xb = false → w.sys.powered = true → exec (.xbStart t) s = .next
      ((w.settle.modTime fun b => { b with onLfo := false }).modClk fun k => { k with xb := true }))) ∧
  (∀ (s : State) (t : Tick),
    let w := s.advance t
    (w.time.onLfo = false ∨ w.clk.xb = true → exec (.clockSwitchForced t 0) s = .next
      ((w.settle.modTime fun b => { b with onLfo := !b.onLfo }).forcedSwitch 0)) ∧
    (w.clk.stwOnHfo = false ∨ w.loopLocked 1 = true → exec (.clockSwitchForced t 1) s = .next
      ((w.modClk fun k => { k with stwOnHfo := !k.stwOnHfo }).forcedSwitch 1)) ∧
    exec (.clockSwitchForced t 2) s = .next ((w.modClk fun k => { k with netOnMgmt := !k.netOnMgmt }).forcedSwitch 2) ∧
    exec (.clockSwitchForced t 3) s = .next (w.forcedSwitch 3)) ∧
  (∀ (s : State) (t : Tick) (d : Nat),
    let w := s.advance t
    let v := w.modClk fun k => { k with gated := d :: k.gated }
    (1 ≤ d → d ≤ 11 → bit (w.p K.clkGateEn) d = true → w.p K.clkClkoutSel ≠ d → w.domainRuns d = true →
      w.domainBusy d = false →
      (d = 2 → exec (.clockGate t d) s = .next v.trackStop) ∧ (d ≠ 2 → exec (.clockGate t d) s = .next v)) ∧
    exec (.clockWake t d) s = .next ((w.woken [d]).pulse 2 d 1 d)) ∧
  (∀ (s : State) (t : Tick) (accesses : List (Nat × Nat)),
    exec (.drainTimeout t accesses) s = .next (accesses.foldl (fun (v : State) a =>
      (v.bump K.clkForcedFaults).healthFull 25 a.1 0 1 a.2 a.1 1) (s.advance t))) ∧
  (∀ (s : State) (t a : Tick),
    let w := s.advance t
    w.clk.pcieStop = some a → a ≤ w.now →
    exec (.pcieEndpointStop t) s = .next (w.modClk fun k => { k with pcieStop := none, pcie := false }))

/-- A qualified power failure aborts the transition in progress and, from FULL or MAINTAIN, brings VIGIL at once and
remembers the mode; the remembered mode is taken up again after its time; a transition that reaches its mode takes effect;
a temperature of 125 °C trips, and the trip clears on a sample without one (R29, R454 and R456 to R461). -/
def Obligations.PowerCommandsComplete : Prop :=
  (∀ (s : State) (t fall : Tick) (rise : Option Tick),
    let w := s.advance t
    let due := fall + usT (w.p K.clkPwrFailFilterUs)
    let v := (w.modClk fun k => { k with pwrLow := true, pwrRise := rise }).transAborted
    due ≤ w.now → (∀ r ∈ rise, due ≤ r) →
    (v.clk.mode < 3 → exec (.pwrFailQualified t fall rise) s = .next v) ∧
    (3 ≤ v.clk.mode → exec (.pwrFailQualified t fall rise) s = .next
      ((v.modClk fun k => { k with leftMode := some v.clk.mode, leftRun := v.run.state == 1 || v.run.state == 3,
                                   pcie := false, pcieStop := none }).vigilEnter 2))) ∧
  (∀ (s : State) (t fall : Tick) (rise : Option Tick),
    let w := s.advance t
    let due := fall + usT (w.p K.clkPwrFailFilterUs)
    w.now < due ∨ (∃ r ∈ rise, r < due) → exec (.pwrFailQualified t fall rise) s = .next w) ∧
  (∀ (s : State) (t r : Tick) (m : Nat),
    let w := s.advance t
    w.clk.leftMode = some m → w.clk.pwrRise = some r → w.p K.clkPwrAutoResume ≠ 0 → w.clk.mode = 2 → w.clk.trip = false →
    w.clk.trans = none → w.pwrIsLow = false → r + secT (w.p K.clkPwrResumeS) ≤ w.now →
    exec (.pwrAutoResume t) s = .next (w.transBegin
      { who := none, source := 2, target := m, cause := 4, thenRun := w.clk.leftRun && w.p K.clkPwrAutoResume == 2 })) ∧
  (∀ (s : State) (t : Tick) (tr : Sys2Proof.Machine.Transition),
    let w := s.advance t
    w.clk.trans = some tr →
    (tr.source < tr.target → exec (.powerTransitionDone t false) s = .next (w.transFailed tr)) ∧
    (tr.target = 1 → 1 ≤ tr.source → exec (.powerTransitionDone t true) s = .next (w.standbyEnter.transReached tr)) ∧
    (tr.source = 1 → tr.target = 2 → exec (.powerTransitionDone t true) s = .next
      (let v := (if w.sill.vigilFrom.isEmpty then w.memoryLost else w.modMemc fun m => { m with power := 2 }).standbyLeave
       (((v.modClk fun k => { k with mode := 2 }).loopsForMode).apdApply.riseAll.convGo.refreshDark).transReached tr)) ∧
    (tr.source < 3 → 3 ≤ tr.target →
      exec (.powerTransitionDone t true) s = .next ((w.wakeTo tr.target tr.cause).transReached tr)) ∧
    (let v := w.runEnds false
     tr.source = 4 → tr.target = 3 →
     (v.run.state = 0 → exec (.powerTransitionDone t true) s = .next
       (((v.modClk fun k => { k with mode := 3 }).refreshDark).transReached tr)) ∧
     (v.run.state ≠ 0 → exec (.powerTransitionDone t true) s = .next v)) ∧
    (tr.source = 3 → tr.target = 4 → exec (.powerTransitionDone t true) s = .next
      ((w.modClk fun k => { k with mode := 4 }).transReached tr))) ∧
  (∀ (s : State) (t : Tick) (m : MonSample),
    let w := s.advance t
    let v := ((w.modClk fun k => { k with monAt := some w.now }).monGroup 0 m.temps 8).monGroup 1 m.volts 12
    let y := match (nth {} v.clk.temps 0).value with
      | some x => v.modRecv fun r => { r with dieTemp := x }
      | none => v
    let u := if y.clk.mode ≥ 3 && !m.procs.isEmpty && y.spaced y.clk.procAt (msT 100) then
        (y.monGroup 2 m.procs 4).modClk fun k => { k with procAt := some y.now }
      else y
    let hot := idxWhere (fun (x : Int) => decide (1250000 ≤ x)) (m.temps.take 8)
    w.clk.mode ≠ 0 → w.spaced w.clk.monAt (msT (if w.clk.mode == 1 then 100 else 1)) = true →
    (hot ≠ [] → exec (.monitorSample t m) s = .next (hot.foldl (fun (z : State) i => z.thermalTrip i) u)) ∧
    (hot = [] → exec (.monitorSample t m) s = .next
      (if u.clk.trip && !u.clk.temps.any (·.out) then u.modClk fun k => { k with trip := false } else u)))

/-! Start-up. -/

/-- Power, reset, watchdog and lockstep lead to the boot their chapter gives them; a reset that is due runs; PERST_N
empties rings and PCIe mailboxes; configuration messages, retries and waits take the boot on; the debug port reads what it
may (R70, R471 to R474, R476, R477, R479, R480, R508 and R509). -/
def Obligations.StartUpCommandsComplete : Prop :=
  (∀ (s : State) (t : Tick) (env : BootEnv),
    let w := s.advance t
    w.sys.powered = false → exec (.powerUp t env) s = .next ((w.modSys fun y =>
      { y with env := some env, attempts := 0, warmResets := [], faultProd := 0, faultCons := 0, faultSeq := 0 }).fullBoot 1)) ∧
  (∀ (s : State) (t : Tick),
    let w := s.advance t
    exec (.supplyLoss t) s = .next { State.reset with
      pending := w.pending, now := w.now, fresh := w.fresh, ilk := { highAt := w.ilk.highAt },
      emit := { State.reset.emit with modules := freshModules w.emit.modules },
      clk := { State.reset.clk with mode := 0, pwrLow := w.clk.pwrLow, pwrRise := w.clk.pwrRise } }) ∧
  (∀ (s : State) (t : Tick) (ns : Nat),
    let w := s.advance t
    (w.sys.powered = true → 1000 ≤ ns → exec (.resetN t ns) s = .next (w.fullBoot 2)) ∧
    (ns < 200 → exec (.resetN t ns) s = .next w) ∧
    (w.sys.powered = true → exec (.watchdogExpiry t) s = .next (w.stewardReset 5)) ∧
    (w.sys.powered = true → exec (.lockstepMismatch t) s = .next (w.stewardReset 6)) ∧
    exec (.warmCountExpiry t) s = .next (w.modSys fun y =>
      { y with warmResets := y.warmResets.filter (fun a => decide (w.now < a + secT 600)) })) ∧
  (∀ (s : State) (t a : Tick) (kind : Nat),
    let w := s.advance t
    w.sys.resetDue = some (kind, a) → a ≤ w.now →
    (kind = 0 → exec (.resetExecute t) s = .next (w.sendLeaving.warmStart 3)) ∧
    (kind ≠ 0 → exec (.resetExecute t) s = .next (w.sendLeaving.fullBoot 4))) ∧
  (∀ (s : State) (t : Tick),
    let w := s.advance t
    w.sys.powered = true → exec (.perstN t) s = .next
      ((List.range 16).foldl (fun (v : State) m => v.flushMbox m)
        (((w.count K.atomRingDropped (w.atom.rings.map (fun r => r.queue.length)).sum).modAtom fun a =>
          { a with rings := List.replicate 34 {}, ringCause := 0 }).modSys fun y => { y with ints := [] }))) ∧
  (∀ (s : State) (t : Tick),
    let w := s.advance t
    w.sys.bootStage = 12 → w.sys.mbReady = false → w.sys.halted = false → w.sys.cfgWait = none →
    (w.sys.cfg = [] → exec (.configMessage t) s = .next w.bootOn) ∧
    (∀ bs rest, w.sys.cfg = bs :: rest → exec (.configMessage t) s = .next
      ((w.modSys fun y => { y with cfg := rest, cfgIdx := y.cfgIdx + 1, cfgWait := some (fld bs 2 2) }).configTake bs).bootOn)) ∧
  (∀ (s : State) (t a : Tick),
    let w := s.advance t
    w.sys.retryAt = some a → a ≤ w.now →
    ∃ n, exec (.bootRetry t) s = .next ((w.tookFree.modSys fun y =>
      { y with env := y.env.map fun (e : BootEnv) =>
                 { e with loopsLock := bit n 0,
                          trainRates := (idxWhere (fun (i : Nat) => bit n (i + 1)) [0, 1, 2, 3]).map (nth 0 trainingRates) },
               attempts := min 15 (y.attempts + 1), halted := false, retryAt := none, bootCode := 0, degraded := false,
               bootStage := 0 }).boot.bootOn)) ∧
  (∀ (s : State) (t : Tick),
    let w := s.advance t
    w.sys.waitXa = true → exec (.xaCheckRetry t true) s = .next
      (w.modSys fun y => { y with env := y.env.map fun e => { e with xaRuns := true } }).boot.bootOn) ∧
  (∀ (s : State) (t a : Tick),
    let w := s.advance t
    w.sys.warmAt = some a → w.sys.mbReady = false → a + msT 800 ≤ w.now →
    exec (.warmBootTimeout t) s = .next (w.fullBoot 7)) ∧
  (∀ (s : State) (t : Tick),
    let w := s.advance t
    let gives := fun (v : List Nat) => (Host.Outcome.next (w.modSys fun y => { y with jtag := v }) : Host.Outcome State Fault Refusal)
    w.sys.powered = true →
    exec (.jtagAccess t 0) s =
      gives [b2n w.modHigh, b2n w.soaHigh, b2n (w.gateHigh 0 w.run.rmngate [])] ∧
    exec (.jtagAccess t 1) s = gives [2 ^ 28 + 0x4096 * 2 ^ 12 + 2 * (Config.jtagMaker % 2 ^ 11) + 1] ∧
    (w.prot.debug = false → exec (.jtagAccess t 2) s = gives []) ∧
    (w.prot.debug = true → exec (.jtagAccess t 2) s = .next (w.tookFree.modSys fun y => { y with jtag := [w.freeNat] })))

/-! The whole machine. -/

/-- A step runs the command at the front of the queue, with the queue's rest; on an empty queue the block idles; the table
spells no command in bits, so that no word is one. (The idle step is the model's choice, assumption 3.) -/
def Obligations.StepRunsFront : Prop :=
  (∀ (s : State) (c : Instr) (rest : List Instr), s.pending = c :: rest → step s = exec c { s with pending := rest }) ∧
  (∀ s : State, s.pending = [] → step s = .next s) ∧
  (∀ (s : State) (nbits w : Nat), decodeTableWord nbits w = none ∧ s.withFetchWord nbits w = s)

/-- After reset nothing waits and nothing runs: the mailboxes are not ready, no supply is up, every performance counter is
0, every parameter reads its default, the latch is set and every emitter channel still, and each memory is in its canonical
form (R55, R96 and R471). -/
def Obligations.ResetState : Prop :=
  State.reset.pending = [] ∧ State.reset.sys.mbReady = false ∧ State.reset.sys.powered = false ∧
    State.reset.run.state = 0 ∧ State.reset.running = [] ∧ State.reset.staged = [] ∧ State.reset.commits = [] ∧
    State.reset.counters = [] ∧ State.reset.ilk.latched = true ∧ State.reset.IlkDark ∧
    (∀ x ∈ State.reset.clk.perf, x.val = 0) ∧ State.reset.sill.dram = [] ∧ State.reset.bufs = [] ∧ State.reset.slices.tab = []

/-- Every command answers a next state that keeps the queue and moves the instant to the command's own, never back: none
faults and none is refused (R9 and R46). -/
def Obligations.CommandsKeepQueueAndInstant : Prop :=
  ∀ (s : State) (c : Instr),
    ∃ u, exec c s = .next u ∧ u.pending = s.pending ∧ u.now = max s.now (instantOf c)

/-- A request whose class is not granted to its mailbox, or whose further grant is missing, is refused with DENIED and
nothing of it is executed; otherwise one whose tag is in flight is refused with BUSY and DUPTAG, and one that finds 64 in
flight with BUSY. (The device is up, and the request does not repeat a sequence that its UDP mailbox remembers.) (R67 is
the first of these.) -/
def Obligations.RequestRefusals : Prop :=
  ∀ (s : State) (c : Instr) (t : Tick) (q : Req) (op cls : Nat) (grant : Bool),
    let w := s.advance t
    w.need c = some (t, q, op, cls, grant) → w.sys.mbReady = true ∨ q.mb = 19 → q.mb ≤ 19 → w.clk.mode ≠ 0 → w.repeatOf q = none →
    (w.holds q.mb cls = false → exec c s = .next (w.refuse (reqId q op) .denied false)) ∧
    (grant = false → q.mb ≠ 19 → exec c s = .next (w.refuse (reqId q op) .denied false)) ∧
    (w.holds q.mb cls = true → grant = true ∨ q.mb = 19 →
      ((w.mbox q.mb).inflight.contains q.tag = true → exec c s = .next (w.refuse (reqId q op) .busy true)) ∧
      ((w.mbox q.mb).inflight.contains q.tag = false → 64 ≤ (w.mbox q.mb).inflight.length →
        exec c s = .next (w.refuse (reqId q op) .busy false)))

/-- The latch clears only in a command that runs ILK_CLEAR, and only where ILK_N is high at that moment; every other
command, ILK_N's return among them, leaves a set latch set. ILK_CLEAR while ILK_N is low answers STATE and the latch stays
set; while the latch is already clear it answers OK and has no effect (R97). -/
def Obligations.LatchClearsOnlyWhileHigh : Prop :=
  (∀ (s u : State) (c : Instr), exec c s = .next u → s.ilk.latched = true → u.ilk.latched = false →
    runsIlkClear c = true ∧ ∃ h, s.ilk.highAt = some h ∧ h ≤ u.now) ∧
  (∀ (s : State) (t : Tick) (q : Req), s.Admits q cOperate true → q.mb ≠ 19 → payLen q = 0 → s.ilk.latched = true →
    (∀ h, s.ilk.highAt = some h → max s.now t < h) →
    let w := s.opened t q
    exec (.ilkClear t q) s = .next (w.final (reqId q 0x00E1) .state []) ∧
      (w.final (reqId q 0x00E1) .state []).ilk.latched = true) ∧
  (∀ (s : State) (t : Tick) (q : Req), s.Admits q cOperate true → q.mb ≠ 19 → payLen q = 0 → s.ilk.latched = false →
    exec (.ilkClear t q) s = .next ((s.opened t q).ok (reqId q 0x00E1) []))

/-- While the latch is set every emitter channel is still: output code 0, no ramp running or waiting, no loop closed or
closing. Every step keeps it, whatever it runs (R96 and R114). -/
def Obligations.InterlockDarkKept : Prop :=
  ∀ s u : State, s.IlkDark → step s = .next u → u.IlkDark

/-- No command changes the protection map, but those in which a reset or a boot runs (R68). -/
def Obligations.ProtectionMapLocked : Prop :=
  ∀ (s u : State) (c : Instr), exec c s = .next u → bootsDevice c = false → u.prot = s.prot

end
end

