-- ==== Sys2Proof/Laws/State.lean ====
section
/-!
SUPPORT. One lemma for each field of State and each named update of one block: what the update leaves there. All hold by rfl.
-/
set_option Elab.async false
namespace Sys2Proof.Machine

variable (s : State)

/-! modMbox: only `mboxes` changes. -/
@[simp] theorem State.modMbox_pending (m : Nat) (f : Mailbox → Mailbox) : (s.modMbox m f).pending = s.pending := rfl
@[simp] theorem State.modMbox_now (m : Nat) (f : Mailbox → Mailbox) : (s.modMbox m f).now = s.now := rfl
@[simp] theorem State.modMbox_fresh (m : Nat) (f : Mailbox → Mailbox) : (s.modMbox m f).fresh = s.fresh := rfl
@[simp] theorem State.modMbox_running (m : Nat) (f : Mailbox → Mailbox) : (s.modMbox m f).running = s.running := rfl
@[simp] theorem State.modMbox_staged (m : Nat) (f : Mailbox → Mailbox) : (s.modMbox m f).staged = s.staged := rfl
@[simp] theorem State.modMbox_commits (m : Nat) (f : Mailbox → Mailbox) : (s.modMbox m f).commits = s.commits := rfl
@[simp] theorem State.modMbox_counters (m : Nat) (f : Mailbox → Mailbox) : (s.modMbox m f).counters = s.counters := rfl
@[simp] theorem State.modMbox_hwSet (m : Nat) (f : Mailbox → Mailbox) : (s.modMbox m f).hwSet = s.hwSet := rfl
@[simp] theorem State.modMbox_mboxes (m : Nat) (f : Mailbox → Mailbox) : (s.modMbox m f).mboxes = modAt f s.mboxes m := rfl
@[simp] theorem State.modMbox_bufs (m : Nat) (f : Mailbox → Mailbox) : (s.modMbox m f).bufs = s.bufs := rfl
@[simp] theorem State.modMbox_prot (m : Nat) (f : Mailbox → Mailbox) : (s.modMbox m f).prot = s.prot := rfl
@[simp] theorem State.modMbox_run (m : Nat) (f : Mailbox → Mailbox) : (s.modMbox m f).run = s.run := rfl
@[simp] theorem State.modMbox_ilk (m : Nat) (f : Mailbox → Mailbox) : (s.modMbox m f).ilk = s.ilk := rfl
@[simp] theorem State.modMbox_emit (m : Nat) (f : Mailbox → Mailbox) : (s.modMbox m f).emit = s.emit := rfl
@[simp] theorem State.modMbox_recv (m : Nat) (f : Mailbox → Mailbox) : (s.modMbox m f).recv = s.recv := rfl
@[simp] theorem State.modMbox_pce (m : Nat) (f : Mailbox → Mailbox) : (s.modMbox m f).pce = s.pce := rfl
@[simp] theorem State.modMbox_sill (m : Nat) (f : Mailbox → Mailbox) : (s.modMbox m f).sill = s.sill := rfl
@[simp] theorem State.modMbox_therm (m : Nat) (f : Mailbox → Mailbox) : (s.modMbox m f).therm = s.therm := rfl
@[simp] theorem State.modMbox_zones (m : Nat) (f : Mailbox → Mailbox) : (s.modMbox m f).zones = s.zones := rfl
@[simp] theorem State.modMbox_prof (m : Nat) (f : Mailbox → Mailbox) : (s.modMbox m f).prof = s.prof := rfl
@[simp] theorem State.modMbox_cap (m : Nat) (f : Mailbox → Mailbox) : (s.modMbox m f).cap = s.cap := rfl
@[simp] theorem State.modMbox_engines (m : Nat) (f : Mailbox → Mailbox) : (s.modMbox m f).engines = s.engines := rfl
@[simp] theorem State.modMbox_atom (m : Nat) (f : Mailbox → Mailbox) : (s.modMbox m f).atom = s.atom := rfl
@[simp] theorem State.modMbox_memc (m : Nat) (f : Mailbox → Mailbox) : (s.modMbox m f).memc = s.memc := rfl
@[simp] theorem State.modMbox_slices (m : Nat) (f : Mailbox → Mailbox) : (s.modMbox m f).slices = s.slices := rfl
@[simp] theorem State.modMbox_time (m : Nat) (f : Mailbox → Mailbox) : (s.modMbox m f).time = s.time := rfl
@[simp] theorem State.modMbox_twin (m : Nat) (f : Mailbox → Mailbox) : (s.modMbox m f).twin = s.twin := rfl
@[simp] theorem State.modMbox_inst (m : Nat) (f : Mailbox → Mailbox) : (s.modMbox m f).inst = s.inst := rfl
@[simp] theorem State.modMbox_disp (m : Nat) (f : Mailbox → Mailbox) : (s.modMbox m f).disp = s.disp := rfl
@[simp] theorem State.modMbox_clk (m : Nat) (f : Mailbox → Mailbox) : (s.modMbox m f).clk = s.clk := rfl
@[simp] theorem State.modMbox_sys (m : Nat) (f : Mailbox → Mailbox) : (s.modMbox m f).sys = s.sys := rfl

/-! modRun: only `run` changes. -/
@[simp] theorem State.modRun_pending (f : Run → Run) : (s.modRun f).pending = s.pending := rfl
@[simp] theorem State.modRun_now (f : Run → Run) : (s.modRun f).now = s.now := rfl
@[simp] theorem State.modRun_fresh (f : Run → Run) : (s.modRun f).fresh = s.fresh := rfl
@[simp] theorem State.modRun_running (f : Run → Run) : (s.modRun f).running = s.running := rfl
@[simp] theorem State.modRun_staged (f : Run → Run) : (s.modRun f).staged = s.staged := rfl
@[simp] theorem State.modRun_commits (f : Run → Run) : (s.modRun f).commits = s.commits := rfl
@[simp] theorem State.modRun_counters (f : Run → Run) : (s.modRun f).counters = s.counters := rfl
@[simp] theorem State.modRun_hwSet (f : Run → Run) : (s.modRun f).hwSet = s.hwSet := rfl
@[simp] theorem State.modRun_mboxes (f : Run → Run) : (s.modRun f).mboxes = s.mboxes := rfl
@[simp] theorem State.modRun_bufs (f : Run → Run) : (s.modRun f).bufs = s.bufs := rfl
@[simp] theorem State.modRun_prot (f : Run → Run) : (s.modRun f).prot = s.prot := rfl
@[simp] theorem State.modRun_run (f : Run → Run) : (s.modRun f).run = f s.run := rfl
@[simp] theorem State.modRun_ilk (f : Run → Run) : (s.modRun f).ilk = s.ilk := rfl
@[simp] theorem State.modRun_emit (f : Run → Run) : (s.modRun f).emit = s.emit := rfl
@[simp] theorem State.modRun_recv (f : Run → Run) : (s.modRun f).recv = s.recv := rfl
@[simp] theorem State.modRun_pce (f : Run → Run) : (s.modRun f).pce = s.pce := rfl
@[simp] theorem State.modRun_sill (f : Run → Run) : (s.modRun f).sill = s.sill := rfl
@[simp] theorem State.modRun_therm (f : Run → Run) : (s.modRun f).therm = s.therm := rfl
@[simp] theorem State.modRun_zones (f : Run → Run) : (s.modRun f).zones = s.zones := rfl
@[simp] theorem State.modRun_prof (f : Run → Run) : (s.modRun f).prof = s.prof := rfl
@[simp] theorem State.modRun_cap (f : Run → Run) : (s.modRun f).cap = s.cap := rfl
@[simp] theorem State.modRun_engines (f : Run → Run) : (s.modRun f).engines = s.engines := rfl
@[simp] theorem State.modRun_atom (f : Run → Run) : (s.modRun f).atom = s.atom := rfl
@[simp] theorem State.modRun_memc (f : Run → Run) : (s.modRun f).memc = s.memc := rfl
@[simp] theorem State.modRun_slices (f : Run → Run) : (s.modRun f).slices = s.slices := rfl
@[simp] theorem State.modRun_time (f : Run → Run) : (s.modRun f).time = s.time := rfl
@[simp] theorem State.modRun_twin (f : Run → Run) : (s.modRun f).twin = s.twin := rfl
@[simp] theorem State.modRun_inst (f : Run → Run) : (s.modRun f).inst = s.inst := rfl
@[simp] theorem State.modRun_disp (f : Run → Run) : (s.modRun f).disp = s.disp := rfl
@[simp] theorem State.modRun_clk (f : Run → Run) : (s.modRun f).clk = s.clk := rfl
@[simp] theorem State.modRun_sys (f : Run → Run) : (s.modRun f).sys = s.sys := rfl

/-! modSlot: only `run` changes. -/
@[simp] theorem State.modSlot_pending (k : Nat) (f : ToneSlot → ToneSlot) : (s.modSlot k f).pending = s.pending := rfl
@[simp] theorem State.modSlot_now (k : Nat) (f : ToneSlot → ToneSlot) : (s.modSlot k f).now = s.now := rfl
@[simp] theorem State.modSlot_fresh (k : Nat) (f : ToneSlot → ToneSlot) : (s.modSlot k f).fresh = s.fresh := rfl
@[simp] theorem State.modSlot_running (k : Nat) (f : ToneSlot → ToneSlot) : (s.modSlot k f).running = s.running := rfl
@[simp] theorem State.modSlot_staged (k : Nat) (f : ToneSlot → ToneSlot) : (s.modSlot k f).staged = s.staged := rfl
@[simp] theorem State.modSlot_commits (k : Nat) (f : ToneSlot → ToneSlot) : (s.modSlot k f).commits = s.commits := rfl
@[simp] theorem State.modSlot_counters (k : Nat) (f : ToneSlot → ToneSlot) : (s.modSlot k f).counters = s.counters := rfl
@[simp] theorem State.modSlot_hwSet (k : Nat) (f : ToneSlot → ToneSlot) : (s.modSlot k f).hwSet = s.hwSet := rfl
@[simp] theorem State.modSlot_mboxes (k : Nat) (f : ToneSlot → ToneSlot) : (s.modSlot k f).mboxes = s.mboxes := rfl
@[simp] theorem State.modSlot_bufs (k : Nat) (f : ToneSlot → ToneSlot) : (s.modSlot k f).bufs = s.bufs := rfl
@[simp] theorem State.modSlot_prot (k : Nat) (f : ToneSlot → ToneSlot) : (s.modSlot k f).prot = s.prot := rfl
@[simp] theorem State.modSlot_run (k : Nat) (f : ToneSlot → ToneSlot) : (s.modSlot k f).run = { s.run with slots := modAt f s.run.slots k } := rfl
@[simp] theorem State.modSlot_ilk (k : Nat) (f : ToneSlot → ToneSlot) : (s.modSlot k f).ilk = s.ilk := rfl
@[simp] theorem State.modSlot_emit (k : Nat) (f : ToneSlot → ToneSlot) : (s.modSlot k f).emit = s.emit := rfl
@[simp] theorem State.modSlot_recv (k : Nat) (f : ToneSlot → ToneSlot) : (s.modSlot k f).recv = s.recv := rfl
@[simp] theorem State.modSlot_pce (k : Nat) (f : ToneSlot → ToneSlot) : (s.modSlot k f).pce = s.pce := rfl
@[simp] theorem State.modSlot_sill (k : Nat) (f : ToneSlot → ToneSlot) : (s.modSlot k f).sill = s.sill := rfl
@[simp] theorem State.modSlot_therm (k : Nat) (f : ToneSlot → ToneSlot) : (s.modSlot k f).therm = s.therm := rfl
@[simp] theorem State.modSlot_zones (k : Nat) (f : ToneSlot → ToneSlot) : (s.modSlot k f).zones = s.zones := rfl
@[simp] theorem State.modSlot_prof (k : Nat) (f : ToneSlot → ToneSlot) : (s.modSlot k f).prof = s.prof := rfl
@[simp] theorem State.modSlot_cap (k : Nat) (f : ToneSlot → ToneSlot) : (s.modSlot k f).cap = s.cap := rfl
@[simp] theorem State.modSlot_engines (k : Nat) (f : ToneSlot → ToneSlot) : (s.modSlot k f).engines = s.engines := rfl
@[simp] theorem State.modSlot_atom (k : Nat) (f : ToneSlot → ToneSlot) : (s.modSlot k f).atom = s.atom := rfl
@[simp] theorem State.modSlot_memc (k : Nat) (f : ToneSlot → ToneSlot) : (s.modSlot k f).memc = s.memc := rfl
@[simp] theorem State.modSlot_slices (k : Nat) (f : ToneSlot → ToneSlot) : (s.modSlot k f).slices = s.slices := rfl
@[simp] theorem State.modSlot_time (k : Nat) (f : ToneSlot → ToneSlot) : (s.modSlot k f).time = s.time := rfl
@[simp] theorem State.modSlot_twin (k : Nat) (f : ToneSlot → ToneSlot) : (s.modSlot k f).twin = s.twin := rfl
@[simp] theorem State.modSlot_inst (k : Nat) (f : ToneSlot → ToneSlot) : (s.modSlot k f).inst = s.inst := rfl
@[simp] theorem State.modSlot_disp (k : Nat) (f : ToneSlot → ToneSlot) : (s.modSlot k f).disp = s.disp := rfl
@[simp] theorem State.modSlot_clk (k : Nat) (f : ToneSlot → ToneSlot) : (s.modSlot k f).clk = s.clk := rfl
@[simp] theorem State.modSlot_sys (k : Nat) (f : ToneSlot → ToneSlot) : (s.modSlot k f).sys = s.sys := rfl

/-! modEmit: only `emit` changes. -/
@[simp] theorem State.modEmit_pending (f : Emit → Emit) : (s.modEmit f).pending = s.pending := rfl
@[simp] theorem State.modEmit_now (f : Emit → Emit) : (s.modEmit f).now = s.now := rfl
@[simp] theorem State.modEmit_fresh (f : Emit → Emit) : (s.modEmit f).fresh = s.fresh := rfl
@[simp] theorem State.modEmit_running (f : Emit → Emit) : (s.modEmit f).running = s.running := rfl
@[simp] theorem State.modEmit_staged (f : Emit → Emit) : (s.modEmit f).staged = s.staged := rfl
@[simp] theorem State.modEmit_commits (f : Emit → Emit) : (s.modEmit f).commits = s.commits := rfl
@[simp] theorem State.modEmit_counters (f : Emit → Emit) : (s.modEmit f).counters = s.counters := rfl
@[simp] theorem State.modEmit_hwSet (f : Emit → Emit) : (s.modEmit f).hwSet = s.hwSet := rfl
@[simp] theorem State.modEmit_mboxes (f : Emit → Emit) : (s.modEmit f).mboxes = s.mboxes := rfl
@[simp] theorem State.modEmit_bufs (f : Emit → Emit) : (s.modEmit f).bufs = s.bufs := rfl
@[simp] theorem State.modEmit_prot (f : Emit → Emit) : (s.modEmit f).prot = s.prot := rfl
@[simp] theorem State.modEmit_run (f : Emit → Emit) : (s.modEmit f).run = s.run := rfl
@[simp] theorem State.modEmit_ilk (f : Emit → Emit) : (s.modEmit f).ilk = s.ilk := rfl
@[simp] theorem State.modEmit_emit (f : Emit → Emit) : (s.modEmit f).emit = f s.emit := rfl
@[simp] theorem State.modEmit_recv (f : Emit → Emit) : (s.modEmit f).recv = s.recv := rfl
@[simp] theorem State.modEmit_pce (f : Emit → Emit) : (s.modEmit f).pce = s.pce := rfl
@[simp] theorem State.modEmit_sill (f : Emit → Emit) : (s.modEmit f).sill = s.sill := rfl
@[simp] theorem State.modEmit_therm (f : Emit → Emit) : (s.modEmit f).therm = s.therm := rfl
@[simp] theorem State.modEmit_zones (f : Emit → Emit) : (s.modEmit f).zones = s.zones := rfl
@[simp] theorem State.modEmit_prof (f : Emit → Emit) : (s.modEmit f).prof = s.prof := rfl
@[simp] theorem State.modEmit_cap (f : Emit → Emit) : (s.modEmit f).cap = s.cap := rfl
@[simp] theorem State.modEmit_engines (f : Emit → Emit) : (s.modEmit f).engines = s.engines := rfl
@[simp] theorem State.modEmit_atom (f : Emit → Emit) : (s.modEmit f).atom = s.atom := rfl
@[simp] theorem State.modEmit_memc (f : Emit → Emit) : (s.modEmit f).memc = s.memc := rfl
@[simp] theorem State.modEmit_slices (f : Emit → Emit) : (s.modEmit f).slices = s.slices := rfl
@[simp] theorem State.modEmit_time (f : Emit → Emit) : (s.modEmit f).time = s.time := rfl
@[simp] theorem State.modEmit_twin (f : Emit → Emit) : (s.modEmit f).twin = s.twin := rfl
@[simp] theorem State.modEmit_inst (f : Emit → Emit) : (s.modEmit f).inst = s.inst := rfl
@[simp] theorem State.modEmit_disp (f : Emit → Emit) : (s.modEmit f).disp = s.disp := rfl
@[simp] theorem State.modEmit_clk (f : Emit → Emit) : (s.modEmit f).clk = s.clk := rfl
@[simp] theorem State.modEmit_sys (f : Emit → Emit) : (s.modEmit f).sys = s.sys := rfl

/-! modCh: only `emit` changes. -/
@[simp] theorem State.modCh_pending (c : Nat) (f : EmitCh → EmitCh) : (s.modCh c f).pending = s.pending := rfl
@[simp] theorem State.modCh_now (c : Nat) (f : EmitCh → EmitCh) : (s.modCh c f).now = s.now := rfl
@[simp] theorem State.modCh_fresh (c : Nat) (f : EmitCh → EmitCh) : (s.modCh c f).fresh = s.fresh := rfl
@[simp] theorem State.modCh_running (c : Nat) (f : EmitCh → EmitCh) : (s.modCh c f).running = s.running := rfl
@[simp] theorem State.modCh_staged (c : Nat) (f : EmitCh → EmitCh) : (s.modCh c f).staged = s.staged := rfl
@[simp] theorem State.modCh_commits (c : Nat) (f : EmitCh → EmitCh) : (s.modCh c f).commits = s.commits := rfl
@[simp] theorem State.modCh_counters (c : Nat) (f : EmitCh → EmitCh) : (s.modCh c f).counters = s.counters := rfl
@[simp] theorem State.modCh_hwSet (c : Nat) (f : EmitCh → EmitCh) : (s.modCh c f).hwSet = s.hwSet := rfl
@[simp] theorem State.modCh_mboxes (c : Nat) (f : EmitCh → EmitCh) : (s.modCh c f).mboxes = s.mboxes := rfl
@[simp] theorem State.modCh_bufs (c : Nat) (f : EmitCh → EmitCh) : (s.modCh c f).bufs = s.bufs := rfl
@[simp] theorem State.modCh_prot (c : Nat) (f : EmitCh → EmitCh) : (s.modCh c f).prot = s.prot := rfl
@[simp] theorem State.modCh_run (c : Nat) (f : EmitCh → EmitCh) : (s.modCh c f).run = s.run := rfl
@[simp] theorem State.modCh_ilk (c : Nat) (f : EmitCh → EmitCh) : (s.modCh c f).ilk = s.ilk := rfl
@[simp] theorem State.modCh_emit (c : Nat) (f : EmitCh → EmitCh) : (s.modCh c f).emit = { s.emit with chans := modAt f s.emit.chans c } := rfl
@[simp] theorem State.modCh_recv (c : Nat) (f : EmitCh → EmitCh) : (s.modCh c f).recv = s.recv := rfl
@[simp] theorem State.modCh_pce (c : Nat) (f : EmitCh → EmitCh) : (s.modCh c f).pce = s.pce := rfl
@[simp] theorem State.modCh_sill (c : Nat) (f : EmitCh → EmitCh) : (s.modCh c f).sill = s.sill := rfl
@[simp] theorem State.modCh_therm (c : Nat) (f : EmitCh → EmitCh) : (s.modCh c f).therm = s.therm := rfl
@[simp] theorem State.modCh_zones (c : Nat) (f : EmitCh → EmitCh) : (s.modCh c f).zones = s.zones := rfl
@[simp] theorem State.modCh_prof (c : Nat) (f : EmitCh → EmitCh) : (s.modCh c f).prof = s.prof := rfl
@[simp] theorem State.modCh_cap (c : Nat) (f : EmitCh → EmitCh) : (s.modCh c f).cap = s.cap := rfl
@[simp] theorem State.modCh_engines (c : Nat) (f : EmitCh → EmitCh) : (s.modCh c f).engines = s.engines := rfl
@[simp] theorem State.modCh_atom (c : Nat) (f : EmitCh → EmitCh) : (s.modCh c f).atom = s.atom := rfl
@[simp] theorem State.modCh_memc (c : Nat) (f : EmitCh → EmitCh) : (s.modCh c f).memc = s.memc := rfl
@[simp] theorem State.modCh_slices (c : Nat) (f : EmitCh → EmitCh) : (s.modCh c f).slices = s.slices := rfl
@[simp] theorem State.modCh_time (c : Nat) (f : EmitCh → EmitCh) : (s.modCh c f).time = s.time := rfl
@[simp] theorem State.modCh_twin (c : Nat) (f : EmitCh → EmitCh) : (s.modCh c f).twin = s.twin := rfl
@[simp] theorem State.modCh_inst (c : Nat) (f : EmitCh → EmitCh) : (s.modCh c f).inst = s.inst := rfl
@[simp] theorem State.modCh_disp (c : Nat) (f : EmitCh → EmitCh) : (s.modCh c f).disp = s.disp := rfl
@[simp] theorem State.modCh_clk (c : Nat) (f : EmitCh → EmitCh) : (s.modCh c f).clk = s.clk := rfl
@[simp] theorem State.modCh_sys (c : Nat) (f : EmitCh → EmitCh) : (s.modCh c f).sys = s.sys := rfl

/-! modModule: only `emit` changes. -/
@[simp] theorem State.modModule_pending (c : Nat) (f : Module → Module) : (s.modModule c f).pending = s.pending := rfl
@[simp] theorem State.modModule_now (c : Nat) (f : Module → Module) : (s.modModule c f).now = s.now := rfl
@[simp] theorem State.modModule_fresh (c : Nat) (f : Module → Module) : (s.modModule c f).fresh = s.fresh := rfl
@[simp] theorem State.modModule_running (c : Nat) (f : Module → Module) : (s.modModule c f).running = s.running := rfl
@[simp] theorem State.modModule_staged (c : Nat) (f : Module → Module) : (s.modModule c f).staged = s.staged := rfl
@[simp] theorem State.modModule_commits (c : Nat) (f : Module → Module) : (s.modModule c f).commits = s.commits := rfl
@[simp] theorem State.modModule_counters (c : Nat) (f : Module → Module) : (s.modModule c f).counters = s.counters := rfl
@[simp] theorem State.modModule_hwSet (c : Nat) (f : Module → Module) : (s.modModule c f).hwSet = s.hwSet := rfl
@[simp] theorem State.modModule_mboxes (c : Nat) (f : Module → Module) : (s.modModule c f).mboxes = s.mboxes := rfl
@[simp] theorem State.modModule_bufs (c : Nat) (f : Module → Module) : (s.modModule c f).bufs = s.bufs := rfl
@[simp] theorem State.modModule_prot (c : Nat) (f : Module → Module) : (s.modModule c f).prot = s.prot := rfl
@[simp] theorem State.modModule_run (c : Nat) (f : Module → Module) : (s.modModule c f).run = s.run := rfl
@[simp] theorem State.modModule_ilk (c : Nat) (f : Module → Module) : (s.modModule c f).ilk = s.ilk := rfl
@[simp] theorem State.modModule_emit (c : Nat) (f : Module → Module) : (s.modModule c f).emit = { s.emit with modules := modAt f s.emit.modules c } := rfl
@[simp] theorem State.modModule_recv (c : Nat) (f : Module → Module) : (s.modModule c f).recv = s.recv := rfl
@[simp] theorem State.modModule_pce (c : Nat) (f : Module → Module) : (s.modModule c f).pce = s.pce := rfl
@[simp] theorem State.modModule_sill (c : Nat) (f : Module → Module) : (s.modModule c f).sill = s.sill := rfl
@[simp] theorem State.modModule_therm (c : Nat) (f : Module → Module) : (s.modModule c f).therm = s.therm := rfl
@[simp] theorem State.modModule_zones (c : Nat) (f : Module → Module) : (s.modModule c f).zones = s.zones := rfl
@[simp] theorem State.modModule_prof (c : Nat) (f : Module → Module) : (s.modModule c f).prof = s.prof := rfl
@[simp] theorem State.modModule_cap (c : Nat) (f : Module → Module) : (s.modModule c f).cap = s.cap := rfl
@[simp] theorem State.modModule_engines (c : Nat) (f : Module → Module) : (s.modModule c f).engines = s.engines := rfl
@[simp] theorem State.modModule_atom (c : Nat) (f : Module → Module) : (s.modModule c f).atom = s.atom := rfl
@[simp] theorem State.modModule_memc (c : Nat) (f : Module → Module) : (s.modModule c f).memc = s.memc := rfl
@[simp] theorem State.modModule_slices (c : Nat) (f : Module → Module) : (s.modModule c f).slices = s.slices := rfl
@[simp] theorem State.modModule_time (c : Nat) (f : Module → Module) : (s.modModule c f).time = s.time := rfl
@[simp] theorem State.modModule_twin (c : Nat) (f : Module → Module) : (s.modModule c f).twin = s.twin := rfl
@[simp] theorem State.modModule_inst (c : Nat) (f : Module → Module) : (s.modModule c f).inst = s.inst := rfl
@[simp] theorem State.modModule_disp (c : Nat) (f : Module → Module) : (s.modModule c f).disp = s.disp := rfl
@[simp] theorem State.modModule_clk (c : Nat) (f : Module → Module) : (s.modModule c f).clk = s.clk := rfl
@[simp] theorem State.modModule_sys (c : Nat) (f : Module → Module) : (s.modModule c f).sys = s.sys := rfl

/-! modRecv: only `recv` changes. -/
@[simp] theorem State.modRecv_pending (f : Recv → Recv) : (s.modRecv f).pending = s.pending := rfl
@[simp] theorem State.modRecv_now (f : Recv → Recv) : (s.modRecv f).now = s.now := rfl
@[simp] theorem State.modRecv_fresh (f : Recv → Recv) : (s.modRecv f).fresh = s.fresh := rfl
@[simp] theorem State.modRecv_running (f : Recv → Recv) : (s.modRecv f).running = s.running := rfl
@[simp] theorem State.modRecv_staged (f : Recv → Recv) : (s.modRecv f).staged = s.staged := rfl
@[simp] theorem State.modRecv_commits (f : Recv → Recv) : (s.modRecv f).commits = s.commits := rfl
@[simp] theorem State.modRecv_counters (f : Recv → Recv) : (s.modRecv f).counters = s.counters := rfl
@[simp] theorem State.modRecv_hwSet (f : Recv → Recv) : (s.modRecv f).hwSet = s.hwSet := rfl
@[simp] theorem State.modRecv_mboxes (f : Recv → Recv) : (s.modRecv f).mboxes = s.mboxes := rfl
@[simp] theorem State.modRecv_bufs (f : Recv → Recv) : (s.modRecv f).bufs = s.bufs := rfl
@[simp] theorem State.modRecv_prot (f : Recv → Recv) : (s.modRecv f).prot = s.prot := rfl
@[simp] theorem State.modRecv_run (f : Recv → Recv) : (s.modRecv f).run = s.run := rfl
@[simp] theorem State.modRecv_ilk (f : Recv → Recv) : (s.modRecv f).ilk = s.ilk := rfl
@[simp] theorem State.modRecv_emit (f : Recv → Recv) : (s.modRecv f).emit = s.emit := rfl
@[simp] theorem State.modRecv_recv (f : Recv → Recv) : (s.modRecv f).recv = f s.recv := rfl
@[simp] theorem State.modRecv_pce (f : Recv → Recv) : (s.modRecv f).pce = s.pce := rfl
@[simp] theorem State.modRecv_sill (f : Recv → Recv) : (s.modRecv f).sill = s.sill := rfl
@[simp] theorem State.modRecv_therm (f : Recv → Recv) : (s.modRecv f).therm = s.therm := rfl
@[simp] theorem State.modRecv_zones (f : Recv → Recv) : (s.modRecv f).zones = s.zones := rfl
@[simp] theorem State.modRecv_prof (f : Recv → Recv) : (s.modRecv f).prof = s.prof := rfl
@[simp] theorem State.modRecv_cap (f : Recv → Recv) : (s.modRecv f).cap = s.cap := rfl
@[simp] theorem State.modRecv_engines (f : Recv → Recv) : (s.modRecv f).engines = s.engines := rfl
@[simp] theorem State.modRecv_atom (f : Recv → Recv) : (s.modRecv f).atom = s.atom := rfl
@[simp] theorem State.modRecv_memc (f : Recv → Recv) : (s.modRecv f).memc = s.memc := rfl
@[simp] theorem State.modRecv_slices (f : Recv → Recv) : (s.modRecv f).slices = s.slices := rfl
@[simp] theorem State.modRecv_time (f : Recv → Recv) : (s.modRecv f).time = s.time := rfl
@[simp] theorem State.modRecv_twin (f : Recv → Recv) : (s.modRecv f).twin = s.twin := rfl
@[simp] theorem State.modRecv_inst (f : Recv → Recv) : (s.modRecv f).inst = s.inst := rfl
@[simp] theorem State.modRecv_disp (f : Recv → Recv) : (s.modRecv f).disp = s.disp := rfl
@[simp] theorem State.modRecv_clk (f : Recv → Recv) : (s.modRecv f).clk = s.clk := rfl
@[simp] theorem State.modRecv_sys (f : Recv → Recv) : (s.modRecv f).sys = s.sys := rfl

/-! modPce: only `pce` changes. -/
@[simp] theorem State.modPce_pending (f : Pce → Pce) : (s.modPce f).pending = s.pending := rfl
@[simp] theorem State.modPce_now (f : Pce → Pce) : (s.modPce f).now = s.now := rfl
@[simp] theorem State.modPce_fresh (f : Pce → Pce) : (s.modPce f).fresh = s.fresh := rfl
@[simp] theorem State.modPce_running (f : Pce → Pce) : (s.modPce f).running = s.running := rfl
@[simp] theorem State.modPce_staged (f : Pce → Pce) : (s.modPce f).staged = s.staged := rfl
@[simp] theorem State.modPce_commits (f : Pce → Pce) : (s.modPce f).commits = s.commits := rfl
@[simp] theorem State.modPce_counters (f : Pce → Pce) : (s.modPce f).counters = s.counters := rfl
@[simp] theorem State.modPce_hwSet (f : Pce → Pce) : (s.modPce f).hwSet = s.hwSet := rfl
@[simp] theorem State.modPce_mboxes (f : Pce → Pce) : (s.modPce f).mboxes = s.mboxes := rfl
@[simp] theorem State.modPce_bufs (f : Pce → Pce) : (s.modPce f).bufs = s.bufs := rfl
@[simp] theorem State.modPce_prot (f : Pce → Pce) : (s.modPce f).prot = s.prot := rfl
@[simp] theorem State.modPce_run (f : Pce → Pce) : (s.modPce f).run = s.run := rfl
@[simp] theorem State.modPce_ilk (f : Pce → Pce) : (s.modPce f).ilk = s.ilk := rfl
@[simp] theorem State.modPce_emit (f : Pce → Pce) : (s.modPce f).emit = s.emit := rfl
@[simp] theorem State.modPce_recv (f : Pce → Pce) : (s.modPce f).recv = s.recv := rfl
@[simp] theorem State.modPce_pce (f : Pce → Pce) : (s.modPce f).pce = f s.pce := rfl
@[simp] theorem State.modPce_sill (f : Pce → Pce) : (s.modPce f).sill = s.sill := rfl
@[simp] theorem State.modPce_therm (f : Pce → Pce) : (s.modPce f).therm = s.therm := rfl
@[simp] theorem State.modPce_zones (f : Pce → Pce) : (s.modPce f).zones = s.zones := rfl
@[simp] theorem State.modPce_prof (f : Pce → Pce) : (s.modPce f).prof = s.prof := rfl
@[simp] theorem State.modPce_cap (f : Pce → Pce) : (s.modPce f).cap = s.cap := rfl
@[simp] theorem State.modPce_engines (f : Pce → Pce) : (s.modPce f).engines = s.engines := rfl
@[simp] theorem State.modPce_atom (f : Pce → Pce) : (s.modPce f).atom = s.atom := rfl
@[simp] theorem State.modPce_memc (f : Pce → Pce) : (s.modPce f).memc = s.memc := rfl
@[simp] theorem State.modPce_slices (f : Pce → Pce) : (s.modPce f).slices = s.slices := rfl
@[simp] theorem State.modPce_time (f : Pce → Pce) : (s.modPce f).time = s.time := rfl
@[simp] theorem State.modPce_twin (f : Pce → Pce) : (s.modPce f).twin = s.twin := rfl
@[simp] theorem State.modPce_inst (f : Pce → Pce) : (s.modPce f).inst = s.inst := rfl
@[simp] theorem State.modPce_disp (f : Pce → Pce) : (s.modPce f).disp = s.disp := rfl
@[simp] theorem State.modPce_clk (f : Pce → Pce) : (s.modPce f).clk = s.clk := rfl
@[simp] theorem State.modPce_sys (f : Pce → Pce) : (s.modPce f).sys = s.sys := rfl

/-! modSill: only `sill` changes. -/
@[simp] theorem State.modSill_pending (f : Sillage → Sillage) : (s.modSill f).pending = s.pending := rfl
@[simp] theorem State.modSill_now (f : Sillage → Sillage) : (s.modSill f).now = s.now := rfl
@[simp] theorem State.modSill_fresh (f : Sillage → Sillage) : (s.modSill f).fresh = s.fresh := rfl
@[simp] theorem State.modSill_running (f : Sillage → Sillage) : (s.modSill f).running = s.running := rfl
@[simp] theorem State.modSill_staged (f : Sillage → Sillage) : (s.modSill f).staged = s.staged := rfl
@[simp] theorem State.modSill_commits (f : Sillage → Sillage) : (s.modSill f).commits = s.commits := rfl
@[simp] theorem State.modSill_counters (f : Sillage → Sillage) : (s.modSill f).counters = s.counters := rfl
@[simp] theorem State.modSill_hwSet (f : Sillage → Sillage) : (s.modSill f).hwSet = s.hwSet := rfl
@[simp] theorem State.modSill_mboxes (f : Sillage → Sillage) : (s.modSill f).mboxes = s.mboxes := rfl
@[simp] theorem State.modSill_bufs (f : Sillage → Sillage) : (s.modSill f).bufs = s.bufs := rfl
@[simp] theorem State.modSill_prot (f : Sillage → Sillage) : (s.modSill f).prot = s.prot := rfl
@[simp] theorem State.modSill_run (f : Sillage → Sillage) : (s.modSill f).run = s.run := rfl
@[simp] theorem State.modSill_ilk (f : Sillage → Sillage) : (s.modSill f).ilk = s.ilk := rfl
@[simp] theorem State.modSill_emit (f : Sillage → Sillage) : (s.modSill f).emit = s.emit := rfl
@[simp] theorem State.modSill_recv (f : Sillage → Sillage) : (s.modSill f).recv = s.recv := rfl
@[simp] theorem State.modSill_pce (f : Sillage → Sillage) : (s.modSill f).pce = s.pce := rfl
@[simp] theorem State.modSill_sill (f : Sillage → Sillage) : (s.modSill f).sill = f s.sill := rfl
@[simp] theorem State.modSill_therm (f : Sillage → Sillage) : (s.modSill f).therm = s.therm := rfl
@[simp] theorem State.modSill_zones (f : Sillage → Sillage) : (s.modSill f).zones = s.zones := rfl
@[simp] theorem State.modSill_prof (f : Sillage → Sillage) : (s.modSill f).prof = s.prof := rfl
@[simp] theorem State.modSill_cap (f : Sillage → Sillage) : (s.modSill f).cap = s.cap := rfl
@[simp] theorem State.modSill_engines (f : Sillage → Sillage) : (s.modSill f).engines = s.engines := rfl
@[simp] theorem State.modSill_atom (f : Sillage → Sillage) : (s.modSill f).atom = s.atom := rfl
@[simp] theorem State.modSill_memc (f : Sillage → Sillage) : (s.modSill f).memc = s.memc := rfl
@[simp] theorem State.modSill_slices (f : Sillage → Sillage) : (s.modSill f).slices = s.slices := rfl
@[simp] theorem State.modSill_time (f : Sillage → Sillage) : (s.modSill f).time = s.time := rfl
@[simp] theorem State.modSill_twin (f : Sillage → Sillage) : (s.modSill f).twin = s.twin := rfl
@[simp] theorem State.modSill_inst (f : Sillage → Sillage) : (s.modSill f).inst = s.inst := rfl
@[simp] theorem State.modSill_disp (f : Sillage → Sillage) : (s.modSill f).disp = s.disp := rfl
@[simp] theorem State.modSill_clk (f : Sillage → Sillage) : (s.modSill f).clk = s.clk := rfl
@[simp] theorem State.modSill_sys (f : Sillage → Sillage) : (s.modSill f).sys = s.sys := rfl

/-! modTherm: only `therm` changes. -/
@[simp] theorem State.modTherm_pending (f : Therm → Therm) : (s.modTherm f).pending = s.pending := rfl
@[simp] theorem State.modTherm_now (f : Therm → Therm) : (s.modTherm f).now = s.now := rfl
@[simp] theorem State.modTherm_fresh (f : Therm → Therm) : (s.modTherm f).fresh = s.fresh := rfl
@[simp] theorem State.modTherm_running (f : Therm → Therm) : (s.modTherm f).running = s.running := rfl
@[simp] theorem State.modTherm_staged (f : Therm → Therm) : (s.modTherm f).staged = s.staged := rfl
@[simp] theorem State.modTherm_commits (f : Therm → Therm) : (s.modTherm f).commits = s.commits := rfl
@[simp] theorem State.modTherm_counters (f : Therm → Therm) : (s.modTherm f).counters = s.counters := rfl
@[simp] theorem State.modTherm_hwSet (f : Therm → Therm) : (s.modTherm f).hwSet = s.hwSet := rfl
@[simp] theorem State.modTherm_mboxes (f : Therm → Therm) : (s.modTherm f).mboxes = s.mboxes := rfl
@[simp] theorem State.modTherm_bufs (f : Therm → Therm) : (s.modTherm f).bufs = s.bufs := rfl
@[simp] theorem State.modTherm_prot (f : Therm → Therm) : (s.modTherm f).prot = s.prot := rfl
@[simp] theorem State.modTherm_run (f : Therm → Therm) : (s.modTherm f).run = s.run := rfl
@[simp] theorem State.modTherm_ilk (f : Therm → Therm) : (s.modTherm f).ilk = s.ilk := rfl
@[simp] theorem State.modTherm_emit (f : Therm → Therm) : (s.modTherm f).emit = s.emit := rfl
@[simp] theorem State.modTherm_recv (f : Therm → Therm) : (s.modTherm f).recv = s.recv := rfl
@[simp] theorem State.modTherm_pce (f : Therm → Therm) : (s.modTherm f).pce = s.pce := rfl
@[simp] theorem State.modTherm_sill (f : Therm → Therm) : (s.modTherm f).sill = s.sill := rfl
@[simp] theorem State.modTherm_therm (f : Therm → Therm) : (s.modTherm f).therm = f s.therm := rfl
@[simp] theorem State.modTherm_zones (f : Therm → Therm) : (s.modTherm f).zones = s.zones := rfl
@[simp] theorem State.modTherm_prof (f : Therm → Therm) : (s.modTherm f).prof = s.prof := rfl
@[simp] theorem State.modTherm_cap (f : Therm → Therm) : (s.modTherm f).cap = s.cap := rfl
@[simp] theorem State.modTherm_engines (f : Therm → Therm) : (s.modTherm f).engines = s.engines := rfl
@[simp] theorem State.modTherm_atom (f : Therm → Therm) : (s.modTherm f).atom = s.atom := rfl
@[simp] theorem State.modTherm_memc (f : Therm → Therm) : (s.modTherm f).memc = s.memc := rfl
@[simp] theorem State.modTherm_slices (f : Therm → Therm) : (s.modTherm f).slices = s.slices := rfl
@[simp] theorem State.modTherm_time (f : Therm → Therm) : (s.modTherm f).time = s.time := rfl
@[simp] theorem State.modTherm_twin (f : Therm → Therm) : (s.modTherm f).twin = s.twin := rfl
@[simp] theorem State.modTherm_inst (f : Therm → Therm) : (s.modTherm f).inst = s.inst := rfl
@[simp] theorem State.modTherm_disp (f : Therm → Therm) : (s.modTherm f).disp = s.disp := rfl
@[simp] theorem State.modTherm_clk (f : Therm → Therm) : (s.modTherm f).clk = s.clk := rfl
@[simp] theorem State.modTherm_sys (f : Therm → Therm) : (s.modTherm f).sys = s.sys := rfl

/-! modProf: only `prof` changes. -/
@[simp] theorem State.modProf_pending (f : Profile → Profile) : (s.modProf f).pending = s.pending := rfl
@[simp] theorem State.modProf_now (f : Profile → Profile) : (s.modProf f).now = s.now := rfl
@[simp] theorem State.modProf_fresh (f : Profile → Profile) : (s.modProf f).fresh = s.fresh := rfl
@[simp] theorem State.modProf_running (f : Profile → Profile) : (s.modProf f).running = s.running := rfl
@[simp] theorem State.modProf_staged (f : Profile → Profile) : (s.modProf f).staged = s.staged := rfl
@[simp] theorem State.modProf_commits (f : Profile → Profile) : (s.modProf f).commits = s.commits := rfl
@[simp] theorem State.modProf_counters (f : Profile → Profile) : (s.modProf f).counters = s.counters := rfl
@[simp] theorem State.modProf_hwSet (f : Profile → Profile) : (s.modProf f).hwSet = s.hwSet := rfl
@[simp] theorem State.modProf_mboxes (f : Profile → Profile) : (s.modProf f).mboxes = s.mboxes := rfl
@[simp] theorem State.modProf_bufs (f : Profile → Profile) : (s.modProf f).bufs = s.bufs := rfl
@[simp] theorem State.modProf_prot (f : Profile → Profile) : (s.modProf f).prot = s.prot := rfl
@[simp] theorem State.modProf_run (f : Profile → Profile) : (s.modProf f).run = s.run := rfl
@[simp] theorem State.modProf_ilk (f : Profile → Profile) : (s.modProf f).ilk = s.ilk := rfl
@[simp] theorem State.modProf_emit (f : Profile → Profile) : (s.modProf f).emit = s.emit := rfl
@[simp] theorem State.modProf_recv (f : Profile → Profile) : (s.modProf f).recv = s.recv := rfl
@[simp] theorem State.modProf_pce (f : Profile → Profile) : (s.modProf f).pce = s.pce := rfl
@[simp] theorem State.modProf_sill (f : Profile → Profile) : (s.modProf f).sill = s.sill := rfl
@[simp] theorem State.modProf_therm (f : Profile → Profile) : (s.modProf f).therm = s.therm := rfl
@[simp] theorem State.modProf_zones (f : Profile → Profile) : (s.modProf f).zones = s.zones := rfl
@[simp] theorem State.modProf_prof (f : Profile → Profile) : (s.modProf f).prof = f s.prof := rfl
@[simp] theorem State.modProf_cap (f : Profile → Profile) : (s.modProf f).cap = s.cap := rfl
@[simp] theorem State.modProf_engines (f : Profile → Profile) : (s.modProf f).engines = s.engines := rfl
@[simp] theorem State.modProf_atom (f : Profile → Profile) : (s.modProf f).atom = s.atom := rfl
@[simp] theorem State.modProf_memc (f : Profile → Profile) : (s.modProf f).memc = s.memc := rfl
@[simp] theorem State.modProf_slices (f : Profile → Profile) : (s.modProf f).slices = s.slices := rfl
@[simp] theorem State.modProf_time (f : Profile → Profile) : (s.modProf f).time = s.time := rfl
@[simp] theorem State.modProf_twin (f : Profile → Profile) : (s.modProf f).twin = s.twin := rfl
@[simp] theorem State.modProf_inst (f : Profile → Profile) : (s.modProf f).inst = s.inst := rfl
@[simp] theorem State.modProf_disp (f : Profile → Profile) : (s.modProf f).disp = s.disp := rfl
@[simp] theorem State.modProf_clk (f : Profile → Profile) : (s.modProf f).clk = s.clk := rfl
@[simp] theorem State.modProf_sys (f : Profile → Profile) : (s.modProf f).sys = s.sys := rfl

/-! modZone: only `zones` changes. -/
@[simp] theorem State.modZone_pending (z : Nat) (f : Zone → Zone) : (s.modZone z f).pending = s.pending := rfl
@[simp] theorem State.modZone_now (z : Nat) (f : Zone → Zone) : (s.modZone z f).now = s.now := rfl
@[simp] theorem State.modZone_fresh (z : Nat) (f : Zone → Zone) : (s.modZone z f).fresh = s.fresh := rfl
@[simp] theorem State.modZone_running (z : Nat) (f : Zone → Zone) : (s.modZone z f).running = s.running := rfl
@[simp] theorem State.modZone_staged (z : Nat) (f : Zone → Zone) : (s.modZone z f).staged = s.staged := rfl
@[simp] theorem State.modZone_commits (z : Nat) (f : Zone → Zone) : (s.modZone z f).commits = s.commits := rfl
@[simp] theorem State.modZone_counters (z : Nat) (f : Zone → Zone) : (s.modZone z f).counters = s.counters := rfl
@[simp] theorem State.modZone_hwSet (z : Nat) (f : Zone → Zone) : (s.modZone z f).hwSet = s.hwSet := rfl
@[simp] theorem State.modZone_mboxes (z : Nat) (f : Zone → Zone) : (s.modZone z f).mboxes = s.mboxes := rfl
@[simp] theorem State.modZone_bufs (z : Nat) (f : Zone → Zone) : (s.modZone z f).bufs = s.bufs := rfl
@[simp] theorem State.modZone_prot (z : Nat) (f : Zone → Zone) : (s.modZone z f).prot = s.prot := rfl
@[simp] theorem State.modZone_run (z : Nat) (f : Zone → Zone) : (s.modZone z f).run = s.run := rfl
@[simp] theorem State.modZone_ilk (z : Nat) (f : Zone → Zone) : (s.modZone z f).ilk = s.ilk := rfl
@[simp] theorem State.modZone_emit (z : Nat) (f : Zone → Zone) : (s.modZone z f).emit = s.emit := rfl
@[simp] theorem State.modZone_recv (z : Nat) (f : Zone → Zone) : (s.modZone z f).recv = s.recv := rfl
@[simp] theorem State.modZone_pce (z : Nat) (f : Zone → Zone) : (s.modZone z f).pce = s.pce := rfl
@[simp] theorem State.modZone_sill (z : Nat) (f : Zone → Zone) : (s.modZone z f).sill = s.sill := rfl
@[simp] theorem State.modZone_therm (z : Nat) (f : Zone → Zone) : (s.modZone z f).therm = s.therm := rfl
@[simp] theorem State.modZone_zones (z : Nat) (f : Zone → Zone) : (s.modZone z f).zones = aset {} s.zones z (f (s.zone z)) := rfl
@[simp] theorem State.modZone_prof (z : Nat) (f : Zone → Zone) : (s.modZone z f).prof = s.prof := rfl
@[simp] theorem State.modZone_cap (z : Nat) (f : Zone → Zone) : (s.modZone z f).cap = s.cap := rfl
@[simp] theorem State.modZone_engines (z : Nat) (f : Zone → Zone) : (s.modZone z f).engines = s.engines := rfl
@[simp] theorem State.modZone_atom (z : Nat) (f : Zone → Zone) : (s.modZone z f).atom = s.atom := rfl
@[simp] theorem State.modZone_memc (z : Nat) (f : Zone → Zone) : (s.modZone z f).memc = s.memc := rfl
@[simp] theorem State.modZone_slices (z : Nat) (f : Zone → Zone) : (s.modZone z f).slices = s.slices := rfl
@[simp] theorem State.modZone_time (z : Nat) (f : Zone → Zone) : (s.modZone z f).time = s.time := rfl
@[simp] theorem State.modZone_twin (z : Nat) (f : Zone → Zone) : (s.modZone z f).twin = s.twin := rfl
@[simp] theorem State.modZone_inst (z : Nat) (f : Zone → Zone) : (s.modZone z f).inst = s.inst := rfl
@[simp] theorem State.modZone_disp (z : Nat) (f : Zone → Zone) : (s.modZone z f).disp = s.disp := rfl
@[simp] theorem State.modZone_clk (z : Nat) (f : Zone → Zone) : (s.modZone z f).clk = s.clk := rfl
@[simp] theorem State.modZone_sys (z : Nat) (f : Zone → Zone) : (s.modZone z f).sys = s.sys := rfl

/-! modCap: only `cap` changes. -/
@[simp] theorem State.modCap_pending (i : Nat) (f : CapSlot → CapSlot) : (s.modCap i f).pending = s.pending := rfl
@[simp] theorem State.modCap_now (i : Nat) (f : CapSlot → CapSlot) : (s.modCap i f).now = s.now := rfl
@[simp] theorem State.modCap_fresh (i : Nat) (f : CapSlot → CapSlot) : (s.modCap i f).fresh = s.fresh := rfl
@[simp] theorem State.modCap_running (i : Nat) (f : CapSlot → CapSlot) : (s.modCap i f).running = s.running := rfl
@[simp] theorem State.modCap_staged (i : Nat) (f : CapSlot → CapSlot) : (s.modCap i f).staged = s.staged := rfl
@[simp] theorem State.modCap_commits (i : Nat) (f : CapSlot → CapSlot) : (s.modCap i f).commits = s.commits := rfl
@[simp] theorem State.modCap_counters (i : Nat) (f : CapSlot → CapSlot) : (s.modCap i f).counters = s.counters := rfl
@[simp] theorem State.modCap_hwSet (i : Nat) (f : CapSlot → CapSlot) : (s.modCap i f).hwSet = s.hwSet := rfl
@[simp] theorem State.modCap_mboxes (i : Nat) (f : CapSlot → CapSlot) : (s.modCap i f).mboxes = s.mboxes := rfl
@[simp] theorem State.modCap_bufs (i : Nat) (f : CapSlot → CapSlot) : (s.modCap i f).bufs = s.bufs := rfl
@[simp] theorem State.modCap_prot (i : Nat) (f : CapSlot → CapSlot) : (s.modCap i f).prot = s.prot := rfl
@[simp] theorem State.modCap_run (i : Nat) (f : CapSlot → CapSlot) : (s.modCap i f).run = s.run := rfl
@[simp] theorem State.modCap_ilk (i : Nat) (f : CapSlot → CapSlot) : (s.modCap i f).ilk = s.ilk := rfl
@[simp] theorem State.modCap_emit (i : Nat) (f : CapSlot → CapSlot) : (s.modCap i f).emit = s.emit := rfl
@[simp] theorem State.modCap_recv (i : Nat) (f : CapSlot → CapSlot) : (s.modCap i f).recv = s.recv := rfl
@[simp] theorem State.modCap_pce (i : Nat) (f : CapSlot → CapSlot) : (s.modCap i f).pce = s.pce := rfl
@[simp] theorem State.modCap_sill (i : Nat) (f : CapSlot → CapSlot) : (s.modCap i f).sill = s.sill := rfl
@[simp] theorem State.modCap_therm (i : Nat) (f : CapSlot → CapSlot) : (s.modCap i f).therm = s.therm := rfl
@[simp] theorem State.modCap_zones (i : Nat) (f : CapSlot → CapSlot) : (s.modCap i f).zones = s.zones := rfl
@[simp] theorem State.modCap_prof (i : Nat) (f : CapSlot → CapSlot) : (s.modCap i f).prof = s.prof := rfl
@[simp] theorem State.modCap_cap (i : Nat) (f : CapSlot → CapSlot) : (s.modCap i f).cap = { s.cap with slots := modAt f s.cap.slots i } := rfl
@[simp] theorem State.modCap_engines (i : Nat) (f : CapSlot → CapSlot) : (s.modCap i f).engines = s.engines := rfl
@[simp] theorem State.modCap_atom (i : Nat) (f : CapSlot → CapSlot) : (s.modCap i f).atom = s.atom := rfl
@[simp] theorem State.modCap_memc (i : Nat) (f : CapSlot → CapSlot) : (s.modCap i f).memc = s.memc := rfl
@[simp] theorem State.modCap_slices (i : Nat) (f : CapSlot → CapSlot) : (s.modCap i f).slices = s.slices := rfl
@[simp] theorem State.modCap_time (i : Nat) (f : CapSlot → CapSlot) : (s.modCap i f).time = s.time := rfl
@[simp] theorem State.modCap_twin (i : Nat) (f : CapSlot → CapSlot) : (s.modCap i f).twin = s.twin := rfl
@[simp] theorem State.modCap_inst (i : Nat) (f : CapSlot → CapSlot) : (s.modCap i f).inst = s.inst := rfl
@[simp] theorem State.modCap_disp (i : Nat) (f : CapSlot → CapSlot) : (s.modCap i f).disp = s.disp := rfl
@[simp] theorem State.modCap_clk (i : Nat) (f : CapSlot → CapSlot) : (s.modCap i f).clk = s.clk := rfl
@[simp] theorem State.modCap_sys (i : Nat) (f : CapSlot → CapSlot) : (s.modCap i f).sys = s.sys := rfl

/-! modEng: only `engines` changes. -/
@[simp] theorem State.modEng_pending (i : Nat) (f : Engine → Engine) : (s.modEng i f).pending = s.pending := rfl
@[simp] theorem State.modEng_now (i : Nat) (f : Engine → Engine) : (s.modEng i f).now = s.now := rfl
@[simp] theorem State.modEng_fresh (i : Nat) (f : Engine → Engine) : (s.modEng i f).fresh = s.fresh := rfl
@[simp] theorem State.modEng_running (i : Nat) (f : Engine → Engine) : (s.modEng i f).running = s.running := rfl
@[simp] theorem State.modEng_staged (i : Nat) (f : Engine → Engine) : (s.modEng i f).staged = s.staged := rfl
@[simp] theorem State.modEng_commits (i : Nat) (f : Engine → Engine) : (s.modEng i f).commits = s.commits := rfl
@[simp] theorem State.modEng_counters (i : Nat) (f : Engine → Engine) : (s.modEng i f).counters = s.counters := rfl
@[simp] theorem State.modEng_hwSet (i : Nat) (f : Engine → Engine) : (s.modEng i f).hwSet = s.hwSet := rfl
@[simp] theorem State.modEng_mboxes (i : Nat) (f : Engine → Engine) : (s.modEng i f).mboxes = s.mboxes := rfl
@[simp] theorem State.modEng_bufs (i : Nat) (f : Engine → Engine) : (s.modEng i f).bufs = s.bufs := rfl
@[simp] theorem State.modEng_prot (i : Nat) (f : Engine → Engine) : (s.modEng i f).prot = s.prot := rfl
@[simp] theorem State.modEng_run (i : Nat) (f : Engine → Engine) : (s.modEng i f).run = s.run := rfl
@[simp] theorem State.modEng_ilk (i : Nat) (f : Engine → Engine) : (s.modEng i f).ilk = s.ilk := rfl
@[simp] theorem State.modEng_emit (i : Nat) (f : Engine → Engine) : (s.modEng i f).emit = s.emit := rfl
@[simp] theorem State.modEng_recv (i : Nat) (f : Engine → Engine) : (s.modEng i f).recv = s.recv := rfl
@[simp] theorem State.modEng_pce (i : Nat) (f : Engine → Engine) : (s.modEng i f).pce = s.pce := rfl
@[simp] theorem State.modEng_sill (i : Nat) (f : Engine → Engine) : (s.modEng i f).sill = s.sill := rfl
@[simp] theorem State.modEng_therm (i : Nat) (f : Engine → Engine) : (s.modEng i f).therm = s.therm := rfl
@[simp] theorem State.modEng_zones (i : Nat) (f : Engine → Engine) : (s.modEng i f).zones = s.zones := rfl
@[simp] theorem State.modEng_prof (i : Nat) (f : Engine → Engine) : (s.modEng i f).prof = s.prof := rfl
@[simp] theorem State.modEng_cap (i : Nat) (f : Engine → Engine) : (s.modEng i f).cap = s.cap := rfl
@[simp] theorem State.modEng_engines (i : Nat) (f : Engine → Engine) : (s.modEng i f).engines = modAt f s.engines i := rfl
@[simp] theorem State.modEng_atom (i : Nat) (f : Engine → Engine) : (s.modEng i f).atom = s.atom := rfl
@[simp] theorem State.modEng_memc (i : Nat) (f : Engine → Engine) : (s.modEng i f).memc = s.memc := rfl
@[simp] theorem State.modEng_slices (i : Nat) (f : Engine → Engine) : (s.modEng i f).slices = s.slices := rfl
@[simp] theorem State.modEng_time (i : Nat) (f : Engine → Engine) : (s.modEng i f).time = s.time := rfl
@[simp] theorem State.modEng_twin (i : Nat) (f : Engine → Engine) : (s.modEng i f).twin = s.twin := rfl
@[simp] theorem State.modEng_inst (i : Nat) (f : Engine → Engine) : (s.modEng i f).inst = s.inst := rfl
@[simp] theorem State.modEng_disp (i : Nat) (f : Engine → Engine) : (s.modEng i f).disp = s.disp := rfl
@[simp] theorem State.modEng_clk (i : Nat) (f : Engine → Engine) : (s.modEng i f).clk = s.clk := rfl
@[simp] theorem State.modEng_sys (i : Nat) (f : Engine → Engine) : (s.modEng i f).sys = s.sys := rfl

/-! modAtom: only `atom` changes. -/
@[simp] theorem State.modAtom_pending (f : Atom → Atom) : (s.modAtom f).pending = s.pending := rfl
@[simp] theorem State.modAtom_now (f : Atom → Atom) : (s.modAtom f).now = s.now := rfl
@[simp] theorem State.modAtom_fresh (f : Atom → Atom) : (s.modAtom f).fresh = s.fresh := rfl
@[simp] theorem State.modAtom_running (f : Atom → Atom) : (s.modAtom f).running = s.running := rfl
@[simp] theorem State.modAtom_staged (f : Atom → Atom) : (s.modAtom f).staged = s.staged := rfl
@[simp] theorem State.modAtom_commits (f : Atom → Atom) : (s.modAtom f).commits = s.commits := rfl
@[simp] theorem State.modAtom_counters (f : Atom → Atom) : (s.modAtom f).counters = s.counters := rfl
@[simp] theorem State.modAtom_hwSet (f : Atom → Atom) : (s.modAtom f).hwSet = s.hwSet := rfl
@[simp] theorem State.modAtom_mboxes (f : Atom → Atom) : (s.modAtom f).mboxes = s.mboxes := rfl
@[simp] theorem State.modAtom_bufs (f : Atom → Atom) : (s.modAtom f).bufs = s.bufs := rfl
@[simp] theorem State.modAtom_prot (f : Atom → Atom) : (s.modAtom f).prot = s.prot := rfl
@[simp] theorem State.modAtom_run (f : Atom → Atom) : (s.modAtom f).run = s.run := rfl
@[simp] theorem State.modAtom_ilk (f : Atom → Atom) : (s.modAtom f).ilk = s.ilk := rfl
@[simp] theorem State.modAtom_emit (f : Atom → Atom) : (s.modAtom f).emit = s.emit := rfl
@[simp] theorem State.modAtom_recv (f : Atom → Atom) : (s.modAtom f).recv = s.recv := rfl
@[simp] theorem State.modAtom_pce (f : Atom → Atom) : (s.modAtom f).pce = s.pce := rfl
@[simp] theorem State.modAtom_sill (f : Atom → Atom) : (s.modAtom f).sill = s.sill := rfl
@[simp] theorem State.modAtom_therm (f : Atom → Atom) : (s.modAtom f).therm = s.therm := rfl
@[simp] theorem State.modAtom_zones (f : Atom → Atom) : (s.modAtom f).zones = s.zones := rfl
@[simp] theorem State.modAtom_prof (f : Atom → Atom) : (s.modAtom f).prof = s.prof := rfl
@[simp] theorem State.modAtom_cap (f : Atom → Atom) : (s.modAtom f).cap = s.cap := rfl
@[simp] theorem State.modAtom_engines (f : Atom → Atom) : (s.modAtom f).engines = s.engines := rfl
@[simp] theorem State.modAtom_atom (f : Atom → Atom) : (s.modAtom f).atom = f s.atom := rfl
@[simp] theorem State.modAtom_memc (f : Atom → Atom) : (s.modAtom f).memc = s.memc := rfl
@[simp] theorem State.modAtom_slices (f : Atom → Atom) : (s.modAtom f).slices = s.slices := rfl
@[simp] theorem State.modAtom_time (f : Atom → Atom) : (s.modAtom f).time = s.time := rfl
@[simp] theorem State.modAtom_twin (f : Atom → Atom) : (s.modAtom f).twin = s.twin := rfl
@[simp] theorem State.modAtom_inst (f : Atom → Atom) : (s.modAtom f).inst = s.inst := rfl
@[simp] theorem State.modAtom_disp (f : Atom → Atom) : (s.modAtom f).disp = s.disp := rfl
@[simp] theorem State.modAtom_clk (f : Atom → Atom) : (s.modAtom f).clk = s.clk := rfl
@[simp] theorem State.modAtom_sys (f : Atom → Atom) : (s.modAtom f).sys = s.sys := rfl

/-! modRing: only `atom` changes. -/
@[simp] theorem State.modRing_pending (i : Nat) (f : Ring → Ring) : (s.modRing i f).pending = s.pending := rfl
@[simp] theorem State.modRing_now (i : Nat) (f : Ring → Ring) : (s.modRing i f).now = s.now := rfl
@[simp] theorem State.modRing_fresh (i : Nat) (f : Ring → Ring) : (s.modRing i f).fresh = s.fresh := rfl
@[simp] theorem State.modRing_running (i : Nat) (f : Ring → Ring) : (s.modRing i f).running = s.running := rfl
@[simp] theorem State.modRing_staged (i : Nat) (f : Ring → Ring) : (s.modRing i f).staged = s.staged := rfl
@[simp] theorem State.modRing_commits (i : Nat) (f : Ring → Ring) : (s.modRing i f).commits = s.commits := rfl
@[simp] theorem State.modRing_counters (i : Nat) (f : Ring → Ring) : (s.modRing i f).counters = s.counters := rfl
@[simp] theorem State.modRing_hwSet (i : Nat) (f : Ring → Ring) : (s.modRing i f).hwSet = s.hwSet := rfl
@[simp] theorem State.modRing_mboxes (i : Nat) (f : Ring → Ring) : (s.modRing i f).mboxes = s.mboxes := rfl
@[simp] theorem State.modRing_bufs (i : Nat) (f : Ring → Ring) : (s.modRing i f).bufs = s.bufs := rfl
@[simp] theorem State.modRing_prot (i : Nat) (f : Ring → Ring) : (s.modRing i f).prot = s.prot := rfl
@[simp] theorem State.modRing_run (i : Nat) (f : Ring → Ring) : (s.modRing i f).run = s.run := rfl
@[simp] theorem State.modRing_ilk (i : Nat) (f : Ring → Ring) : (s.modRing i f).ilk = s.ilk := rfl
@[simp] theorem State.modRing_emit (i : Nat) (f : Ring → Ring) : (s.modRing i f).emit = s.emit := rfl
@[simp] theorem State.modRing_recv (i : Nat) (f : Ring → Ring) : (s.modRing i f).recv = s.recv := rfl
@[simp] theorem State.modRing_pce (i : Nat) (f : Ring → Ring) : (s.modRing i f).pce = s.pce := rfl
@[simp] theorem State.modRing_sill (i : Nat) (f : Ring → Ring) : (s.modRing i f).sill = s.sill := rfl
@[simp] theorem State.modRing_therm (i : Nat) (f : Ring → Ring) : (s.modRing i f).therm = s.therm := rfl
@[simp] theorem State.modRing_zones (i : Nat) (f : Ring → Ring) : (s.modRing i f).zones = s.zones := rfl
@[simp] theorem State.modRing_prof (i : Nat) (f : Ring → Ring) : (s.modRing i f).prof = s.prof := rfl
@[simp] theorem State.modRing_cap (i : Nat) (f : Ring → Ring) : (s.modRing i f).cap = s.cap := rfl
@[simp] theorem State.modRing_engines (i : Nat) (f : Ring → Ring) : (s.modRing i f).engines = s.engines := rfl
@[simp] theorem State.modRing_atom (i : Nat) (f : Ring → Ring) : (s.modRing i f).atom = { s.atom with rings := modAt f s.atom.rings i } := rfl
@[simp] theorem State.modRing_memc (i : Nat) (f : Ring → Ring) : (s.modRing i f).memc = s.memc := rfl
@[simp] theorem State.modRing_slices (i : Nat) (f : Ring → Ring) : (s.modRing i f).slices = s.slices := rfl
@[simp] theorem State.modRing_time (i : Nat) (f : Ring → Ring) : (s.modRing i f).time = s.time := rfl
@[simp] theorem State.modRing_twin (i : Nat) (f : Ring → Ring) : (s.modRing i f).twin = s.twin := rfl
@[simp] theorem State.modRing_inst (i : Nat) (f : Ring → Ring) : (s.modRing i f).inst = s.inst := rfl
@[simp] theorem State.modRing_disp (i : Nat) (f : Ring → Ring) : (s.modRing i f).disp = s.disp := rfl
@[simp] theorem State.modRing_clk (i : Nat) (f : Ring → Ring) : (s.modRing i f).clk = s.clk := rfl
@[simp] theorem State.modRing_sys (i : Nat) (f : Ring → Ring) : (s.modRing i f).sys = s.sys := rfl

/-! modPort: only `atom` changes. -/
@[simp] theorem State.modPort_pending (i : Nat) (f : Port → Port) : (s.modPort i f).pending = s.pending := rfl
@[simp] theorem State.modPort_now (i : Nat) (f : Port → Port) : (s.modPort i f).now = s.now := rfl
@[simp] theorem State.modPort_fresh (i : Nat) (f : Port → Port) : (s.modPort i f).fresh = s.fresh := rfl
@[simp] theorem State.modPort_running (i : Nat) (f : Port → Port) : (s.modPort i f).running = s.running := rfl
@[simp] theorem State.modPort_staged (i : Nat) (f : Port → Port) : (s.modPort i f).staged = s.staged := rfl
@[simp] theorem State.modPort_commits (i : Nat) (f : Port → Port) : (s.modPort i f).commits = s.commits := rfl
@[simp] theorem State.modPort_counters (i : Nat) (f : Port → Port) : (s.modPort i f).counters = s.counters := rfl
@[simp] theorem State.modPort_hwSet (i : Nat) (f : Port → Port) : (s.modPort i f).hwSet = s.hwSet := rfl
@[simp] theorem State.modPort_mboxes (i : Nat) (f : Port → Port) : (s.modPort i f).mboxes = s.mboxes := rfl
@[simp] theorem State.modPort_bufs (i : Nat) (f : Port → Port) : (s.modPort i f).bufs = s.bufs := rfl
@[simp] theorem State.modPort_prot (i : Nat) (f : Port → Port) : (s.modPort i f).prot = s.prot := rfl
@[simp] theorem State.modPort_run (i : Nat) (f : Port → Port) : (s.modPort i f).run = s.run := rfl
@[simp] theorem State.modPort_ilk (i : Nat) (f : Port → Port) : (s.modPort i f).ilk = s.ilk := rfl
@[simp] theorem State.modPort_emit (i : Nat) (f : Port → Port) : (s.modPort i f).emit = s.emit := rfl
@[simp] theorem State.modPort_recv (i : Nat) (f : Port → Port) : (s.modPort i f).recv = s.recv := rfl
@[simp] theorem State.modPort_pce (i : Nat) (f : Port → Port) : (s.modPort i f).pce = s.pce := rfl
@[simp] theorem State.modPort_sill (i : Nat) (f : Port → Port) : (s.modPort i f).sill = s.sill := rfl
@[simp] theorem State.modPort_therm (i : Nat) (f : Port → Port) : (s.modPort i f).therm = s.therm := rfl
@[simp] theorem State.modPort_zones (i : Nat) (f : Port → Port) : (s.modPort i f).zones = s.zones := rfl
@[simp] theorem State.modPort_prof (i : Nat) (f : Port → Port) : (s.modPort i f).prof = s.prof := rfl
@[simp] theorem State.modPort_cap (i : Nat) (f : Port → Port) : (s.modPort i f).cap = s.cap := rfl
@[simp] theorem State.modPort_engines (i : Nat) (f : Port → Port) : (s.modPort i f).engines = s.engines := rfl
@[simp] theorem State.modPort_atom (i : Nat) (f : Port → Port) : (s.modPort i f).atom = { s.atom with ports := modAt f s.atom.ports i } := rfl
@[simp] theorem State.modPort_memc (i : Nat) (f : Port → Port) : (s.modPort i f).memc = s.memc := rfl
@[simp] theorem State.modPort_slices (i : Nat) (f : Port → Port) : (s.modPort i f).slices = s.slices := rfl
@[simp] theorem State.modPort_time (i : Nat) (f : Port → Port) : (s.modPort i f).time = s.time := rfl
@[simp] theorem State.modPort_twin (i : Nat) (f : Port → Port) : (s.modPort i f).twin = s.twin := rfl
@[simp] theorem State.modPort_inst (i : Nat) (f : Port → Port) : (s.modPort i f).inst = s.inst := rfl
@[simp] theorem State.modPort_disp (i : Nat) (f : Port → Port) : (s.modPort i f).disp = s.disp := rfl
@[simp] theorem State.modPort_clk (i : Nat) (f : Port → Port) : (s.modPort i f).clk = s.clk := rfl
@[simp] theorem State.modPort_sys (i : Nat) (f : Port → Port) : (s.modPort i f).sys = s.sys := rfl

/-! modMemc: only `memc` changes. -/
@[simp] theorem State.modMemc_pending (f : Memc → Memc) : (s.modMemc f).pending = s.pending := rfl
@[simp] theorem State.modMemc_now (f : Memc → Memc) : (s.modMemc f).now = s.now := rfl
@[simp] theorem State.modMemc_fresh (f : Memc → Memc) : (s.modMemc f).fresh = s.fresh := rfl
@[simp] theorem State.modMemc_running (f : Memc → Memc) : (s.modMemc f).running = s.running := rfl
@[simp] theorem State.modMemc_staged (f : Memc → Memc) : (s.modMemc f).staged = s.staged := rfl
@[simp] theorem State.modMemc_commits (f : Memc → Memc) : (s.modMemc f).commits = s.commits := rfl
@[simp] theorem State.modMemc_counters (f : Memc → Memc) : (s.modMemc f).counters = s.counters := rfl
@[simp] theorem State.modMemc_hwSet (f : Memc → Memc) : (s.modMemc f).hwSet = s.hwSet := rfl
@[simp] theorem State.modMemc_mboxes (f : Memc → Memc) : (s.modMemc f).mboxes = s.mboxes := rfl
@[simp] theorem State.modMemc_bufs (f : Memc → Memc) : (s.modMemc f).bufs = s.bufs := rfl
@[simp] theorem State.modMemc_prot (f : Memc → Memc) : (s.modMemc f).prot = s.prot := rfl
@[simp] theorem State.modMemc_run (f : Memc → Memc) : (s.modMemc f).run = s.run := rfl
@[simp] theorem State.modMemc_ilk (f : Memc → Memc) : (s.modMemc f).ilk = s.ilk := rfl
@[simp] theorem State.modMemc_emit (f : Memc → Memc) : (s.modMemc f).emit = s.emit := rfl
@[simp] theorem State.modMemc_recv (f : Memc → Memc) : (s.modMemc f).recv = s.recv := rfl
@[simp] theorem State.modMemc_pce (f : Memc → Memc) : (s.modMemc f).pce = s.pce := rfl
@[simp] theorem State.modMemc_sill (f : Memc → Memc) : (s.modMemc f).sill = s.sill := rfl
@[simp] theorem State.modMemc_therm (f : Memc → Memc) : (s.modMemc f).therm = s.therm := rfl
@[simp] theorem State.modMemc_zones (f : Memc → Memc) : (s.modMemc f).zones = s.zones := rfl
@[simp] theorem State.modMemc_prof (f : Memc → Memc) : (s.modMemc f).prof = s.prof := rfl
@[simp] theorem State.modMemc_cap (f : Memc → Memc) : (s.modMemc f).cap = s.cap := rfl
@[simp] theorem State.modMemc_engines (f : Memc → Memc) : (s.modMemc f).engines = s.engines := rfl
@[simp] theorem State.modMemc_atom (f : Memc → Memc) : (s.modMemc f).atom = s.atom := rfl
@[simp] theorem State.modMemc_memc (f : Memc → Memc) : (s.modMemc f).memc = f s.memc := rfl
@[simp] theorem State.modMemc_slices (f : Memc → Memc) : (s.modMemc f).slices = s.slices := rfl
@[simp] theorem State.modMemc_time (f : Memc → Memc) : (s.modMemc f).time = s.time := rfl
@[simp] theorem State.modMemc_twin (f : Memc → Memc) : (s.modMemc f).twin = s.twin := rfl
@[simp] theorem State.modMemc_inst (f : Memc → Memc) : (s.modMemc f).inst = s.inst := rfl
@[simp] theorem State.modMemc_disp (f : Memc → Memc) : (s.modMemc f).disp = s.disp := rfl
@[simp] theorem State.modMemc_clk (f : Memc → Memc) : (s.modMemc f).clk = s.clk := rfl
@[simp] theorem State.modMemc_sys (f : Memc → Memc) : (s.modMemc f).sys = s.sys := rfl

/-! modTime: only `time` changes. -/
@[simp] theorem State.modTime_pending (f : TimeBase → TimeBase) : (s.modTime f).pending = s.pending := rfl
@[simp] theorem State.modTime_now (f : TimeBase → TimeBase) : (s.modTime f).now = s.now := rfl
@[simp] theorem State.modTime_fresh (f : TimeBase → TimeBase) : (s.modTime f).fresh = s.fresh := rfl
@[simp] theorem State.modTime_running (f : TimeBase → TimeBase) : (s.modTime f).running = s.running := rfl
@[simp] theorem State.modTime_staged (f : TimeBase → TimeBase) : (s.modTime f).staged = s.staged := rfl
@[simp] theorem State.modTime_commits (f : TimeBase → TimeBase) : (s.modTime f).commits = s.commits := rfl
@[simp] theorem State.modTime_counters (f : TimeBase → TimeBase) : (s.modTime f).counters = s.counters := rfl
@[simp] theorem State.modTime_hwSet (f : TimeBase → TimeBase) : (s.modTime f).hwSet = s.hwSet := rfl
@[simp] theorem State.modTime_mboxes (f : TimeBase → TimeBase) : (s.modTime f).mboxes = s.mboxes := rfl
@[simp] theorem State.modTime_bufs (f : TimeBase → TimeBase) : (s.modTime f).bufs = s.bufs := rfl
@[simp] theorem State.modTime_prot (f : TimeBase → TimeBase) : (s.modTime f).prot = s.prot := rfl
@[simp] theorem State.modTime_run (f : TimeBase → TimeBase) : (s.modTime f).run = s.run := rfl
@[simp] theorem State.modTime_ilk (f : TimeBase → TimeBase) : (s.modTime f).ilk = s.ilk := rfl
@[simp] theorem State.modTime_emit (f : TimeBase → TimeBase) : (s.modTime f).emit = s.emit := rfl
@[simp] theorem State.modTime_recv (f : TimeBase → TimeBase) : (s.modTime f).recv = s.recv := rfl
@[simp] theorem State.modTime_pce (f : TimeBase → TimeBase) : (s.modTime f).pce = s.pce := rfl
@[simp] theorem State.modTime_sill (f : TimeBase → TimeBase) : (s.modTime f).sill = s.sill := rfl
@[simp] theorem State.modTime_therm (f : TimeBase → TimeBase) : (s.modTime f).therm = s.therm := rfl
@[simp] theorem State.modTime_zones (f : TimeBase → TimeBase) : (s.modTime f).zones = s.zones := rfl
@[simp] theorem State.modTime_prof (f : TimeBase → TimeBase) : (s.modTime f).prof = s.prof := rfl
@[simp] theorem State.modTime_cap (f : TimeBase → TimeBase) : (s.modTime f).cap = s.cap := rfl
@[simp] theorem State.modTime_engines (f : TimeBase → TimeBase) : (s.modTime f).engines = s.engines := rfl
@[simp] theorem State.modTime_atom (f : TimeBase → TimeBase) : (s.modTime f).atom = s.atom := rfl
@[simp] theorem State.modTime_memc (f : TimeBase → TimeBase) : (s.modTime f).memc = s.memc := rfl
@[simp] theorem State.modTime_slices (f : TimeBase → TimeBase) : (s.modTime f).slices = s.slices := rfl
@[simp] theorem State.modTime_time (f : TimeBase → TimeBase) : (s.modTime f).time = f s.time := rfl
@[simp] theorem State.modTime_twin (f : TimeBase → TimeBase) : (s.modTime f).twin = s.twin := rfl
@[simp] theorem State.modTime_inst (f : TimeBase → TimeBase) : (s.modTime f).inst = s.inst := rfl
@[simp] theorem State.modTime_disp (f : TimeBase → TimeBase) : (s.modTime f).disp = s.disp := rfl
@[simp] theorem State.modTime_clk (f : TimeBase → TimeBase) : (s.modTime f).clk = s.clk := rfl
@[simp] theorem State.modTime_sys (f : TimeBase → TimeBase) : (s.modTime f).sys = s.sys := rfl

/-! modTwin: only `twin` changes. -/
@[simp] theorem State.modTwin_pending (f : Twin → Twin) : (s.modTwin f).pending = s.pending := rfl
@[simp] theorem State.modTwin_now (f : Twin → Twin) : (s.modTwin f).now = s.now := rfl
@[simp] theorem State.modTwin_fresh (f : Twin → Twin) : (s.modTwin f).fresh = s.fresh := rfl
@[simp] theorem State.modTwin_running (f : Twin → Twin) : (s.modTwin f).running = s.running := rfl
@[simp] theorem State.modTwin_staged (f : Twin → Twin) : (s.modTwin f).staged = s.staged := rfl
@[simp] theorem State.modTwin_commits (f : Twin → Twin) : (s.modTwin f).commits = s.commits := rfl
@[simp] theorem State.modTwin_counters (f : Twin → Twin) : (s.modTwin f).counters = s.counters := rfl
@[simp] theorem State.modTwin_hwSet (f : Twin → Twin) : (s.modTwin f).hwSet = s.hwSet := rfl
@[simp] theorem State.modTwin_mboxes (f : Twin → Twin) : (s.modTwin f).mboxes = s.mboxes := rfl
@[simp] theorem State.modTwin_bufs (f : Twin → Twin) : (s.modTwin f).bufs = s.bufs := rfl
@[simp] theorem State.modTwin_prot (f : Twin → Twin) : (s.modTwin f).prot = s.prot := rfl
@[simp] theorem State.modTwin_run (f : Twin → Twin) : (s.modTwin f).run = s.run := rfl
@[simp] theorem State.modTwin_ilk (f : Twin → Twin) : (s.modTwin f).ilk = s.ilk := rfl
@[simp] theorem State.modTwin_emit (f : Twin → Twin) : (s.modTwin f).emit = s.emit := rfl
@[simp] theorem State.modTwin_recv (f : Twin → Twin) : (s.modTwin f).recv = s.recv := rfl
@[simp] theorem State.modTwin_pce (f : Twin → Twin) : (s.modTwin f).pce = s.pce := rfl
@[simp] theorem State.modTwin_sill (f : Twin → Twin) : (s.modTwin f).sill = s.sill := rfl
@[simp] theorem State.modTwin_therm (f : Twin → Twin) : (s.modTwin f).therm = s.therm := rfl
@[simp] theorem State.modTwin_zones (f : Twin → Twin) : (s.modTwin f).zones = s.zones := rfl
@[simp] theorem State.modTwin_prof (f : Twin → Twin) : (s.modTwin f).prof = s.prof := rfl
@[simp] theorem State.modTwin_cap (f : Twin → Twin) : (s.modTwin f).cap = s.cap := rfl
@[simp] theorem State.modTwin_engines (f : Twin → Twin) : (s.modTwin f).engines = s.engines := rfl
@[simp] theorem State.modTwin_atom (f : Twin → Twin) : (s.modTwin f).atom = s.atom := rfl
@[simp] theorem State.modTwin_memc (f : Twin → Twin) : (s.modTwin f).memc = s.memc := rfl
@[simp] theorem State.modTwin_slices (f : Twin → Twin) : (s.modTwin f).slices = s.slices := rfl
@[simp] theorem State.modTwin_time (f : Twin → Twin) : (s.modTwin f).time = s.time := rfl
@[simp] theorem State.modTwin_twin (f : Twin → Twin) : (s.modTwin f).twin = f s.twin := rfl
@[simp] theorem State.modTwin_inst (f : Twin → Twin) : (s.modTwin f).inst = s.inst := rfl
@[simp] theorem State.modTwin_disp (f : Twin → Twin) : (s.modTwin f).disp = s.disp := rfl
@[simp] theorem State.modTwin_clk (f : Twin → Twin) : (s.modTwin f).clk = s.clk := rfl
@[simp] theorem State.modTwin_sys (f : Twin → Twin) : (s.modTwin f).sys = s.sys := rfl

/-! modInst: only `inst` changes. -/
@[simp] theorem State.modInst_pending (f : Inst → Inst) : (s.modInst f).pending = s.pending := rfl
@[simp] theorem State.modInst_now (f : Inst → Inst) : (s.modInst f).now = s.now := rfl
@[simp] theorem State.modInst_fresh (f : Inst → Inst) : (s.modInst f).fresh = s.fresh := rfl
@[simp] theorem State.modInst_running (f : Inst → Inst) : (s.modInst f).running = s.running := rfl
@[simp] theorem State.modInst_staged (f : Inst → Inst) : (s.modInst f).staged = s.staged := rfl
@[simp] theorem State.modInst_commits (f : Inst → Inst) : (s.modInst f).commits = s.commits := rfl
@[simp] theorem State.modInst_counters (f : Inst → Inst) : (s.modInst f).counters = s.counters := rfl
@[simp] theorem State.modInst_hwSet (f : Inst → Inst) : (s.modInst f).hwSet = s.hwSet := rfl
@[simp] theorem State.modInst_mboxes (f : Inst → Inst) : (s.modInst f).mboxes = s.mboxes := rfl
@[simp] theorem State.modInst_bufs (f : Inst → Inst) : (s.modInst f).bufs = s.bufs := rfl
@[simp] theorem State.modInst_prot (f : Inst → Inst) : (s.modInst f).prot = s.prot := rfl
@[simp] theorem State.modInst_run (f : Inst → Inst) : (s.modInst f).run = s.run := rfl
@[simp] theorem State.modInst_ilk (f : Inst → Inst) : (s.modInst f).ilk = s.ilk := rfl
@[simp] theorem State.modInst_emit (f : Inst → Inst) : (s.modInst f).emit = s.emit := rfl
@[simp] theorem State.modInst_recv (f : Inst → Inst) : (s.modInst f).recv = s.recv := rfl
@[simp] theorem State.modInst_pce (f : Inst → Inst) : (s.modInst f).pce = s.pce := rfl
@[simp] theorem State.modInst_sill (f : Inst → Inst) : (s.modInst f).sill = s.sill := rfl
@[simp] theorem State.modInst_therm (f : Inst → Inst) : (s.modInst f).therm = s.therm := rfl
@[simp] theorem State.modInst_zones (f : Inst → Inst) : (s.modInst f).zones = s.zones := rfl
@[simp] theorem State.modInst_prof (f : Inst → Inst) : (s.modInst f).prof = s.prof := rfl
@[simp] theorem State.modInst_cap (f : Inst → Inst) : (s.modInst f).cap = s.cap := rfl
@[simp] theorem State.modInst_engines (f : Inst → Inst) : (s.modInst f).engines = s.engines := rfl
@[simp] theorem State.modInst_atom (f : Inst → Inst) : (s.modInst f).atom = s.atom := rfl
@[simp] theorem State.modInst_memc (f : Inst → Inst) : (s.modInst f).memc = s.memc := rfl
@[simp] theorem State.modInst_slices (f : Inst → Inst) : (s.modInst f).slices = s.slices := rfl
@[simp] theorem State.modInst_time (f : Inst → Inst) : (s.modInst f).time = s.time := rfl
@[simp] theorem State.modInst_twin (f : Inst → Inst) : (s.modInst f).twin = s.twin := rfl
@[simp] theorem State.modInst_inst (f : Inst → Inst) : (s.modInst f).inst = f s.inst := rfl
@[simp] theorem State.modInst_disp (f : Inst → Inst) : (s.modInst f).disp = s.disp := rfl
@[simp] theorem State.modInst_clk (f : Inst → Inst) : (s.modInst f).clk = s.clk := rfl
@[simp] theorem State.modInst_sys (f : Inst → Inst) : (s.modInst f).sys = s.sys := rfl

/-! modDisp: only `disp` changes. -/
@[simp] theorem State.modDisp_pending (f : Disp → Disp) : (s.modDisp f).pending = s.pending := rfl
@[simp] theorem State.modDisp_now (f : Disp → Disp) : (s.modDisp f).now = s.now := rfl
@[simp] theorem State.modDisp_fresh (f : Disp → Disp) : (s.modDisp f).fresh = s.fresh := rfl
@[simp] theorem State.modDisp_running (f : Disp → Disp) : (s.modDisp f).running = s.running := rfl
@[simp] theorem State.modDisp_staged (f : Disp → Disp) : (s.modDisp f).staged = s.staged := rfl
@[simp] theorem State.modDisp_commits (f : Disp → Disp) : (s.modDisp f).commits = s.commits := rfl
@[simp] theorem State.modDisp_counters (f : Disp → Disp) : (s.modDisp f).counters = s.counters := rfl
@[simp] theorem State.modDisp_hwSet (f : Disp → Disp) : (s.modDisp f).hwSet = s.hwSet := rfl
@[simp] theorem State.modDisp_mboxes (f : Disp → Disp) : (s.modDisp f).mboxes = s.mboxes := rfl
@[simp] theorem State.modDisp_bufs (f : Disp → Disp) : (s.modDisp f).bufs = s.bufs := rfl
@[simp] theorem State.modDisp_prot (f : Disp → Disp) : (s.modDisp f).prot = s.prot := rfl
@[simp] theorem State.modDisp_run (f : Disp → Disp) : (s.modDisp f).run = s.run := rfl
@[simp] theorem State.modDisp_ilk (f : Disp → Disp) : (s.modDisp f).ilk = s.ilk := rfl
@[simp] theorem State.modDisp_emit (f : Disp → Disp) : (s.modDisp f).emit = s.emit := rfl
@[simp] theorem State.modDisp_recv (f : Disp → Disp) : (s.modDisp f).recv = s.recv := rfl
@[simp] theorem State.modDisp_pce (f : Disp → Disp) : (s.modDisp f).pce = s.pce := rfl
@[simp] theorem State.modDisp_sill (f : Disp → Disp) : (s.modDisp f).sill = s.sill := rfl
@[simp] theorem State.modDisp_therm (f : Disp → Disp) : (s.modDisp f).therm = s.therm := rfl
@[simp] theorem State.modDisp_zones (f : Disp → Disp) : (s.modDisp f).zones = s.zones := rfl
@[simp] theorem State.modDisp_prof (f : Disp → Disp) : (s.modDisp f).prof = s.prof := rfl
@[simp] theorem State.modDisp_cap (f : Disp → Disp) : (s.modDisp f).cap = s.cap := rfl
@[simp] theorem State.modDisp_engines (f : Disp → Disp) : (s.modDisp f).engines = s.engines := rfl
@[simp] theorem State.modDisp_atom (f : Disp → Disp) : (s.modDisp f).atom = s.atom := rfl
@[simp] theorem State.modDisp_memc (f : Disp → Disp) : (s.modDisp f).memc = s.memc := rfl
@[simp] theorem State.modDisp_slices (f : Disp → Disp) : (s.modDisp f).slices = s.slices := rfl
@[simp] theorem State.modDisp_time (f : Disp → Disp) : (s.modDisp f).time = s.time := rfl
@[simp] theorem State.modDisp_twin (f : Disp → Disp) : (s.modDisp f).twin = s.twin := rfl
@[simp] theorem State.modDisp_inst (f : Disp → Disp) : (s.modDisp f).inst = s.inst := rfl
@[simp] theorem State.modDisp_disp (f : Disp → Disp) : (s.modDisp f).disp = f s.disp := rfl
@[simp] theorem State.modDisp_clk (f : Disp → Disp) : (s.modDisp f).clk = s.clk := rfl
@[simp] theorem State.modDisp_sys (f : Disp → Disp) : (s.modDisp f).sys = s.sys := rfl

/-! modClk: only `clk` changes. -/
@[simp] theorem State.modClk_pending (f : Clk → Clk) : (s.modClk f).pending = s.pending := rfl
@[simp] theorem State.modClk_now (f : Clk → Clk) : (s.modClk f).now = s.now := rfl
@[simp] theorem State.modClk_fresh (f : Clk → Clk) : (s.modClk f).fresh = s.fresh := rfl
@[simp] theorem State.modClk_running (f : Clk → Clk) : (s.modClk f).running = s.running := rfl
@[simp] theorem State.modClk_staged (f : Clk → Clk) : (s.modClk f).staged = s.staged := rfl
@[simp] theorem State.modClk_commits (f : Clk → Clk) : (s.modClk f).commits = s.commits := rfl
@[simp] theorem State.modClk_counters (f : Clk → Clk) : (s.modClk f).counters = s.counters := rfl
@[simp] theorem State.modClk_hwSet (f : Clk → Clk) : (s.modClk f).hwSet = s.hwSet := rfl
@[simp] theorem State.modClk_mboxes (f : Clk → Clk) : (s.modClk f).mboxes = s.mboxes := rfl
@[simp] theorem State.modClk_bufs (f : Clk → Clk) : (s.modClk f).bufs = s.bufs := rfl
@[simp] theorem State.modClk_prot (f : Clk → Clk) : (s.modClk f).prot = s.prot := rfl
@[simp] theorem State.modClk_run (f : Clk → Clk) : (s.modClk f).run = s.run := rfl
@[simp] theorem State.modClk_ilk (f : Clk → Clk) : (s.modClk f).ilk = s.ilk := rfl
@[simp] theorem State.modClk_emit (f : Clk → Clk) : (s.modClk f).emit = s.emit := rfl
@[simp] theorem State.modClk_recv (f : Clk → Clk) : (s.modClk f).recv = s.recv := rfl
@[simp] theorem State.modClk_pce (f : Clk → Clk) : (s.modClk f).pce = s.pce := rfl
@[simp] theorem State.modClk_sill (f : Clk → Clk) : (s.modClk f).sill = s.sill := rfl
@[simp] theorem State.modClk_therm (f : Clk → Clk) : (s.modClk f).therm = s.therm := rfl
@[simp] theorem State.modClk_zones (f : Clk → Clk) : (s.modClk f).zones = s.zones := rfl
@[simp] theorem State.modClk_prof (f : Clk → Clk) : (s.modClk f).prof = s.prof := rfl
@[simp] theorem State.modClk_cap (f : Clk → Clk) : (s.modClk f).cap = s.cap := rfl
@[simp] theorem State.modClk_engines (f : Clk → Clk) : (s.modClk f).engines = s.engines := rfl
@[simp] theorem State.modClk_atom (f : Clk → Clk) : (s.modClk f).atom = s.atom := rfl
@[simp] theorem State.modClk_memc (f : Clk → Clk) : (s.modClk f).memc = s.memc := rfl
@[simp] theorem State.modClk_slices (f : Clk → Clk) : (s.modClk f).slices = s.slices := rfl
@[simp] theorem State.modClk_time (f : Clk → Clk) : (s.modClk f).time = s.time := rfl
@[simp] theorem State.modClk_twin (f : Clk → Clk) : (s.modClk f).twin = s.twin := rfl
@[simp] theorem State.modClk_inst (f : Clk → Clk) : (s.modClk f).inst = s.inst := rfl
@[simp] theorem State.modClk_disp (f : Clk → Clk) : (s.modClk f).disp = s.disp := rfl
@[simp] theorem State.modClk_clk (f : Clk → Clk) : (s.modClk f).clk = f s.clk := rfl
@[simp] theorem State.modClk_sys (f : Clk → Clk) : (s.modClk f).sys = s.sys := rfl

/-! modSys: only `sys` changes. -/
@[simp] theorem State.modSys_pending (f : Sys → Sys) : (s.modSys f).pending = s.pending := rfl
@[simp] theorem State.modSys_now (f : Sys → Sys) : (s.modSys f).now = s.now := rfl
@[simp] theorem State.modSys_fresh (f : Sys → Sys) : (s.modSys f).fresh = s.fresh := rfl
@[simp] theorem State.modSys_running (f : Sys → Sys) : (s.modSys f).running = s.running := rfl
@[simp] theorem State.modSys_staged (f : Sys → Sys) : (s.modSys f).staged = s.staged := rfl
@[simp] theorem State.modSys_commits (f : Sys → Sys) : (s.modSys f).commits = s.commits := rfl
@[simp] theorem State.modSys_counters (f : Sys → Sys) : (s.modSys f).counters = s.counters := rfl
@[simp] theorem State.modSys_hwSet (f : Sys → Sys) : (s.modSys f).hwSet = s.hwSet := rfl
@[simp] theorem State.modSys_mboxes (f : Sys → Sys) : (s.modSys f).mboxes = s.mboxes := rfl
@[simp] theorem State.modSys_bufs (f : Sys → Sys) : (s.modSys f).bufs = s.bufs := rfl
@[simp] theorem State.modSys_prot (f : Sys → Sys) : (s.modSys f).prot = s.prot := rfl
@[simp] theorem State.modSys_run (f : Sys → Sys) : (s.modSys f).run = s.run := rfl
@[simp] theorem State.modSys_ilk (f : Sys → Sys) : (s.modSys f).ilk = s.ilk := rfl
@[simp] theorem State.modSys_emit (f : Sys → Sys) : (s.modSys f).emit = s.emit := rfl
@[simp] theorem State.modSys_recv (f : Sys → Sys) : (s.modSys f).recv = s.recv := rfl
@[simp] theorem State.modSys_pce (f : Sys → Sys) : (s.modSys f).pce = s.pce := rfl
@[simp] theorem State.modSys_sill (f : Sys → Sys) : (s.modSys f).sill = s.sill := rfl
@[simp] theorem State.modSys_therm (f : Sys → Sys) : (s.modSys f).therm = s.therm := rfl
@[simp] theorem State.modSys_zones (f : Sys → Sys) : (s.modSys f).zones = s.zones := rfl
@[simp] theorem State.modSys_prof (f : Sys → Sys) : (s.modSys f).prof = s.prof := rfl
@[simp] theorem State.modSys_cap (f : Sys → Sys) : (s.modSys f).cap = s.cap := rfl
@[simp] theorem State.modSys_engines (f : Sys → Sys) : (s.modSys f).engines = s.engines := rfl
@[simp] theorem State.modSys_atom (f : Sys → Sys) : (s.modSys f).atom = s.atom := rfl
@[simp] theorem State.modSys_memc (f : Sys → Sys) : (s.modSys f).memc = s.memc := rfl
@[simp] theorem State.modSys_slices (f : Sys → Sys) : (s.modSys f).slices = s.slices := rfl
@[simp] theorem State.modSys_time (f : Sys → Sys) : (s.modSys f).time = s.time := rfl
@[simp] theorem State.modSys_twin (f : Sys → Sys) : (s.modSys f).twin = s.twin := rfl
@[simp] theorem State.modSys_inst (f : Sys → Sys) : (s.modSys f).inst = s.inst := rfl
@[simp] theorem State.modSys_disp (f : Sys → Sys) : (s.modSys f).disp = s.disp := rfl
@[simp] theorem State.modSys_clk (f : Sys → Sys) : (s.modSys f).clk = s.clk := rfl
@[simp] theorem State.modSys_sys (f : Sys → Sys) : (s.modSys f).sys = f s.sys := rfl

/-! modSlc: only `slices` changes. -/
@[simp] theorem State.modSlc_pending (i : Nat) (f : Slice → Slice) : (s.modSlc i f).pending = s.pending := rfl
@[simp] theorem State.modSlc_now (i : Nat) (f : Slice → Slice) : (s.modSlc i f).now = s.now := rfl
@[simp] theorem State.modSlc_fresh (i : Nat) (f : Slice → Slice) : (s.modSlc i f).fresh = s.fresh := rfl
@[simp] theorem State.modSlc_running (i : Nat) (f : Slice → Slice) : (s.modSlc i f).running = s.running := rfl
@[simp] theorem State.modSlc_staged (i : Nat) (f : Slice → Slice) : (s.modSlc i f).staged = s.staged := rfl
@[simp] theorem State.modSlc_commits (i : Nat) (f : Slice → Slice) : (s.modSlc i f).commits = s.commits := rfl
@[simp] theorem State.modSlc_counters (i : Nat) (f : Slice → Slice) : (s.modSlc i f).counters = s.counters := rfl
@[simp] theorem State.modSlc_hwSet (i : Nat) (f : Slice → Slice) : (s.modSlc i f).hwSet = s.hwSet := rfl
@[simp] theorem State.modSlc_mboxes (i : Nat) (f : Slice → Slice) : (s.modSlc i f).mboxes = s.mboxes := rfl
@[simp] theorem State.modSlc_bufs (i : Nat) (f : Slice → Slice) : (s.modSlc i f).bufs = s.bufs := rfl
@[simp] theorem State.modSlc_prot (i : Nat) (f : Slice → Slice) : (s.modSlc i f).prot = s.prot := rfl
@[simp] theorem State.modSlc_run (i : Nat) (f : Slice → Slice) : (s.modSlc i f).run = s.run := rfl
@[simp] theorem State.modSlc_ilk (i : Nat) (f : Slice → Slice) : (s.modSlc i f).ilk = s.ilk := rfl
@[simp] theorem State.modSlc_emit (i : Nat) (f : Slice → Slice) : (s.modSlc i f).emit = s.emit := rfl
@[simp] theorem State.modSlc_recv (i : Nat) (f : Slice → Slice) : (s.modSlc i f).recv = s.recv := rfl
@[simp] theorem State.modSlc_pce (i : Nat) (f : Slice → Slice) : (s.modSlc i f).pce = s.pce := rfl
@[simp] theorem State.modSlc_sill (i : Nat) (f : Slice → Slice) : (s.modSlc i f).sill = s.sill := rfl
@[simp] theorem State.modSlc_therm (i : Nat) (f : Slice → Slice) : (s.modSlc i f).therm = s.therm := rfl
@[simp] theorem State.modSlc_zones (i : Nat) (f : Slice → Slice) : (s.modSlc i f).zones = s.zones := rfl
@[simp] theorem State.modSlc_prof (i : Nat) (f : Slice → Slice) : (s.modSlc i f).prof = s.prof := rfl
@[simp] theorem State.modSlc_cap (i : Nat) (f : Slice → Slice) : (s.modSlc i f).cap = s.cap := rfl
@[simp] theorem State.modSlc_engines (i : Nat) (f : Slice → Slice) : (s.modSlc i f).engines = s.engines := rfl
@[simp] theorem State.modSlc_atom (i : Nat) (f : Slice → Slice) : (s.modSlc i f).atom = s.atom := rfl
@[simp] theorem State.modSlc_memc (i : Nat) (f : Slice → Slice) : (s.modSlc i f).memc = s.memc := rfl
@[simp] theorem State.modSlc_slices (i : Nat) (f : Slice → Slice) : (s.modSlc i f).slices = { s.slices with tab := aset {} s.slices.tab i (f (s.slc i)) } := rfl
@[simp] theorem State.modSlc_time (i : Nat) (f : Slice → Slice) : (s.modSlc i f).time = s.time := rfl
@[simp] theorem State.modSlc_twin (i : Nat) (f : Slice → Slice) : (s.modSlc i f).twin = s.twin := rfl
@[simp] theorem State.modSlc_inst (i : Nat) (f : Slice → Slice) : (s.modSlc i f).inst = s.inst := rfl
@[simp] theorem State.modSlc_disp (i : Nat) (f : Slice → Slice) : (s.modSlc i f).disp = s.disp := rfl
@[simp] theorem State.modSlc_clk (i : Nat) (f : Slice → Slice) : (s.modSlc i f).clk = s.clk := rfl
@[simp] theorem State.modSlc_sys (i : Nat) (f : Slice → Slice) : (s.modSlc i f).sys = s.sys := rfl

/-! tookFree: only the number of free values taken changes. -/
@[simp] theorem State.tookFree_pending : s.tookFree.pending = s.pending := rfl
@[simp] theorem State.tookFree_now : s.tookFree.now = s.now := rfl
@[simp] theorem State.tookFree_fresh : s.tookFree.fresh = s.fresh + 1 := rfl
@[simp] theorem State.tookFree_running : s.tookFree.running = s.running := rfl
@[simp] theorem State.tookFree_staged : s.tookFree.staged = s.staged := rfl
@[simp] theorem State.tookFree_commits : s.tookFree.commits = s.commits := rfl
@[simp] theorem State.tookFree_counters : s.tookFree.counters = s.counters := rfl
@[simp] theorem State.tookFree_hwSet : s.tookFree.hwSet = s.hwSet := rfl
@[simp] theorem State.tookFree_mboxes : s.tookFree.mboxes = s.mboxes := rfl
@[simp] theorem State.tookFree_bufs : s.tookFree.bufs = s.bufs := rfl
@[simp] theorem State.tookFree_prot : s.tookFree.prot = s.prot := rfl
@[simp] theorem State.tookFree_run : s.tookFree.run = s.run := rfl
@[simp] theorem State.tookFree_ilk : s.tookFree.ilk = s.ilk := rfl
@[simp] theorem State.tookFree_emit : s.tookFree.emit = s.emit := rfl
@[simp] theorem State.tookFree_recv : s.tookFree.recv = s.recv := rfl
@[simp] theorem State.tookFree_pce : s.tookFree.pce = s.pce := rfl
@[simp] theorem State.tookFree_sill : s.tookFree.sill = s.sill := rfl
@[simp] theorem State.tookFree_therm : s.tookFree.therm = s.therm := rfl
@[simp] theorem State.tookFree_zones : s.tookFree.zones = s.zones := rfl
@[simp] theorem State.tookFree_prof : s.tookFree.prof = s.prof := rfl
@[simp] theorem State.tookFree_cap : s.tookFree.cap = s.cap := rfl
@[simp] theorem State.tookFree_engines : s.tookFree.engines = s.engines := rfl
@[simp] theorem State.tookFree_atom : s.tookFree.atom = s.atom := rfl
@[simp] theorem State.tookFree_memc : s.tookFree.memc = s.memc := rfl
@[simp] theorem State.tookFree_slices : s.tookFree.slices = s.slices := rfl
@[simp] theorem State.tookFree_time : s.tookFree.time = s.time := rfl
@[simp] theorem State.tookFree_twin : s.tookFree.twin = s.twin := rfl
@[simp] theorem State.tookFree_inst : s.tookFree.inst = s.inst := rfl
@[simp] theorem State.tookFree_disp : s.tookFree.disp = s.disp := rfl
@[simp] theorem State.tookFree_clk : s.tookFree.clk = s.clk := rfl
@[simp] theorem State.tookFree_sys : s.tookFree.sys = s.sys := rfl

end Sys2Proof.Machine
end

