-- ==== Sys2Proof/Laws/CoreBase.lean ====
section
/-!
SUPPORT. What no command but a few touches: the queue, the instant, the protection map, the interlock latch and the emitter
channels, gathered as State.core, and one lemma for each operation that leaves them alone.
-/
set_option Elab.async false
namespace Sys2Proof.Machine
set_option linter.unusedTactic false
set_option linter.unreachableTactic false
set_option linter.unusedVariables false

/-- The part of the state that most operations leave alone. -/
structure Core where
  pending : List Instr
  now : Tick
  prot : ProtMap
  latched : Bool
  chans : List EmitCh

def State.core (s : State) : Core := ⟨s.pending, s.now, s.prot, s.ilk.latched, s.emit.chans⟩

/-- A fold of steps that each leave the core alone leaves it alone. -/
@[simp] theorem core_foldl {α : Type} (g : State → α → State) (h : ∀ s a, (g s a).core = s.core) (l : List α) (s : State) :
    (l.foldl g s).core = s.core := by
  induction l generalizing s with
  | nil => rfl
  | cons a l ih => simp [ih, h]


/-- The part that moves of the emitter channels leave alone. -/
structure Base where
  pending : List Instr
  now : Tick
  prot : ProtMap
  latched : Bool

def Core.base (c : Core) : Base := ⟨c.pending, c.now, c.prot, c.latched⟩

@[simp] theorem State.modCh_base (s : State) (c : Nat) (f : EmitCh → EmitCh) : (s.modCh c f).core.base = s.core.base := rfl

@[simp] theorem base_now (c : Core) (t : Tick) : ({ c with now := t } : Core).base = { c.base with now := t } := rfl

/-- A fold of steps that each leave the base alone leaves it alone. -/
@[simp] theorem base_foldl {α : Type} (g : State → α → State) (h : ∀ s a, (g s a).core.base = s.core.base) (l : List α)
    (s : State) : (l.foldl g s).core.base = s.core.base := by
  induction l generalizing s with
  | nil => rfl
  | cons a l ih => simp [ih, h]

@[simp] theorem base_ite (c : Prop) [Decidable c] (a b : Core) : (if c then a else b).base = if c then a.base else b.base := by
  split <;> rfl


/-- The part that the interlock leaves alone too. -/
structure Kept where
  pending : List Instr
  now : Tick
  prot : ProtMap

def Core.kept (c : Core) : Kept := ⟨c.pending, c.now, c.prot⟩

@[simp] theorem kept_mk (p : List Instr) (n : Tick) (m : ProtMap) (l : Bool) (cs : List EmitCh) :
    (⟨p, n, m, l, cs⟩ : Core).kept = ⟨p, n, m⟩ := rfl

@[simp] theorem kept_eta (s : State) : (⟨s.pending, s.now, s.prot⟩ : Kept) = s.core.kept := rfl

@[simp] theorem base_mk (p : List Instr) (n : Tick) (m : ProtMap) (l : Bool) (cs : List EmitCh) :
    (⟨p, n, m, l, cs⟩ : Core).base = ⟨p, n, m, l⟩ := rfl

@[simp] theorem base_eta (s : State) : (⟨s.pending, s.now, s.prot, s.ilk.latched⟩ : Base) = s.core.base := rfl

@[simp] theorem kept_now (c : Core) (t : Tick) : ({ c with now := t } : Core).kept = { c.kept with now := t } := rfl

/-- What leaves the base alone leaves this part alone. -/
theorem kept_of_base {c d : Core} (h : c.base = d.base) : c.kept = d.kept := by
  cases c
  cases d
  simp only [Core.base, Base.mk.injEq] at h
  simp [Core.kept, h.1, h.2.1, h.2.2.1]

@[simp] theorem kept_foldl {α : Type} (g : State → α → State) (h : ∀ s a, (g s a).core.kept = s.core.kept) (l : List α)
    (s : State) : (l.foldl g s).core.kept = s.core.kept := by
  induction l generalizing s with
  | nil => rfl
  | cons a l ih => simp [ih, h]

@[simp] theorem kept_ite (c : Prop) [Decidable c] (a b : Core) : (if c then a else b).kept = if c then a.kept else b.kept := by
  split <;> rfl

/-- The part that a boot leaves alone too. -/
def Core.line (c : Core) : List Instr × Tick := (c.pending, c.now)

@[simp] theorem line_mk (p : List Instr) (n : Tick) (m : ProtMap) (l : Bool) (cs : List EmitCh) :
    (⟨p, n, m, l, cs⟩ : Core).line = (p, n) := rfl

@[simp] theorem line_eta (s : State) : (s.pending, s.now) = s.core.line := rfl

/-- What leaves the pending queue, the instant and the map alone leaves the line alone. -/
theorem line_of_kept {c d : Core} (h : c.kept = d.kept) : c.line = d.line := by
  cases c
  cases d
  simp only [Core.kept, Kept.mk.injEq] at h
  simp [Core.line, h.1, h.2.1]

/-- What leaves the base alone leaves the line alone. -/
theorem line_of_base {c d : Core} (h : c.base = d.base) : c.line = d.line := by
  cases c
  cases d
  simp only [Core.base, Base.mk.injEq] at h
  simp [Core.line, h.1, h.2.1]

@[simp] theorem core_ite (c : Prop) [Decidable c] (a b : State) : (if c then a else b).core = if c then a.core else b.core := by
  split <;> rfl

/-- The same for a fold whose accumulator carries something beside the state. -/
@[simp] theorem core_foldl_fst {α β : Type} (g : State × β → α → State × β) (h : ∀ p a, (g p a).1.core = p.1.core) (l : List α)
    (p : State × β) : (l.foldl g p).1.core = p.1.core := by
  induction l generalizing p with
  | nil => rfl
  | cons a l ih => simp [ih, h]

@[simp] theorem State.modEmit_core (s : State) (f : Emit → Emit) (h : (f s.emit).chans = s.emit.chans) :
    (s.modEmit f).core = s.core := by simp [State.core, h]

@[simp] theorem State.advance_core (s : State) (t : Tick) : (s.advance t).core = { s.core with now := max s.now t } := by
  unfold State.advance
  simp only []
  split <;> rfl

@[simp] theorem core_mk (pending : List Instr) (now : Tick) (fresh : Nat) (running : List (Nat × Nat)) (staged : List (Nat × Nat)) (commits : List PendingCommit) (counters : List (Nat × Counter)) (hwSet : List (Nat × Tick)) (mboxes : List Mailbox) (bufs : List Host.Cell) (prot : ProtMap) (run : Run) (ilk : Interlock) (emit : Emit) (recv : Recv) (pce : Pce) (sill : Sillage) (therm : Therm) (zones : List (Nat × Zone)) (prof : Profile) (cap : Capture) (engines : List Engine) (atom : Atom) (memc : Memc) (slices : Slices) (time : TimeBase) (twin : Twin) (inst : Inst) (disp : Disp) (clk : Clk) (sys : Sys) :
    (State.mk pending now fresh running staged commits counters hwSet mboxes bufs prot run ilk emit recv pce sill therm zones prof cap engines atom memc slices time twin inst disp clk sys).core = ⟨pending, now, prot, ilk.latched, emit.chans⟩ := rfl

@[simp] theorem core_eta (s : State) : (⟨s.pending, s.now, s.prot, s.ilk.latched, s.emit.chans⟩ : Core) = s.core := rfl


@[simp] theorem State.putBoth_core (s : State) (key v : Nat) : (State.putBoth s key v).core = s.core := rfl
@[simp] theorem State.hwMark_core (s : State) (id : Nat) : (State.hwMark s id).core = s.core := rfl
@[simp] theorem State.count_core (s : State) (key n : Nat) : (State.count s key n).core = s.core := by simp [State.count]
@[simp] theorem State.bump_core (s : State) (key : Nat) : (State.bump s key).core = s.core := rfl
@[simp] theorem State.modMbox_core (s : State) (m : Nat) (f : Mailbox → Mailbox) : (State.modMbox s m f).core = s.core := rfl
@[simp] theorem State.modRun_core (s : State) (f : Run → Run) : (State.modRun s f).core = s.core := rfl
@[simp] theorem State.modSlot_core (s : State) (k : Nat) (f : ToneSlot → ToneSlot) : (State.modSlot s k f).core = s.core := rfl
@[simp] theorem State.modModule_core (s : State) (c : Nat) (f : Module → Module) : (State.modModule s c f).core = s.core := rfl
@[simp] theorem State.modRecv_core (s : State) (f : Recv → Recv) : (State.modRecv s f).core = s.core := rfl
@[simp] theorem State.modPce_core (s : State) (f : Pce → Pce) : (State.modPce s f).core = s.core := rfl
@[simp] theorem State.modSill_core (s : State) (f : Sillage → Sillage) : (State.modSill s f).core = s.core := rfl
@[simp] theorem State.modTherm_core (s : State) (f : Therm → Therm) : (State.modTherm s f).core = s.core := rfl
@[simp] theorem State.modProf_core (s : State) (f : Profile → Profile) : (State.modProf s f).core = s.core := rfl
@[simp] theorem State.modZone_core (s : State) (z : Nat) (f : Zone → Zone) : (State.modZone s z f).core = s.core := rfl
@[simp] theorem State.modCap_core (s : State) (i : Nat) (f : CapSlot → CapSlot) : (State.modCap s i f).core = s.core := rfl
@[simp] theorem State.modEng_core (s : State) (i : Nat) (f : Engine → Engine) : (State.modEng s i f).core = s.core := rfl
@[simp] theorem State.modAtom_core (s : State) (f : Atom → Atom) : (State.modAtom s f).core = s.core := rfl
@[simp] theorem State.modRing_core (s : State) (i : Nat) (f : Ring → Ring) : (State.modRing s i f).core = s.core := rfl
@[simp] theorem State.modPort_core (s : State) (i : Nat) (f : Port → Port) : (State.modPort s i f).core = s.core := rfl
@[simp] theorem State.modMemc_core (s : State) (f : Memc → Memc) : (State.modMemc s f).core = s.core := rfl
@[simp] theorem State.modTime_core (s : State) (f : TimeBase → TimeBase) : (State.modTime s f).core = s.core := rfl
@[simp] theorem State.modTwin_core (s : State) (f : Twin → Twin) : (State.modTwin s f).core = s.core := rfl
@[simp] theorem State.modInst_core (s : State) (f : Inst → Inst) : (State.modInst s f).core = s.core := rfl
@[simp] theorem State.modDisp_core (s : State) (f : Disp → Disp) : (State.modDisp s f).core = s.core := rfl
@[simp] theorem State.modClk_core (s : State) (f : Clk → Clk) : (State.modClk s f).core = s.core := rfl
@[simp] theorem State.modSys_core (s : State) (f : Sys → Sys) : (State.modSys s f).core = s.core := rfl
@[simp] theorem State.modSlc_core (s : State) (i : Nat) (f : Slice → Slice) : (State.modSlc s i f).core = s.core := rfl
@[simp] theorem State.modSession_core (s : State) (n : Nat) (f : Session → Session) : (State.modSession s n f).core = s.core := rfl
@[simp] theorem State.tookFree_core (s : State) : (State.tookFree s).core = s.core := rfl
@[simp] theorem State.settle_core (s : State) : (State.settle s).core = s.core := rfl
@[simp] theorem State.woken_core (s : State) (ds : List Nat) : (State.woken s ds).core = s.core := by simp [State.woken]
@[simp] theorem State.pulse_core (s : State) (g crossing src dst : Nat) : (State.pulse s g crossing src dst).core = s.core := by simp [State.pulse]
@[simp] theorem State.perfEvent_core (s : State) (ev x y n : Nat) : (State.perfEvent s ev x y n).core = s.core := by simp [State.perfEvent]
@[simp] theorem State.clearCtr_core (s : State) (key : Nat) : (State.clearCtr s key).core = s.core := rfl
@[simp] theorem State.flagMbox_core (s : State) (m b : Nat) (f : Mailbox → Mailbox) : (State.flagMbox s m b f).core = s.core := rfl
@[simp] theorem State.refusedMbox_core (s : State) (m : Nat) : (State.refusedMbox s m).core = s.core := rfl
@[simp] theorem State.raise_core (s : State) (v : Nat) : (State.raise s v).core = s.core := rfl
@[simp] theorem State.deliver_core (s : State) (r : EventRec) : (State.deliver s r).core = s.core := by simp [State.deliver]
@[simp] theorem State.deviceRecordAt_core (s : State) (time kind sev valA valB firstCh : Nat) : (State.deviceRecordAt s time kind sev valA valB firstCh).core = s.core := by simp [State.deviceRecordAt]
@[simp] theorem State.deviceRecord_core (s : State) (kind sev valA valB firstCh : Nat) : (State.deviceRecord s kind sev valA valB firstCh).core = s.core := by simp [State.deviceRecord]
@[simp] theorem State.lateOnce_core (s : State) : (State.lateOnce s).core = s.core := rfl
@[simp] theorem State.faultsLost_core (s : State) (cons : Word) (n : Nat) : (State.faultsLost s cons n).core = s.core := by simp [State.faultsLost]
@[simp] theorem State.logFault_core (s : State) (time cls cause inst addr master outcome detail : Nat) : (State.logFault s time cls cause inst addr master outcome detail).core = s.core := by
  unfold State.logFault
  extract_lets
  rw [State.faultsLost_core, State.modSys_core]
@[simp] theorem State.healthFull_core (s : State) (cause inst detail cls addr master outcome : Nat) : (State.healthFull s cause inst detail cls addr master outcome).core = s.core := by simp [State.healthFull]
@[simp] theorem State.health_core (s : State) (cause inst detail cls : Nat) : (State.health s cause inst detail cls).core = s.core := by simp [State.health]
@[simp] theorem State.pump_core (s : State) (m : Nat) (n : Nat) : (State.pump s m n).core = s.core := by
  induction n generalizing s m with
  | zero => unfold State.pump; rfl
  | succ n ih =>
    unfold State.pump
    simp only []
    repeat' (first | with_reducible rfl | (simp [ih]; done) | split | simp [ih])
@[simp] theorem State.sendAs_core (s : State) (own : Bool) (q : ReqId) (st : Status) (final dup replayed : Bool) (payload : List Byte) : (State.sendAs s own q st final dup replayed payload).core = s.core := by simp [State.sendAs]
@[simp] theorem State.send_core (s : State) (q : ReqId) (st : Status) (final replayed : Bool) (payload : List Byte) : (State.send s q st final replayed payload).core = s.core := by simp [State.send]
@[simp] theorem State.refuse_core (s : State) (q : ReqId) (st : Status) (dup : Bool) : (State.refuse s q st dup).core = s.core := by simp [State.refuse]
@[simp] theorem State.final_core (s : State) (q : ReqId) (st : Status) (payload : List Byte) : (State.final s q st payload).core = s.core := by simp [State.final]
@[simp] theorem State.accept_core (s : State) (q : ReqId) : (State.accept s q).core = s.core := by simp [State.accept]
@[simp] theorem State.ivlRestart_core (s : State) (ps : PSet) (grp : Nat) : (State.ivlRestart s ps grp).core = s.core := rfl
@[simp] theorem State.ramanTake_core (s : State) : (State.ramanTake s).core = s.core := by
  unfold State.ramanTake
  (repeat' split) <;> simp
@[simp] theorem State.ramanDrop_core (s : State) : (State.ramanDrop s).core = s.core := by simp [State.ramanDrop]
@[simp] theorem State.ramanAbort_core (s : State) : (State.ramanAbort s).core = s.core := by simp [State.ramanAbort]
@[simp] theorem State.resend_core (s : State) (q : Req) (op : Nat) (e : Remembered) : (State.resend s q op e).core = s.core := by
  unfold State.resend
  (repeat' split) <;> simp
@[simp] theorem State.gate_core (s : State) (q : Req) (op cls : Nat) (grant : Bool) (body : State → ReqId → State) (h_body : ∀ s0 x0, (body s0 x0).core = s0.core) : (State.gate s q op cls grant body).core = s.core := by
  unfold State.gate
  (try simp only [])
  (repeat' split) <;> simp_all
@[simp] theorem State.gate_base (s : State) (q : Req) (op cls : Nat) (grant : Bool) (body : State → ReqId → State)
    (h_body : ∀ s0 x0, (body s0 x0).core.base = s0.core.base) :
    (State.gate s q op cls grant body).core.base = s.core.base := by
  unfold State.gate
  simp only []
  (repeat' split) <;> simp [h_body]
@[simp] theorem State.gate_kept (s : State) (q : Req) (op cls : Nat) (grant : Bool) (body : State → ReqId → State)
    (h_body : ∀ s0 x0, (body s0 x0).core.kept = s0.core.kept) :
    (State.gate s q op cls grant body).core.kept = s.core.kept := by
  unfold State.gate
  simp only []
  (repeat' split) <;> simp [h_body]
@[simp] theorem State.begins_core (s : State) (q : ReqId) : (State.begins s q).core = s.core := by simp [State.begins]
@[simp] theorem State.ok_core (s : State) (q : ReqId) (payload : List Byte) : (State.ok s q payload).core = s.core := by simp [State.ok]
@[simp] theorem State.takes_core (s : State) (q : ReqId) : (State.takes s q).core = s.core := by simp [State.takes]
@[simp] theorem State.wrote_core (s : State) (tier n : Nat) : (State.wrote s tier n).core = s.core := rfl
@[simp] theorem State.captureEvent_core (s : State) (i cause time sev : Nat) : (State.captureEvent s i cause time sev).core = s.core := by simp [State.captureEvent]
@[simp] theorem State.flushEngines_core (s : State) (time : Nat) : (State.flushEngines s time).core = s.core := by
  unfold State.flushEngines
  extract_lets
  repeat' (first | with_reducible rfl | (simp +zetaDelta; done) | split | simp +zetaDelta)
@[simp] theorem State.enterSealing_core (s : State) (i : Nat) : (State.enterSealing s i).core = s.core := by simp [State.enterSealing]
@[simp] theorem State.pinWritten_core (s : State) (tier pos start stop : Nat) : (State.pinWritten s tier pos start stop).core = s.core := by
  unfold State.pinWritten
  (try extract_lets)
  refine core_foldl _ (fun _ _ => ?_) _ _
  (try extract_lets)
  (repeat' split) <;> simp +zetaDelta
@[simp] theorem State.starDrive_core (s : State) (fired : Nat) : (State.starDrive s fired).core = s.core := by simp [State.starDrive]
@[simp] theorem State.captureStart_core (s : State) (i trigTime frac fired trigZone trigSeq : Nat) (heldRec : Bool) : (State.captureStart s i trigTime frac fired trigZone trigSeq heldRec).core = s.core := by simp [State.captureStart]
@[simp] theorem State.captureTrigger_core (s : State) (i src trigTime frac trigZone trigSeq : Nat) (heldRec : Bool) : (State.captureTrigger s i src trigTime frac trigZone trigSeq heldRec).core = s.core := by simp [State.captureTrigger]
@[simp] theorem State.triggerAll_core (s : State) (src trigTime frac trigZone trigSeq : Nat) (heldRec : Bool) : (State.triggerAll s src trigTime frac trigZone trigSeq heldRec).core = s.core := by simp [State.triggerAll]
@[simp] theorem State.zoneTrigger_core (s : State) (r : EventRec) (heldRec : Bool) : (State.zoneTrigger s r heldRec).core = s.core := by simp [State.zoneTrigger]
@[simp] theorem State.trigSeqKnown_core (s : State) (r : EventRec) (seq : Nat) : (State.trigSeqKnown s r seq).core = s.core := rfl
@[simp] theorem State.sealed_core (s : State) (i : Nat) : (State.sealed s i).core = s.core := by
  unfold State.sealed
  (try simp only [])
  (repeat' split) <;> simp_all
@[simp] theorem State.linkWire_core (s : State) (bytes : List Byte) : (State.linkWire s bytes).core = s.core := by simp [State.linkWire]
@[simp] theorem State.linkDrain_core (s : State) (n : Nat) : (State.linkDrain s n).core = s.core := by
  induction n generalizing s with
  | zero => unfold State.linkDrain; rfl
  | succ n ih =>
    unfold State.linkDrain
    simp only []
    repeat' (first | with_reducible rfl | (simp [ih]; done) | split | simp [ih])
@[simp] theorem State.linkSend_core (s : State) (m : LinkMsg) : (State.linkSend s m).core = s.core := by simp [State.linkSend]
@[simp] theorem State.linkConfirm_core (s : State) (r : EventRec) : (State.linkConfirm s r).core = s.core := by
  unfold State.linkConfirm
  (repeat' split) <;> simp
@[simp] theorem State.sendTables_core (s : State) : (State.sendTables s).core = s.core := by
  unfold State.sendTables
  exact core_foldl _ (fun _ _ => by simp only [State.linkSend_core]) _ _
@[simp] theorem State.refreshDark_core (s : State) : (State.refreshDark s).core = s.core := rfl
@[simp] theorem State.sendZone_core (s : State) (r : EventRec) (confirm : Bool) : (State.sendZone s r confirm).core = s.core := by simp [State.sendZone]
@[simp] theorem State.zoneRecord_core (s : State) (z kind sev valA valB firstCh time : Nat) : (State.zoneRecord s z kind sev valA valB firstCh time).core = s.core := by
  unfold State.zoneRecord
  (try simp only [])
  (repeat' split) <;> simp_all
@[simp] theorem State.pairRecord_core (s : State) (z cause det sev : Nat) : (State.pairRecord s z cause det sev).core = s.core := by simp [State.pairRecord]
@[simp] theorem State.tellPaired_core (s : State) (z : Nat) : (State.tellPaired s z).core = s.core := by simp [State.tellPaired]
@[simp] theorem State.repair_core (s : State) (z : Nat) : (State.repair s z).core = s.core := by simp [State.repair]
@[simp] theorem State.modCrit_core (s : State) (z i : Nat) (f : Crit → Crit) : (State.modCrit s z i f).core = s.core := rfl
@[simp] theorem State.critRecord_core (s : State) (z i cause sev : Nat) : (State.critRecord s z i cause sev).core = s.core := by simp [State.critRecord]
@[simp] theorem State.critEval_core (s : State) (z i : Nat) (d : ZoneDesc) (raise clear : Bool) (assertN clearN : Nat) (time valA valB firstCh : Nat) : (State.critEval s z i d raise clear assertN clearN time valA valB firstCh).core = s.core := by
  unfold State.critEval
  (try simp only [])
  (repeat' split) <;> simp_all
@[simp] theorem State.absentEval_core (s : State) (z : Nat) : (State.absentEval s z).core = s.core := rfl
@[simp] theorem State.acousticEval_core (s : State) (z : Nat) (d : ZoneDesc) (t : Nat) : (State.acousticEval s z d t).core = s.core := by simp [State.acousticEval]
@[simp] theorem State.acousticSet_core (s : State) (h t : Nat) : (State.acousticSet s h t).core = s.core := by
  unfold State.acousticSet
  (try simp only [])
  repeat' (first | with_reducible rfl | (rw [core_foldl]) | (simp; done) | (intro _) | split | (rw [State.gate_core]) | (rw [core_foldl_fst]) | simp)
@[simp] theorem State.tempCrit_core (s : State) (z i : Nat) (d : ZoneDesc) (n : Nat) (q : List (Nat × Int)) (level low : Int) (time : Nat) : (State.tempCrit s z i d n q level low time).core = s.core := by
  unfold State.tempCrit
  (repeat' split) <;> simp
@[simp] theorem State.tempEval_core (s : State) (z : Nat) (d : ZoneDesc) (time : Nat) : (State.tempEval s z d time).core = s.core := by simp [State.tempEval]
@[simp] theorem State.tempAll_core (s : State) (time : Nat) : (State.tempAll s time).core = s.core := by
  unfold State.tempAll
  (try simp only [])
  repeat' (first | with_reducible rfl | (rw [core_foldl]) | (simp; done) | (intro _) | split | (rw [State.gate_core]) | (rw [core_foldl_fst]) | simp)
@[simp] theorem State.breakRecord_core (s : State) (bin cause sev pjl time : Nat) : (State.breakRecord s bin cause sev pjl time).core = s.core := by simp [State.breakRecord]
@[simp] theorem State.breakStep_core (s : State) (time : Nat) (p : List Nat) : (State.breakStep s time p).core = s.core := by
  unfold State.breakStep
  (try simp only [])
  (repeat' split) <;> simp_all
@[simp] theorem State.breakZones_core (s : State) (oldBin : Option Nat) (time : Nat) : (State.breakZones s oldBin time).core = s.core := by
  unfold State.breakZones
  (try simp only [])
  repeat' (first | with_reducible rfl | (rw [core_foldl]) | (simp; done) | (intro _) | split | (rw [State.gate_core]) | (rw [core_foldl_fst]) | simp)
@[simp] theorem State.lossZones_core (s : State) (ref m : List Int) (time : Nat) : (State.lossZones s ref m time).core = s.core := by
  unfold State.lossZones
  (try simp only [])
  repeat' (first | with_reducible rfl | (rw [core_foldl]) | (simp; done) | (intro _) | split | (rw [State.gate_core]) | (rw [core_foldl_fst]) | simp)
@[simp] theorem State.lossTake_core (s : State) (time : Nat) (p : List Nat) : (State.lossTake s time p).core = s.core := by simp [State.lossTake]
@[simp] theorem State.profileDone_core (s : State) (time : Nat) (p : List Nat) : (State.profileDone s time p).core = s.core := by simp [State.profileDone]
@[simp] theorem State.critDrop_core (s : State) (z i cause : Nat) : (State.critDrop s z i cause).core = s.core := by simp [State.critDrop]
@[simp] theorem State.suspendAll_core (s : State) : (State.suspendAll s).core = s.core := by
  unfold State.suspendAll
  (try simp only [])
  (repeat' split) <;> simp_all
@[simp] theorem State.beginConv_core (s : State) (c : Conv) : (State.beginConv s c).core = s.core := by simp [State.beginConv]
@[simp] theorem State.nextConv_core (s : State) : (State.nextConv s).core = s.core := by
  unfold State.nextConv
  (repeat' split) <;> simp
@[simp] theorem State.convGo_core (s : State) : (State.convGo s).core = s.core := by simp [State.convGo]
@[simp] theorem State.enqueue_core (s : State) (c : Conv) : (State.enqueue s c).core = s.core := by simp [State.enqueue]
@[simp] theorem State.inject_core (s : State) (req input cfg : Nat) (reversed : Bool) : (State.inject s req input cfg reversed).core = s.core := by simp [State.inject]
@[simp] theorem State.injectRefdiv_core (s : State) (num : Nat) : (State.injectRefdiv s num).core = s.core := by simp [State.injectRefdiv]

end Sys2Proof.Machine
end

