-- ==== Sys2Proof/Laws/CoreSignal.lean ====
section
/-!
SUPPORT. The core under the signal chain, tiles and the emitter drive.
-/
set_option Elab.async false
namespace Sys2Proof.Machine
set_option linter.unusedTactic false
set_option linter.unreachableTactic false
set_option linter.unusedVariables false

@[simp] theorem State.emitterAt_core (s : State) (time cause ch cls det : Nat) : (State.emitterAt s time cause ch cls det).core = s.core := by simp [State.emitterAt]
@[simp] theorem State.emitter_core (s : State) (cause ch cls det : Nat) : (State.emitter s cause ch cls det).core = s.core := by simp [State.emitter]
@[simp] theorem State.loopOpen_base (s : State) (c : Nat) : (State.loopOpen s c).core.base = s.core.base := by simp [State.loopOpen]
@[simp] theorem State.loopOpen_kept (s : State) (c : Nat) : (State.loopOpen s c).core.kept = s.core.kept := kept_of_base (State.loopOpen_base s c)
@[simp] theorem State.rampTo_base (s : State) (c target : Nat) : (State.rampTo s c target).core.base = s.core.base := by simp [State.rampTo]
@[simp] theorem State.rampTo_kept (s : State) (c target : Nat) : (State.rampTo s c target).core.kept = s.core.kept := kept_of_base (State.rampTo_base s c target)
@[simp] theorem State.releaseRamps_base (s : State) : (State.releaseRamps s).core.base = s.core.base := by
  unfold State.releaseRamps
  (try simp only [])
  repeat' (first | with_reducible rfl | (rw [base_foldl]) | (simp; done) | (intro _) | split | (rw [State.gate_base]) | (rw [core_foldl_fst]) | simp)
@[simp] theorem State.releaseRamps_kept (s : State) : (State.releaseRamps s).core.kept = s.core.kept := kept_of_base (State.releaseRamps_base s)
@[simp] theorem State.dark_base (s : State) (cs : List Nat) : (State.dark s cs).core.base = s.core.base := by
  unfold State.dark
  (try simp only [])
  repeat' (first | with_reducible rfl | (rw [base_foldl]) | (simp; done) | (intro _) | split | (rw [State.gate_base]) | (rw [core_foldl_fst]) | simp)
@[simp] theorem State.dark_kept (s : State) (cs : List Nat) : (State.dark s cs).core.kept = s.core.kept := kept_of_base (State.dark_base s cs)
@[simp] theorem State.rampSet_base (s : State) (cs : List Nat) (up : Bool) : (State.rampSet s cs up).core.base = s.core.base := by simp [State.rampSet]
@[simp] theorem State.rampSet_kept (s : State) (cs : List Nat) (up : Bool) : (State.rampSet s cs up).core.kept = s.core.kept := kept_of_base (State.rampSet_base s cs up)
@[simp] theorem State.riseAll_base (s : State) : (State.riseAll s).core.base = s.core.base := by simp [State.riseAll]
@[simp] theorem State.riseAll_kept (s : State) : (State.riseAll s).core.kept = s.core.kept := kept_of_base (State.riseAll_base s)
@[simp] theorem State.riseAll_line (s : State) : (State.riseAll s).core.line = s.core.line := line_of_base (State.riseAll_base s)
@[simp] theorem State.enableWrite_base (s : State) (old : Nat) : (State.enableWrite s old).core.base = s.core.base := by simp [State.enableWrite]
@[simp] theorem State.enableWrite_kept (s : State) (old : Nat) : (State.enableWrite s old).core.kept = s.core.kept := kept_of_base (State.enableWrite_base s old)
@[simp] theorem State.setpointWrite_base (s : State) (c old : Nat) : (State.setpointWrite s c old).core.base = s.core.base := by simp [State.setpointWrite]
@[simp] theorem State.setpointWrite_kept (s : State) (c old : Nat) : (State.setpointWrite s c old).core.kept = s.core.kept := kept_of_base (State.setpointWrite_base s c old)
@[simp] theorem State.loopModeWrite_base (s : State) (old : Nat) : (State.loopModeWrite s old).core.base = s.core.base := by simp [State.loopModeWrite]
@[simp] theorem State.loopModeWrite_kept (s : State) (old : Nat) : (State.loopModeWrite s old).core.kept = s.core.kept := kept_of_base (State.loopModeWrite_base s old)
@[simp] theorem State.loopRun_base (s : State) (m measured : Nat) : (State.loopRun s m measured).core.base = s.core.base := by
  unfold State.loopRun
  (try simp only [])
  repeat' (first | with_reducible rfl | (rw [base_foldl]) | (simp; done) | (intro _) | split | (rw [State.gate_base]) | (rw [core_foldl_fst]) | simp)
@[simp] theorem State.loopRun_kept (s : State) (m measured : Nat) : (State.loopRun s m measured).core.kept = s.core.kept := kept_of_base (State.loopRun_base s m measured)
@[simp] theorem State.updateCode_base (s : State) (c : Nat) : (State.updateCode s c).core.base = s.core.base := by simp [State.updateCode]
@[simp] theorem State.updateCode_kept (s : State) (c : Nat) : (State.updateCode s c).core.kept = s.core.kept := kept_of_base (State.updateCode_base s c)
@[simp] theorem State.pumpFail_base (s : State) : (State.pumpFail s).core.base = s.core.base := by simp [State.pumpFail]
@[simp] theorem State.pumpFail_kept (s : State) : (State.pumpFail s).core.kept = s.core.kept := kept_of_base (State.pumpFail_base s)
@[simp] theorem State.pumpTake_core (s : State) (t : Int) : (State.pumpTake s t).core = s.core := by
  unfold State.pumpTake
  (try simp only [])
  (repeat' split) <;> simp_all
@[simp] theorem State.pumpReading_base (s : State) (t : Int) : (State.pumpReading s t).core.base = s.core.base := by simp [State.pumpReading]
@[simp] theorem State.pumpReading_kept (s : State) (t : Int) : (State.pumpReading s t).core.kept = s.core.kept := kept_of_base (State.pumpReading_base s t)
@[simp] theorem State.wlDrop_core (s : State) : (State.wlDrop s).core = s.core := by simp [State.wlDrop]
@[simp] theorem State.modeTaken_core (s : State) (z time : Nat) : (State.modeTaken s z time).core = s.core := rfl
@[simp] theorem State.switchGroup_core (s : State) (j : Nat) (toCons : Bool) (time : Nat) (skip : Option (Nat × Nat)) : (State.switchGroup s j toCons time skip).core = s.core := by
  unfold State.switchGroup
  (try simp only [])
  repeat' (first | with_reducible rfl | (rw [core_foldl]) | (simp; done) | (intro _) | split | (rw [State.gate_core]) | (rw [core_foldl_fst]) | simp)
@[simp] theorem State.planModes_core (s : State) : (State.planModes s).core = s.core := by
  unfold State.planModes
  (try simp only [])
  repeat' (first | with_reducible rfl | (rw [core_foldl]) | (simp; done) | (intro _) | split | (rw [State.gate_core]) | (rw [core_foldl_fst]) | simp)
@[simp] theorem State.modeDue_core (s : State) (j : Nat) (x : ShotJob) : (State.modeDue s j x).core = s.core := by
  unfold State.modeDue
  (repeat' split) <;> simp
@[simp] theorem State.dropTile_core (s : State) (r : Row) : (State.dropTile s r).core = s.core := by simp [State.dropTile]
@[simp] theorem State.rowArrives_core (s : State) (r : Row) : (State.rowArrives s r).core = s.core := by simp [State.rowArrives]
@[simp] theorem State.rowMade_core (s : State) (r : Row) (pos : Nat) : (State.rowMade s r pos).core = s.core := by
  unfold State.rowMade
  (try simp only [])
  (repeat' split) <;> simp_all
@[simp] theorem State.walkGroup_core (s : State) (j : ShotJob) (k grp lo hi : Nat) (y : Nat → Cplx × Cplx) : (State.walkGroup s j k grp lo hi y).core = s.core := by simp [State.walkGroup]
@[simp] theorem State.walkShot_core (s : State) (j : ShotJob) (k lo hi : Nat) (y : Nat → Cplx × Cplx) (n : Nat) : (State.walkShot s j k lo hi y n).core = s.core := by
  induction n generalizing s j k lo hi y with
  | zero => unfold State.walkShot; rfl
  | succ n ih =>
    unfold State.walkShot
    simp only []
    repeat' (first | with_reducible rfl | (simp [ih]; done) | split | simp [ih])
@[simp] theorem State.groupStitched_core (s : State) (j : ShotJob) : (State.groupStitched s j).core = s.core := rfl
@[simp] theorem State.ivlStep_core (s : State) (j : ShotJob) (ready : Nat) : (State.ivlStep s j ready).core = s.core := by simp [State.ivlStep]
@[simp] theorem State.ovrMark_core (s : State) (k i : Nat) (j : ShotJob) : (State.ovrMark s k i j).core = s.core := rfl
@[simp] theorem State.overrange_core (s : State) (first : Nat) (codes : List LaneCodes) : (State.overrange s first codes).core = s.core := by simp [State.overrange]
@[simp] theorem State.takeCodes_core (s : State) (start : Nat) (codes : List LaneCodes) : (State.takeCodes s start codes).core = s.core := by simp [State.takeCodes]
@[simp] theorem State.pceBlock_core (s : State) (k : Nat) (j : ShotJob) : (State.pceBlock s k j).core = s.core := by simp [State.pceBlock]
@[simp] theorem State.fadingRecord_core (s : State) (z : Nat) (cause mask cnt valB first time : Nat) : (State.fadingRecord s z cause mask cnt valB first time).core = s.core := by simp [State.fadingRecord]
@[simp] theorem State.evalZone_core (s : State) (z : Nat) (d : ZoneDesc) (ivl time : Nat) : (State.evalZone s z d ivl time).core = s.core := by simp [State.evalZone]
@[simp] theorem State.profileNext_core (s : State) : (State.profileNext s).core = s.core := by
  unfold State.profileNext
  (repeat' split) <;> simp
@[simp] theorem State.profilesAll_core (s : State) (n : Nat) : (State.profilesAll s n).core = s.core := by
  induction n generalizing s with
  | zero => rfl
  | succ n ih => rw [State.profilesAll, ih, State.profileNext_core]
@[simp] theorem State.stitchEval_core (s : State) : (State.stitchEval s).core = s.core := by
  unfold State.stitchEval
  (try simp only [])
  repeat' (first | with_reducible rfl | (rw [core_foldl]) | (simp; done) | (intro _) | split | (rw [State.gate_core]) | (rw [core_foldl_fst]) | simp)
@[simp] theorem State.protFault_core (s : State) (k a : Nat) : (State.protFault s k a).core = s.core := by simp [State.protFault]
@[simp] theorem State.dramPut_core (s : State) (a : Nat) (bs : List Byte) : (State.dramPut s a bs).core = s.core := by simp [State.dramPut]
@[simp] theorem State.dramZero_core (s : State) (a n : Nat) : (State.dramZero s a n).core = s.core := rfl
@[simp] theorem State.masterWrite_core (s : State) (k a : Nat) (bs : List Byte) : (State.masterWrite s k a bs).core = s.core := by simp [State.masterWrite]
@[simp] theorem State.masterRead_core (s : State) (k a n : Nat) : (State.masterRead s k a n).1.core = s.core := by
  unfold State.masterRead
  (repeat' split) <;> simp
@[simp] theorem State.streamOut_core (s : State) (typ b : Nat) (pass : Session → Bool) (item : List Byte) : (State.streamOut s typ b pass item).core = s.core := rfl
@[simp] theorem State.objectOut_core (s : State) (kind b seq : Nat) (pass : Session → Bool) (data : List Byte) : (State.objectOut s kind b seq pass data).core = s.core := rfl
@[simp] theorem State.dropSliceTile_core (s : State) (pos seq : Nat) : (State.dropSliceTile s pos seq).core = s.core := rfl
@[simp] theorem State.addGap_core (s : State) (g : Gap) : (State.addGap s g).core = s.core := rfl
@[simp] theorem State.gapLower_core (s : State) (group start stop cause : Nat) : (State.gapLower s group start stop cause).core = s.core := by
  unfold State.gapLower
  (repeat' split) <;> simp
@[simp] theorem State.chainReset_core (s : State) (h : Nat) : (State.chainReset s h).core = s.core := rfl
@[simp] theorem State.chainResetAll_core (s : State) : (State.chainResetAll s).core = s.core := rfl
@[simp] theorem State.tileMissing_core (s : State) (t : Tile) (cause : Nat) : (State.tileMissing s t cause).core = s.core := by simp [State.tileMissing]
@[simp] theorem State.enginesDrop_core (s : State) (t : Tile) : (State.enginesDrop s t).core = s.core := rfl
@[simp] theorem State.evict_core (s : State) (pos : Nat) : (State.evict s pos).core = s.core := by
  unfold State.evict
  (repeat' split) <;> simp
@[simp] theorem State.lateCount_core (s : State) (i : Nat) : (State.lateCount s i).core = s.core := by simp [State.lateCount]
@[simp] theorem State.onTime_core (s : State) (i : Nat) : (State.onTime s i).core = s.core := rfl
@[simp] theorem State.skipTile_core (s : State) (t : Tile) (i : Nat) : (State.skipTile s t i).core = s.core := by simp [State.skipTile]
@[simp] theorem State.shiftSkip_core (s : State) (t : Tile) (i : Nat) : (State.shiftSkip s t i).core = s.core := by simp [State.shiftSkip]
@[simp] theorem State.sliceLoses_core (s : State) (t : Tile) (i : Nat) : (State.sliceLoses s t i).core = s.core := by simp [State.sliceLoses]
@[simp] theorem State.sliceFault_core (s : State) (i cause : Nat) : (State.sliceFault s i cause).core = s.core := by simp [State.sliceFault]
@[simp] theorem State.giveTile_core (s : State) (i set idx : Nat) (t : Tile) (reset : Bool) : (State.giveTile s i set idx t reset).core = s.core := rfl
@[simp] theorem State.schedule_core (s : State) (t : Tile) : (State.schedule s t).core = s.core := by simp [State.schedule]
@[simp] theorem State.queueArchive_core (s : State) (t : Tile) : (State.queueArchive s t).1.core = s.core := by
  unfold State.queueArchive
  (try simp only [])
  (repeat' split) <;> simp_all
@[simp] theorem State.modClosed_core (s : State) (pos : Nat) (f : Tile → Tile) : (State.modClosed s pos f).core = s.core := rfl
@[simp] theorem core_slices (s : State) (x : Slices) : ({ s with slices := x } : State).core = s.core := rfl
@[simp] theorem State.deliverTile_core (s : State) (t : Tile) : (State.deliverTile s t).1.core = s.core := by
  unfold State.deliverTile
  generalize 66560 = n
  generalize hr : s.masterRead mTile (s.slotAddr t.pos) n = r
  have h : r.1.core = s.core := by rw [← hr]; simp
  exact (core_slices r.1 _).trans h
@[simp] theorem State.closeTile_core (s : State) (t : Tile) (early : Bool) : (State.closeTile s t early).core = s.core := by
  unfold State.closeTile
  generalize 66560 = n
  generalize 1024 = m
  generalize (2 : Nat) ^ 32 = k
  extract_lets s0 seq t1 unused s1 s2 r0 s3 r t2 s4
  have h0 : s0.core = s.core := State.modSill_core _ _
  clear_value s0
  split
  · rw [State.tileMissing_core, State.addGap_core, h0]
  · have h1 : s1.core = s.core := by
      simp only [s1]
      split
      · rw [State.dramPut_core, State.dramZero_core, State.dramZero_core, h0]
      · rw [State.protFault_core, h0]
    clear_value s1 t1
    have h2 : s2.core = s.core := by
      simp only [s2]
      rw [State.modSill_core, h1]
    clear_value s2
    have h6 : r0.1.core = s2.core := State.masterRead_core _ _ _ _
    clear_value r0
    have h3 : s3.core = s.core := by
      simp only [s3]
      split
      · rw [State.objectOut_core, h6, h2]
      · exact h2
    clear_value s3
    have h4 : s4.core = s.core := by
      simp only [s4]
      rw [State.schedule_core, State.modSill_core, State.queueArchive_core, h3]
    split
    · exact h4
    · rw [State.deliverTile_core, h4]
@[simp] theorem State.openTile_core (s : State) (r : Row) : (State.openTile s r).core = s.core := by simp [State.openTile]
@[simp] theorem State.putRow_core (s : State) (r : Row) : (State.putRow s r).core = s.core := by
  unfold State.putRow
  split
  · rfl
  · rw [State.modSill_core, State.masterWrite_core]
@[simp] theorem State.tileLost_core (s : State) (t : Tile) (cause : Nat) : (State.tileLost s t cause).core = s.core := by simp [State.tileLost]
@[simp] theorem State.bankRequest_core (s : State) (bank : Nat) : (State.bankRequest s bank).core = s.core := by simp [State.bankRequest]
@[simp] theorem State.baseRoom_core (s : State) : (State.baseRoom s).core = s.core := by simp [State.baseRoom]
@[simp] theorem State.baseAppend_core (s : State) (k time chKind value : Nat) : (State.baseAppend s k time chKind value).core = s.core := by
  unfold State.baseAppend
  have h := State.baseRoom_core s
  revert h
  generalize s.baseRoom = u
  generalize (2 : Nat) ^ 17 = n
  intro h
  extract_lets
  split
  · rw [State.protFault_core, h]
  · rw [State.pinWritten_core, State.wrote_core, State.streamOut_core, State.modSill_core, State.dramPut_core, h]
@[simp] theorem State.baseWrite_core (s : State) (k dead time channel kind value hi : Nat) : (State.baseWrite s k dead time channel kind value hi).core = s.core := by
  unfold State.baseWrite
  split
  · rw [State.modSill_core, State.baseAppend_core]
  · rfl
@[simp] theorem State.deliverReds_core (s : State) (h time : Nat) (last : Tick) (reds : List Reduction) : (State.deliverReds s h time last reds).core = s.core := by simp [State.deliverReds]
@[simp] theorem State.follow_core (s : State) (home count kind channel : Nat) (data : List Byte) : (State.follow s home count kind channel data).core = s.core := by
  unfold State.follow
  (try simp only [])
  repeat' (first | with_reducible rfl | (rw [core_foldl]) | (simp; done) | (intro _) | split | (rw [State.gate_core]) | (rw [core_foldl_fst]) | simp)
@[simp] theorem State.heartIndex_core (s : State) (h : HeartTile) : (State.heartIndex s h).core = s.core := by
  unfold State.heartIndex
  generalize 66560 = n
  extract_lets chans valid stop seq h' u
  split
  · rfl
  · rw [core_foldl _ (fun _ _ => State.addGap_core _ _)]
    simp only [u]
    split
    · rw [State.modSill_core]
    · rw [State.pinWritten_core, State.wrote_core, State.modSill_core, State.dramPut_core]
@[simp] theorem State.heartPut_core (s : State) (shot : Tick → Nat) (p : HeartPiece) (n : Nat) :
    (State.heartPut s shot p n).1.core = s.core := by
  induction n generalizing s p with
  | zero => rfl
  | succ n ih =>
    unfold State.heartPut
    generalize 66560 = m
    split
    · rfl
    · extract_lets ps c step k here pos h s1
      have h1 : s1.core = s.core := by
        simp only [s1]
        split
        · rfl
        · rw [State.modSill_core, State.dramZero_core]
      split
      · exact h1
      · extract_lets early p1 old row now_ h' cell x areas s2 s3
        have h3 : s3.core = s.core := by
          simp only [s3, s2]
          rw [State.modSill_core, core_foldl _ (fun _ _ => State.dramPut_core _ _ _), h1]
        split
        · rw [State.protFault_core, h1]
        · rw [ih, State.heartIndex_core, h3]
@[simp] theorem State.heartColumn_core (s : State) (shot : Tick → Nat) (p : HeartPiece) (chainReset : Bool) : (State.heartColumn s shot p chainReset).1.core = s.core := by
  unfold State.heartColumn
  extract_lets ps period item s1
  have h1 : s1.core = s.core := by
    simp only [s1]
    split
    · rfl
    · rw [State.streamOut_core]
  split
  · exact h1
  · rw [State.heartPut_core, h1]
@[simp] theorem State.emptyTiers_core (s : State) : (State.emptyTiers s).core = s.core := rfl
@[simp] theorem State.shiftWindow_core (s : State) (j stop : Nat) (tiles : List (Tile × List Byte)) : (State.shiftWindow s j stop tiles).core = s.core := by simp [State.shiftWindow]
@[simp] theorem State.shiftTile_core (s : State) (i : Nat) (y : SliceTile) : (State.shiftTile s i y).core = s.core := by simp [State.shiftTile]
@[simp] theorem State.shiftReset_core (s : State) : (State.shiftReset s).core = s.core := rfl
@[simp] theorem State.dropGates_core (s : State) : (State.dropGates s).core = s.core := rfl

end Sys2Proof.Machine
end

