-- ==== Sys2Proof/Laws/CoreTherm.lean ====
section
/-!
SUPPORT. The core under calibration, temperature and zones.
-/
set_option Elab.async false
namespace Sys2Proof.Machine
set_option linter.unusedTactic false
set_option linter.unreachableTactic false
set_option linter.unusedVariables false

@[simp] theorem State.apdApply_core (s : State) : (State.apdApply s).core = s.core := rfl
@[simp] theorem State.apdDrop_core (s : State) : (State.apdDrop s).core = s.core := by simp [State.apdDrop]
@[simp] theorem State.apdReading_core (s : State) (t : Int) : (State.apdReading s t).core = s.core := by
  unfold State.apdReading
  simp only []
  split
  · rw [State.apdApply_core, State.modEmit_core]
    rfl
  · split
    · rw [State.apdApply_core, State.modEmit_core, State.modEmit_core] <;> rfl
    · rw [State.apdDrop_core, State.modEmit_core]
      rfl
@[simp] theorem State.apdBroken_core (s : State) : (State.apdBroken s).core = s.core := by simp [State.apdBroken]
@[simp] theorem State.corrEffect_core (s : State) : (State.corrEffect s).core = s.core := by
  unfold State.corrEffect
  (repeat' split) <;> simp
@[simp] theorem State.trackStop_core (s : State) : (State.trackStop s).core = s.core := rfl
@[simp] theorem State.calStart_core (s : State) (reason : Nat) (scopes : List Nat) (attached : List ReqId) : (State.calStart s reason scopes attached).core = s.core := by simp [State.calStart]
@[simp] theorem State.calCause_core (s : State) (reason : Nat) : (State.calCause s reason).core = s.core := by simp [State.calCause]
@[simp] theorem State.calTry_core (s : State) : (State.calTry s).core = s.core := by
  unfold State.calTry
  (repeat' split) <;> simp
@[simp] theorem State.calAnswer_core (s : State) (c : CalRun) (st : Status) (result fail time : Nat) : (State.calAnswer s c st result fail time).core = s.core := by simp [State.calAnswer]
@[simp] theorem State.calApply_core (s : State) (c : CalRun) (time : Nat) : (State.calApply s c time).core = s.core := by simp [State.calApply]
@[simp] theorem State.calEffect_core (s : State) (time : Nat) : (State.calEffect s time).core = s.core := by
  unfold State.calEffect
  (repeat' split) <;> simp
@[simp] theorem State.calFinish_core (s : State) (c : CalRun) (fail : Nat) : (State.calFinish s c fail).core = s.core := by simp [State.calFinish]
@[simp] theorem State.calAbort_core (s : State) (keep : Bool) : (State.calAbort s keep).core = s.core := by
  unfold State.calAbort
  (repeat' split) <;> simp
@[simp] theorem State.calPlace_core (s : State) : (State.calPlace s).core = s.core := by
  unfold State.calPlace
  (repeat' split) <;> simp
@[simp] theorem State.calCommit_core (s : State) (old : PSet) : (State.calCommit s old).core = s.core := by simp [State.calCommit]
@[simp] theorem State.refdivArrived_core (s : State) (num : Nat) (code : Option Int) : (State.refdivArrived s num code).core = s.core := rfl
@[simp] theorem State.testFinish_core (s : State) (x : SelfTest) (failed : Option Nat) : (State.testFinish s x failed).core = s.core := by
  unfold State.testFinish
  (try simp only [])
  (repeat' split) <;> simp_all
@[simp] theorem State.testAbort_core (s : State) : (State.testAbort s).core = s.core := by
  unfold State.testAbort
  (repeat' split) <;> simp
@[simp] theorem State.testPlace_core (s : State) (calSlot : Option Nat) : (State.testPlace s calSlot).core = s.core := by
  unfold State.testPlace
  (try simp only [])
  (repeat' split) <;> simp_all
@[simp] theorem State.calRequest_core (s : State) (q : Req) : (State.calRequest s q).core = s.core := by
  unfold State.calRequest
  (try simp only [])
  repeat' (first | with_reducible rfl | (rw [core_foldl]) | (simp; done) | (intro _) | split | (rw [State.gate_core]) | (rw [core_foldl_fst]) | simp)
@[simp] theorem State.calStatus_core (s : State) (q : Req) : (State.calStatus s q).core = s.core := by simp [State.calStatus]
@[simp] theorem State.selftest_core (s : State) (q : Req) : (State.selftest s q).core = s.core := by simp [State.selftest]
@[simp] theorem State.coilAsk_core (s : State) : (State.coilAsk s).core = s.core := by simp [State.coilAsk]
@[simp] theorem State.coilSpread_core (s : State) : (State.coilSpread s).core = s.core := by
  unfold State.coilSpread
  (try simp only [])
  (repeat' split) <;> simp_all
@[simp] theorem State.coilReading_core (s : State) (code : Option Int) : (State.coilReading s code).core = s.core := by
  unfold State.coilReading
  (try simp only [])
  (repeat' split) <;> simp_all
@[simp] theorem State.coilGone_core (s : State) : (State.coilGone s).core = s.core := rfl
@[simp] theorem State.accordReset_core (s : State) : (State.accordReset s).core = s.core := rfl
@[simp] theorem State.chanSets_core (s : State) : (State.chanSets s).core = s.core := rfl
@[simp] theorem State.zoneWrite_core (s : State) (z : Nat) (b : List Byte) : (State.zoneWrite s z b).core = s.core := by
  unfold State.zoneWrite
  rw [State.modZone_core, core_foldl _ (fun _ _ => State.critDrop_core _ _ _ _)]
@[simp] theorem State.sendDigest_core (s : State) (z n : Nat) : (State.sendDigest s z n).core = s.core := by simp [State.sendDigest]
@[simp] theorem State.zoneWrites_core (s : State) (z : Nat) (l : List (List Byte)) : (State.zoneWrites s z l).core = s.core := by
  induction l generalizing s z with
  | nil =>
    unfold State.zoneWrites
    rfl
  | cons b l ih =>
    unfold State.zoneWrites
    rw [ih, State.zoneWrite_core]
@[simp] theorem State.zoneLoad_core (s : State) (q : Req) : (State.zoneLoad s q).core = s.core := by
  unfold State.zoneLoad
  (try simp only [])
  repeat' (first | with_reducible rfl | (rw [core_foldl]) | (simp; done) | (intro _) | split | (rw [State.gate_core]) | (rw [core_foldl_fst]) | simp)
@[simp] theorem State.zoneRead_core (s : State) (q : Req) : (State.zoneRead s q).core = s.core := by simp [State.zoneRead]

end Sys2Proof.Machine
end

