-- ==== Sys2Proof/Laws/CoreArray.lean ====
section
/-!
SUPPORT. The core under the atomiser, the slice array and the time base.
-/
set_option Elab.async false
namespace Sys2Proof.Machine
set_option linter.unusedTactic false
set_option linter.unreachableTactic false
set_option linter.unusedVariables false

@[simp] theorem State.resolves_core (s : State) (p dest : Nat) : (State.resolves s p dest).1.core = s.core := by
  unfold State.resolves
  (try simp only [])
  (repeat' split) <;> simp_all
@[simp] theorem State.toPort_core (s : State) (p : Nat) (f : Frame) (event : Bool) : (State.toPort s p f event).1.core = s.core := by
  unfold State.toPort
  (try simp only [])
  (repeat' split) <;> simp_all
@[simp] theorem State.toPaths_core (s : State) (x : Session) (f : Frame) (event : Bool) : (State.toPaths s x f event).1.core = s.core := by
  unfold State.toPaths
  (repeat' split) <;> simp
@[simp] theorem State.emitFrame_core (s : State) (num typ : Nat) (payload : List Byte) (last event : Bool) : (State.emitFrame s num typ payload last event).core = s.core := by
  unfold State.emitFrame
  (repeat' split) <;> simp
@[simp] theorem State.withhold_core (s : State) (num : Nat) : (State.withhold s num).core = s.core := by simp [State.withhold]
@[simp] theorem State.emitStream_core (s : State) (x : Session) (typ : Nat) (payload : List Byte) (last : Bool) : (State.emitStream s x typ payload last).core = s.core := by simp [State.emitStream]
@[simp] theorem State.objectSend_core (s : State) (x : Session) : (State.objectSend s x).core = s.core := by
  unfold State.objectSend
  (repeat' split) <;> simp
@[simp] theorem State.ringVector_core (s : State) (i : Nat) : (State.ringVector s i).core = s.core := by simp [State.ringVector]
@[simp] theorem State.ringAdvanced_core (s : State) (i : Nat) : (State.ringAdvanced s i).core = s.core := by simp [State.ringAdvanced]
@[simp] theorem State.ringWrite_core (s : State) (i : Nat) : (State.ringWrite s i).core = s.core := by
  unfold State.ringWrite
  (try simp only [])
  (repeat' split) <;> simp_all
@[simp] theorem State.ringEnableWrite_core (s : State) (i : Nat) (v : Word) : (State.ringEnableWrite s i v).core = s.core := by simp [State.ringEnableWrite]
@[simp] theorem State.portSend_core (s : State) (p : Nat) : (State.portSend s p).core = s.core := by
  unfold State.portSend
  (repeat' split) <;> simp
@[simp] theorem State.sessionOpen_core (s : State) (q : Req) : (State.sessionOpen s q).core = s.core := by
  unfold State.sessionOpen
  (try simp only [])
  repeat' (first | with_reducible rfl | (rw [core_foldl]) | (simp; done) | (intro _) | split | (rw [State.gate_core]) | (rw [core_foldl_fst]) | simp)
@[simp] theorem State.sessionModify_core (s : State) (q : Req) : (State.sessionModify s q).core = s.core := by
  unfold State.sessionModify
  (try simp only [])
  repeat' (first | with_reducible rfl | (rw [core_foldl]) | (simp; done) | (intro _) | split | (rw [State.gate_core]) | (rw [core_foldl_fst]) | simp)
@[simp] theorem State.dropRestores_core (s : State) (q : ReqId) : (State.dropRestores s q).core = s.core := rfl
@[simp] theorem State.abortJobs_core (s : State) (f : RetrJob → Bool) : (State.abortJobs s f).core = s.core := by
  unfold State.abortJobs
  (try simp only [])
  repeat' (first | with_reducible rfl | (rw [core_foldl]) | (simp; done) | (intro _) | split | (rw [State.gate_core]) | (rw [core_foldl_fst]) | simp)
@[simp] theorem State.sessionClose_core (s : State) (q : Req) : (State.sessionClose s q).core = s.core := by
  unfold State.sessionClose
  (try simp only [])
  repeat' (first | with_reducible rfl | (rw [core_foldl]) | (simp; done) | (intro _) | split | (rw [State.gate_core]) | (rw [core_foldl_fst]) | simp)
@[simp] theorem State.markResumed_core (s : State) : (State.markResumed s).core = s.core := rfl
@[simp] theorem State.prpReceive_core (s : State) (port node n lan : Nat) : (State.prpReceive s port node n lan).1.core = s.core := by
  unfold State.prpReceive
  (try simp only [])
  (repeat' split) <;> simp_all
@[simp] theorem State.bandTile_core (s : State) (i : Nat) (y : SliceTile) : (State.bandTile s i y).core = s.core := by simp [State.bandTile]
@[simp] theorem State.followBase_core (s : State) (home : Nat) (recs : List Byte) : (State.followBase s home recs).core = s.core := by simp [State.followBase]
@[simp] theorem State.sliceGoto_core (s : State) (i : Nat) (pc : Int) : (State.sliceGoto s i pc).core = s.core := by simp [State.sliceGoto]
@[simp] theorem State.sliceCycles_core (s : State) (i : Nat) (w : Word) (n : Nat) : (State.sliceCycles s i w n).core = s.core := by simp [State.sliceCycles]
@[simp] theorem State.issue_core (s : State) (i op : Nat) (body : State → Word → State) (h_body : ∀ s0 x0, (body s0 x0).core = s0.core) : (State.issue s i op body).core = s.core := by
  unfold State.issue
  (repeat' split) <;> simp [h_body]
@[simp] theorem State.through_core (s : State) (i : Nat) (w : Word) (n : Nat) (r : SliceRes) : (State.through s i w n r).core = s.core := by
  unfold State.through
  (repeat' split) <;> simp
@[simp] theorem State.plain_core (s : State) (t : Tick) (i op n : Nat) (f : Word → Slice → SliceRes) :
    (State.plain s t i op n f).core = { s.core with now := max s.now t } := by simp [State.plain]

@[simp] theorem State.branch_core (s : State) (t : Tick) (i op : Nat) (taken : Word → Word → Bool) :
    (State.branch s t i op taken).core = { s.core with now := max s.now t } := by simp [State.branch]

@[simp] theorem State.modTileAt_core (s : State) (i k : Nat) (f : SliceTile → SliceTile) : (State.modTileAt s i k f).core = s.core := rfl
@[simp] theorem State.dmaColumns_core (s : State) (i k : Nat) (n : Nat) : (State.dmaColumns s i k n).core = s.core := by
  induction n generalizing s i k with
  | zero => rfl
  | succ n ih =>
    unfold State.dmaColumns
    generalize List.replicate 1024 (0 : Byte) = z
    simp only []
    (repeat' split) <;> simp [ih]
@[simp] theorem State.tileComplete_core (s : State) (i : Nat) : (State.tileComplete s i).core = s.core := by
  unfold State.tileComplete
  (try simp only [])
  (repeat' split) <;> simp_all
@[simp] theorem State.special_core (s : State) (t : Tick) (i op : Nat) (sel : Nat → Bool) (body : State → Word → State)
    (h_body : ∀ s0 x0, (body s0 x0).core = s0.core) :
    (State.special s t i op sel body).core = { s.core with now := max s.now t } := by
  unfold State.special
  rw [State.issue_core]
  · simp
  · intro s0 w
    (repeat' split) <;> simp [h_body]

@[simp] theorem State.sliceHeart_core (s : State) (t : Option Tile) (c : Nat) (xs : List Nat) (reset : Bool) : (State.sliceHeart s t c xs reset).1.core = s.core := by
  unfold State.sliceHeart
  (repeat' split) <;> simp
@[simp] theorem State.pushRecords_core (s : State) (i : Nat) (t : Option Tile) (recs : List (List Byte)) : (State.pushRecords s i t recs).core = s.core := by
  unfold State.pushRecords
  generalize (2 : Nat) ^ 17 = n
  generalize (2 : Nat) ^ 25 = m
  extract_lets w s1 at_ reds
  have h : s1.core = s.core := by
    refine core_foldl_fst _ (fun p r => ?_) recs (s, false)
    simp only []
    split
    · rfl
    · split
      · rw [State.sliceFault_core, State.protFault_core]
      · rw [State.modSill_core, State.baseAppend_core]
  clear_value s1 at_ reds
  split
  · rw [State.deliverReds_core, h]
  · exact h
@[simp] theorem State.putImage_core (s : State) (i : Nat) (im : Image) : (State.putImage s i im).core = s.core := rfl
@[simp] theorem State.startSlice_core (s : State) (i : Nat) : (State.startSlice s i).core = s.core := by
  unfold State.startSlice
  (repeat' split) <;> simp
@[simp] theorem State.sliceLoad_core (s : State) (q : Req) : (State.sliceLoad s q).core = s.core := by
  unfold State.sliceLoad
  generalize (2 : Nat) ^ 24 = n
  refine State.gate_core s q _ _ _ _ (fun s id => ?_)
  extract_lets first cnt total off chunk names goesOn bytes s1 s2
  split
  · rw [State.final_core]
  split
  · rw [State.final_core]
  split
  · rw [State.final_core]
  split
  · rw [State.final_core]
  split
  · rw [State.final_core]
  split
  · rw [State.ok_core, core_slices]
  split
  · rw [State.final_core, State.begins_core, core_slices, core_slices]
  · rw [State.ok_core, core_foldl _ (fun _ _ => State.putImage_core _ _ _), core_slices, core_slices]
@[simp] theorem State.restartSets_core (s : State) (i : Nat) : (State.restartSets s i).core = s.core := by
  unfold State.restartSets
  (try simp only [])
  repeat' (first | with_reducible rfl | (simp; done) | (intro _) | split | (rw [State.gate_core]) | (rw [core_foldl]) | (rw [base_foldl]) | (rw [core_foldl_fst]) | simp)
@[simp] theorem State.sliceStart_core (s : State) (q : Req) : (State.sliceStart s q).core = s.core := by simp [State.sliceStart]
@[simp] theorem State.stepTime_core (s : State) (v : Nat) : (State.stepTime s v).core = s.core := by simp [State.stepTime]
@[simp] theorem State.timeSet_core (s : State) (q : Req) : (State.timeSet s q).core = s.core := by simp [State.timeSet]
@[simp] theorem State.ptpGo_core (s : State) (st : Nat) : (State.ptpGo s st).core = s.core := by simp [State.ptpGo]
@[simp] theorem State.setRate_core (s : State) (r : Int) : (State.setRate s r).core = s.core := rfl
@[simp] theorem State.ptpSteer_core (s : State) : (State.ptpSteer s).core = s.core := rfl
@[simp] theorem State.ptpHeard_core (s : State) (off : Int) (intervalNs : Nat) : (State.ptpHeard s off intervalNs).core = s.core := by simp [State.ptpHeard]
@[simp] theorem State.ptpAct_core (s : State) (off : Int) : (State.ptpAct s off).core = s.core := by simp [State.ptpAct]
@[simp] theorem State.ptpModeWrite_core (s : State) (old : Nat) : (State.ptpModeWrite s old).core = s.core := by simp [State.ptpModeWrite]
@[simp] theorem State.ptpAgain_core (s : State) : (State.ptpAgain s).core = s.core := by simp [State.ptpAgain]
@[simp] theorem State.tiuEnd_core (s : State) (j : TiuJob) (st : Status) : (State.tiuEnd s j st).core = s.core := by simp [State.tiuEnd]
@[simp] theorem State.tiuAbort_core (s : State) : (State.tiuAbort s).core = s.core := by
  unfold State.tiuAbort
  (repeat' split) <;> simp
@[simp] theorem State.tiuMeasure_core (s : State) (q : Req) : (State.tiuMeasure s q).core = s.core := by simp [State.tiuMeasure]
@[simp] theorem State.tiuTake_core (s : State) : (State.tiuTake s).core = s.core := by
  unfold State.tiuTake
  (repeat' split) <;> simp
@[simp] theorem State.tiuStamped_core (s : State) (source : Nat) (at_ : Tick) (pre : Option (TiuJob × Bool)) : (State.tiuStamped s source at_ pre).core = s.core := by
  unfold State.tiuStamped
  (try simp only [])
  (repeat' split) <;> simp_all
@[simp] theorem State.tiuEdge_core (s : State) (source : Nat) (at_ : Tick) : (State.tiuEdge s source at_).core = s.core := by simp [State.tiuEdge]
@[simp] theorem State.tiuBuffered_core (s : State) (source : Nat) : (State.tiuBuffered s source).core = s.core := by simp [State.tiuBuffered]
@[simp] theorem State.pairsyncWrite_core (s : State) (old : Bool) : (State.pairsyncWrite s old).core = s.core := rfl
@[simp] theorem State.psSecond_core (s : State) (sec : Nat) : (State.psSecond s sec).core = s.core := by simp [State.psSecond]
@[simp] theorem State.psResult_core (s : State) (a b : Nat) : (State.psResult s a b).core = s.core := rfl
@[simp] theorem State.psTry_core (s : State) : (State.psTry s).core = s.core := by
  unfold State.psTry
  (repeat' split) <;> simp

end Sys2Proof.Machine
end

