-- ==== Sys2Proof/Laws/CoreTwin.lean ====
section
/-!
SUPPORT. The core under the twin link, the display, COMMIT and the run.
-/
set_option Elab.async false
namespace Sys2Proof.Machine
set_option linter.unusedTactic false
set_option linter.unreachableTactic false
set_option linter.unusedVariables false

@[simp] theorem State.twinRecord_core (s : State) (cause detail : Nat) : (State.twinRecord s cause detail).core = s.core := by simp [State.twinRecord]
@[simp] theorem State.linkGo_core (s : State) (st : Nat) : (State.linkGo s st).core = s.core := by simp [State.linkGo]
@[simp] theorem State.sendHeld_core (s : State) (h : HeldRec) (split released : Bool) : (State.sendHeld s h split released).core = s.core := by simp [State.sendHeld]
@[simp] theorem State.sendHeldOf_core (s : State) (z : Nat) (f : HeldRec → Bool) (split released : Bool) : (State.sendHeldOf s z f split released).core = s.core := by simp [State.sendHeldOf]
@[simp] theorem State.dropHeld_core (s : State) : (State.dropHeld s).core = s.core := by simp [State.dropHeld]
@[simp] theorem State.matchHeld_core (s : State) : (State.matchHeld s).core = s.core := by
  unfold State.matchHeld
  (try simp only [])
  repeat' (first | with_reducible rfl | (rw [core_foldl]) | (simp; done) | (intro _) | split | (rw [State.gate_core]) | (rw [core_foldl_fst]) | simp)
@[simp] theorem State.zoneLost_core (s : State) (z : Nat) : (State.zoneLost s z).core = s.core := by simp [State.zoneLost]
@[simp] theorem State.linkDown_core (s : State) (reason : Nat) : (State.linkDown s reason).core = s.core := by simp [State.linkDown]
@[simp] theorem State.linkPlain_core (s : State) (typ : Nat) (payload : List Byte) : (State.linkPlain s typ payload).core = s.core := by simp [State.linkPlain]
@[simp] theorem State.heartbeatOut_core (s : State) (leaving : Bool) : (State.heartbeatOut s leaving).core = s.core := by simp [State.heartbeatOut]
@[simp] theorem State.sendLeaving_core (s : State) : (State.sendLeaving s).core = s.core := by simp [State.sendLeaving]
@[simp] theorem State.ackTo_core (s : State) (ack : Nat) : (State.ackTo s ack).core = s.core := by simp [State.ackTo]
@[simp] theorem State.linkIn_core (s : State) (h : LinkHdr) (reliable : Bool) (body : State → State) (h_body : ∀ s0 , (body s0 ).core = s0.core) : (State.linkIn s h reliable body).core = s.core := by
  unfold State.linkIn
  (try simp only [])
  (repeat' split) <;> simp_all
@[simp] theorem State.exchange_core (s : State) : (State.exchange s).core = s.core := by
  unfold State.exchange
  rw [State.sendTables_core, State.twinRecord_core, State.bump_core]
@[simp] theorem State.resyncIn_core (s : State) (h : LinkHdr) : (State.resyncIn s h).core = s.core := by simp [State.resyncIn]
@[simp] theorem State.adopt_core (s : State) (z : Nat) : (State.adopt s z).core = s.core := by
  unfold State.adopt
  (repeat' split) <;> simp
@[simp] theorem State.seqPhase_core (s : State) : (State.seqPhase s).core = s.core := by simp [State.seqPhase]
@[simp] theorem State.donePhase_core (s : State) : (State.donePhase s).core = s.core := by simp [State.donePhase]
@[simp] theorem State.ownAgain_core (s : State) (z : Nat) : (State.ownAgain s z).core = s.core := by simp [State.ownAgain]
@[simp] theorem State.tryPair_core (s : State) : (State.tryPair s).core = s.core := by simp [State.tryPair]
@[simp] theorem State.join_core (s : State) (h : LinkHdr) : (State.join s h).core = s.core := by
  unfold State.join
  extract_lets s1 s2
  have h1 : s1.core = s.core := by
    simp only [s1]
    rw [State.modTwin_core, State.linkGo_core, State.refreshDark_core]
  have h2 : s2.core = s1.core := rfl
  rw [core_foldl _ (fun _ _ => State.linkSend_core _ _), State.twinRecord_core, h2, h1]
@[simp] theorem State.ownership_core (s : State) : (State.ownership s).core = s.core := by simp [State.ownership]
@[simp] theorem State.replay_core (s : State) (r : EventRec) : (State.replay s r).core = s.core := by simp [State.replay]
@[simp] theorem State.promote_core (s : State) (z : Nat) : (State.promote s z).core = s.core := by simp [State.promote]
@[simp] theorem State.twinCommit_core (s : State) (old : PSet) : (State.twinCommit s old).core = s.core := by simp [State.twinCommit]
@[simp] theorem State.twinStatus_core (s : State) (q : Req) : (State.twinStatus s q).core = s.core := by simp [State.twinStatus]
@[simp] theorem State.twinControl_core (s : State) (q : Req) : (State.twinControl s q).core = s.core := by
  unfold State.twinControl
  (try simp only [])
  (repeat' split) <;> simp_all
@[simp] theorem State.modLayer_core (s : State) (n : Nat) (f : Layer → Layer) : (State.modLayer s n f).core = s.core := rfl
@[simp] theorem State.modCheck_core (s : State) (n : Nat) (f : Check → Check) : (State.modCheck s n f).core = s.core := rfl
@[simp] theorem State.dispLayer_core (s : State) (q : Req) : (State.dispLayer s q).core = s.core := by simp [State.dispLayer]
@[simp] theorem State.dispCheck_core (s : State) (q : Req) : (State.dispCheck s q).core = s.core := by simp [State.dispCheck]
@[simp] theorem State.underrun_core (s : State) (n line : Nat) : (State.underrun s n line).core = s.core := by
  unfold State.underrun
  (repeat' split) <;> simp
@[simp] theorem State.fetchCheck_core (s : State) (n : Nat) : (State.fetchCheck s n).core = s.core := by
  unfold State.fetchCheck
  (repeat' split) <;> simp
@[simp] theorem State.checkEnd_core (s : State) (n : Nat) : (State.checkEnd s n).core = s.core := by simp [State.checkEnd]
@[simp] theorem State.dispCommit_core (s : State) (old : PSet) : (State.dispCommit s old).core = s.core := by simp [State.dispCommit]
@[simp] theorem State.cmapWrite_core (s : State) (n v : Nat) : (State.cmapWrite s n v).core = s.core := by simp [State.cmapWrite]
@[simp] theorem State.commitChain_core (s : State) (old : PSet) : (State.commitChain s old).core = s.core := by simp [State.commitChain]
@[simp] theorem State.commitTherm_core (s : State) (old : PSet) : (State.commitTherm s old).core = s.core := by simp [State.commitTherm]
@[simp] theorem State.commitEffect_core (s : State) (shot time : Nat) : (State.commitEffect s shot time).core = s.core := by
  unfold State.commitEffect
  (repeat' split) <;> simp
@[simp] theorem State.commit_core (s : State) (q : Req) : (State.commit s q).core = s.core := by
  unfold State.commit
  (try simp only [])
  repeat' (first | with_reducible rfl | (rw [core_foldl]) | (simp; done) | (intro _) | split | (rw [State.gate_core]) | (rw [core_foldl_fst]) | simp)
@[simp] theorem State.commitAtBoundary_core (s : State) (b : Tick) (shot : Nat) : (State.commitAtBoundary s b shot).core = s.core := by
  unfold State.commitAtBoundary
  (repeat' split) <;> simp
@[simp] theorem State.commitAtEnd_core (s : State) : (State.commitAtEnd s).core = s.core := by
  unfold State.commitAtEnd
  (repeat' split) <;> simp
@[simp] theorem State.discardGroup_core (s : State) : (State.discardGroup s).core = s.core := rfl
@[simp] theorem State.endLaunches_core (s : State) (cut : Bool) : (State.endLaunches s cut).core = s.core := by
  unfold State.endLaunches
  generalize (2 : Nat) ^ 32 = n
  extract_lets whole last s1 s2
  have h2 : s2.core = s.core := by
    simp only [s2]
    split
    · exact State.dropGates_core s
    · rw [State.discardGroup_core]
      exact State.dropGates_core s
  rw [State.refreshDark_core, State.corrEffect_core, State.calEffect_core, State.modRun_core, h2]
@[simp] theorem State.abortStart_core (s : State) : (State.abortStart s).core = s.core := by
  unfold State.abortStart
  (try simp only [])
  (repeat' split) <;> simp_all
@[simp] theorem State.runEnds_core (s : State) (cut : Bool) : (State.runEnds s cut).core = s.core := by simp [State.runEnds]
@[simp] theorem State.startWaits_core (s : State) (id : Option ReqId) : (State.startWaits s id).core = s.core := rfl
@[simp] theorem State.start_core (s : State) (q : Req) : (State.start s q).core = s.core := by simp [State.start]
@[simp] theorem State.placeSteps_core (s : State) : (State.placeSteps s).core = s.core := by simp [State.placeSteps]
@[simp] theorem State.overrangeHealth_core (s : State) : (State.overrangeHealth s).core = s.core := by simp [State.overrangeHealth]
@[simp] theorem State.setOrigin_core (s : State) (slot shot : Nat) (o : Int) (subst : Bool) : (State.setOrigin s slot shot o subst).core = s.core := rfl
@[simp] theorem State.stop_core (s : State) (q : Req) : (State.stop s q).core = s.core := by
  unfold State.stop
  (try simp only [])
  repeat' (first | with_reducible rfl | (rw [core_foldl]) | (simp; done) | (intro _) | split | (rw [State.gate_core]) | (rw [core_foldl_fst]) | simp)
@[simp] theorem State.runOver_core (s : State) : (State.runOver s).core = s.core := by simp [State.runOver]
@[simp] theorem State.ilkTrip_kept (s : State) : (State.ilkTrip s).core.kept = s.core.kept := by simp [State.ilkTrip]
@[simp] theorem State.ilkFall_kept (s : State) (lowPs : Option Nat) : (State.ilkFall s lowPs).core.kept = s.core.kept := by simp [State.ilkFall]
@[simp] theorem State.ilkFirst_kept (s : State) : (State.ilkFirst s).core.kept = s.core.kept := by
  unfold State.ilkFirst
  (repeat' split) <;> simp
@[simp] theorem State.ilkClear_kept (s : State) (q : Req) : (State.ilkClear s q).core.kept = s.core.kept := by
  unfold State.ilkClear
  (try simp only [])
  repeat' (first | with_reducible rfl | (rw [kept_foldl]) | (simp; done) | (intro _) | split | (rw [State.gate_kept]) | (rw [core_foldl_fst]) | simp)
@[simp] theorem State.lowerSetpoints_base (s : State) (cs : List Nat) : (State.lowerSetpoints s cs).core.base = s.core.base := by simp [State.lowerSetpoints]
@[simp] theorem State.lowerSetpoints_kept (s : State) (cs : List Nat) : (State.lowerSetpoints s cs).core.kept = s.core.kept := kept_of_base (State.lowerSetpoints_base s cs)
@[simp] theorem State.moduleJudged_base (s : State) (pos reason : Nat) (cache : List Byte) : (State.moduleJudged s pos reason cache).core.base = s.core.base := by simp [State.moduleJudged]
@[simp] theorem State.moduleJudged_kept (s : State) (pos reason : Nat) (cache : List Byte) : (State.moduleJudged s pos reason cache).core.kept = s.core.kept := kept_of_base (State.moduleJudged_base s pos reason cache)
@[simp] theorem State.moduleGone_base (s : State) (pos : Nat) : (State.moduleGone s pos).core.base = s.core.base := by simp [State.moduleGone]
@[simp] theorem State.moduleGone_kept (s : State) (pos : Nat) : (State.moduleGone s pos).core.kept = s.core.kept := kept_of_base (State.moduleGone_base s pos)
@[simp] theorem State.moduleRead_core (s : State) (q : Req) : (State.moduleRead s q).core = s.core := by
  unfold State.moduleRead
  (repeat' split) <;> simp
@[simp] theorem State.perfSet_core (s : State) (i mode event qual : Nat) : (State.perfSet s i mode event qual).core = s.core := rfl
@[simp] theorem State.perfConfig_core (s : State) (q : Req) : (State.perfConfig s q).core = s.core := by simp [State.perfConfig]
@[simp] theorem State.perfRead_core (s : State) (q : Req) : (State.perfRead s q).core = s.core := by simp [State.perfRead]
@[simp] theorem State.snapWrite_core (s : State) (v : Word) : (State.snapWrite s v).core = s.core := by simp [State.snapWrite]
@[simp] theorem State.monRead_core (s : State) (q : Req) : (State.monRead s q).core = s.core := by simp [State.monRead]

end Sys2Proof.Machine
end

