-- ==== Sys2Proof/Laws/CoreStore.lean ====
section
/-!
SUPPORT. The core under capture, compression, retrieval, memory and instrumentation.
-/
set_option Elab.async false
namespace Sys2Proof.Machine
set_option linter.unusedTactic false
set_option linter.unreachableTactic false
set_option linter.unusedVariables false

@[simp] theorem State.captureArm_core (s : State) (q : Req) : (State.captureArm s q).core = s.core := by simp [State.captureArm]
@[simp] theorem State.captureStatus_core (s : State) (q : Req) : (State.captureStatus s q).core = s.core := by simp [State.captureStatus]
@[simp] theorem State.captureRelease_core (s : State) (q : Req) : (State.captureRelease s q).core = s.core := by simp [State.captureRelease]
@[simp] theorem State.captureVigil_core (s : State) : (State.captureVigil s).core = s.core := by
  unfold State.captureVigil
  refine core_foldl _ (fun s i => ?_) _ _
  extract_lets c lostAny s1 s2 s3
  have h2 : s2.core = s.core := by
    simp only [s2]
    split
    · rw [State.captureEvent_core, State.modCap_core]
    · rw [State.modCap_core]
  split
  · rfl
  · split
    · rw [State.enterSealing_core, State.captureEvent_core, State.modCap_core, h2]
    · exact h2
@[simp] theorem State.captureWarm_core (s : State) : (State.captureWarm s).core = s.core := by
  unfold State.captureWarm
  refine core_foldl _ (fun s i => ?_) _ _
  extract_lets c
  split
  · rw [State.modCap_core]
  · split
    · rw [State.modCap_core]
    · rfl
@[simp] theorem State.engineDone_core (s : State) (engine : Nat) : (State.engineDone s engine).core = s.core := rfl
@[simp] theorem State.openSegment_core (s : State) (engine : Nat) : (State.openSegment s engine).1.core = s.core := by
  unfold State.openSegment
  (repeat' split) <;> simp
@[simp] theorem State.flaconStore_core (s : State) (engine p q : Nat) (y : Tile) (stored : Bool) (out bytes : List Byte) : (State.flaconStore s engine p q y stored out bytes).core = s.core := by simp [State.flaconStore]
@[simp] theorem State.restored_core (s : State) (seg off mb tag : Nat) (img : Option (List Byte)) : (State.restored s seg off mb tag img).core = s.core := rfl
@[simp] theorem State.flaconStop_core (s : State) : (State.flaconStop s).core = s.core := rfl
@[simp] theorem State.jobQueue_core (s : State) (j : RetrJob) : (State.jobQueue s j).core = s.core := by
  unfold State.jobQueue
  (repeat' split) <;> simp
@[simp] theorem State.ringFrame_core (s : State) (typ : Nat) (payload : List Byte) (last : Bool) : (State.ringFrame s typ payload last).core = s.core := rfl
@[simp] theorem State.ringObject_core (s : State) (o : ObjJob) (n : Nat) : (State.ringObject s o n).core = s.core := by
  induction n generalizing s o with
  | zero => unfold State.ringObject; rfl
  | succ n ih =>
    unfold State.ringObject
    simp only []
    repeat' (first | with_reducible rfl | (simp [ih]; done) | split | simp [ih])
@[simp] theorem State.modJob_core (s : State) (q : ReqId) (f : RetrJob → RetrJob) : (State.modJob s q f).core = s.core := rfl
@[simp] theorem State.jobDeliver_core (s : State) (j : RetrJob) (kind : Nat) (data : List Byte) (gaps : Nat) (times : Option (Nat × Nat)) : (State.jobDeliver s j kind data gaps times).core = s.core := by simp [State.jobDeliver]
@[simp] theorem State.jobGap_core (s : State) (j : RetrJob) (start col cause : Nat) (stop : Nat) : (State.jobGap s j start col cause stop).core = s.core := by simp [State.jobGap]
@[simp] theorem State.rotateJob_core (s : State) (q : ReqId) : (State.rotateJob s q).core = s.core := rfl
@[simp] theorem State.jobPast_core (s : State) (j : RetrJob) (a b : Nat) : (State.jobPast s j a b).core = s.core := by
  unfold State.jobPast
  (try simp only [])
  (repeat' split) <;> simp_all
@[simp] theorem State.sourceRead_core (s : State) (src : Nat × Nat × Nat) : (State.sourceRead s src).1.core = s.core := by
  unfold State.sourceRead
  (repeat' split) <;> simp
@[simp] theorem State.gapsStep_core (s : State) (j : RetrJob) : (State.gapsStep s j).core = s.core := by simp [State.gapsStep]
@[simp] theorem State.jobStep_core (s : State) (j : RetrJob) (overwritten : Bool) : (State.jobStep s j overwritten).core = s.core := by
  unfold State.jobStep
  (repeat' split) <;> simp
@[simp] theorem State.retrieve_core (s : State) (q : Req) : (State.retrieve s q).core = s.core := by simp [State.retrieve]
@[simp] theorem State.retrieveCancel_core (s : State) (q : Req) : (State.retrieveCancel s q).core = s.core := by simp [State.retrieveCancel]
@[simp] theorem State.corrected_core (s : State) (a : Nat) : (State.corrected s a).core = s.core := by simp [State.corrected]
@[simp] theorem State.readDone_core (s : State) (data : List Byte) (fault : Bool) : (State.readDone s data fault).core = s.core := rfl
@[simp] theorem State.fetchFails_core (s : State) (a : Nat) : (State.fetchFails s a).core = s.core := by
  unfold State.fetchFails
  exact core_foldl _ (fun _ _ => State.underrun_core _ _ _) _ _
@[simp] theorem State.uncorrectable_core (s : State) (master a bad : Nat) : (State.uncorrectable s master a bad).core = s.core := by
  unfold State.uncorrectable
  extract_lets s1 report
  have h (n : Nat) : (report s1 n).core = s.core := by
    simp only [report]
    rw [State.healthFull_core, State.modMemc_core, State.bump_core]
  clear_value report s1
  split
  · exact h 0
  · split
    · rw [State.fetchFails_core, h]
    · split
      · rw [State.tileLost_core, h]
      · rw [State.restored_core, State.health_core, State.bump_core, State.engineDone_core, h]
      · rw [State.readDone_core, h]
@[simp] theorem State.correctedAll_core (s : State) (a len : Nat) (errs : List WordErr) : (State.correctedAll s a len errs).core = s.core := by simp [State.correctedAll]
@[simp] theorem State.readResult_core (s : State) (master a len : Nat) (errs : List WordErr) : (State.readResult s master a len errs).core = s.core := by
  unfold State.readResult
  split
  · rw [State.readDone_core]
  · rw [State.correctedAll_core, State.readDone_core]
  · split
    · exact State.uncorrectable_core _ _ _ _
    · rw [State.modMemc_core]
@[simp] theorem State.issueOlder_core (s : State) : (State.issueOlder s).core = s.core := rfl
@[simp] theorem State.issued_core (s : State) (master a : Nat) : (State.issued s master a).core = s.core := by simp [State.issued]
@[simp] theorem State.rereadGood_core (s : State) (a len : Nat) (master : Nat) (errs : List WordErr) : (State.rereadGood s a len master errs).core = s.core := by simp [State.rereadGood]
@[simp] theorem State.pasrLose_core (s : State) : (State.pasrLose s).core = s.core := by
  unfold State.pasrLose
  rw [State.modMemc_core]
  exact core_foldl (fun s k => s.dramZero (k * s.segBytes) s.segBytes) (fun _ _ => State.dramZero_core _ _ _) _ _
@[simp] theorem State.convFlag_core (s : State) (c : Conv) (b : Nat) : (State.convFlag s c b).core = s.core := by simp [State.convFlag]
@[simp] theorem State.accumTake_core (s : State) (input : Nat) (code : Int) (fallback coarse : Bool) : (State.accumTake s input code fallback coarse).core = s.core := rfl
@[simp] theorem State.discard_core (s : State) (c : Conv) (b : Nat) : (State.discard s c b).core = s.core := by simp [State.discard]
@[simp] theorem State.thermistor_core (s : State) (code : Int) (r25 beta : Nat) : (State.thermistor s code r25 beta).1.core = s.core := by
  unfold State.thermistor
  (repeat' split) <;> simp
@[simp] theorem State.deliverConv_base (s : State) (c : Conv) : (State.deliverConv s c).core.base = s.core.base := by
  unfold State.deliverConv
  (repeat' split) <;> simp
@[simp] theorem State.deliverConv_kept (s : State) (c : Conv) : (State.deliverConv s c).core.kept = s.core.kept := kept_of_base (State.deliverConv_base s c)
@[simp] theorem State.endConv_base (s : State) : (State.endConv s).core.base = s.core.base := by
  unfold State.endConv
  (repeat' split) <;> simp
@[simp] theorem State.endConv_kept (s : State) : (State.endConv s).core.kept = s.core.kept := kept_of_base (State.endConv_base s)
@[simp] theorem State.chopperFault_core (s : State) (c : Conv) : (State.chopperFault s c).core = s.core := by simp [State.chopperFault]
@[simp] theorem State.chopperGood_core (s : State) (c : Conv) : (State.chopperGood s c).core = s.core := by simp [State.chopperGood]
@[simp] theorem State.convResult_core (s : State) (c : Conv) (code : Int) (coarse : Bool) : (State.convResult s c code coarse).core = s.core := by simp [State.convResult]
@[simp] theorem State.instStop_core (s : State) : (State.instStop s).core = s.core := by
  unfold State.instStop
  (try simp only [])
  (repeat' split) <;> simp_all
@[simp] theorem State.cfgChanged_base (s : State) (input : Nat) : (State.cfgChanged s input).core.base = s.core.base := by
  unfold State.cfgChanged
  (try simp only [])
  (repeat' split) <;> simp_all
@[simp] theorem State.cfgChanged_kept (s : State) (input : Nat) : (State.cfgChanged s input).core.kept = s.core.kept := kept_of_base (State.cfgChanged_base s input)
@[simp] theorem State.iexChanged_base (s : State) (n : Nat) : (State.iexChanged s n).core.base = s.core.base := by
  unfold State.iexChanged
  (repeat' split) <;> simp
@[simp] theorem State.iexChanged_kept (s : State) (n : Nat) : (State.iexChanged s n).core.kept = s.core.kept := kept_of_base (State.iexChanged_base s n)
@[simp] theorem State.winGo_core (s : State) (n : Nat) (out : Bool) : (State.winGo s n out).core = s.core := rfl
@[simp] theorem State.fqoFail_core (s : State) (n : Nat) : (State.fqoFail s n).core = s.core := by simp [State.fqoFail]
@[simp] theorem State.instRead_core (s : State) (q : Req) : (State.instRead s q).core = s.core := by simp [State.instRead]
@[simp] theorem State.instInject_core (s : State) (q : Req) : (State.instInject s q).core = s.core := by simp [State.instInject]

end Sys2Proof.Machine
end

