-- ==== Sys2Proof/Laws/CorePower.lean ====
section
/-!
SUPPORT. The core under power, boot, parameters and the mailboxes.
-/
set_option Elab.async false
namespace Sys2Proof.Machine
set_option linter.unusedTactic false
set_option linter.unreachableTactic false
set_option linter.unusedVariables false

@[simp] theorem State.setLock_core (s : State) (n : Nat) (b : Bool) : (State.setLock s n b).core = s.core := rfl
@[simp] theorem State.loopsForMode_core (s : State) : (State.loopsForMode s).core = s.core := rfl
@[simp] theorem State.forcedSwitch_core (s : State) (b : Nat) : (State.forcedSwitch s b).core = s.core := by simp [State.forcedSwitch]
@[simp] theorem State.loopLost_core (s : State) (n : Nat) : (State.loopLost s n).core = s.core := by
  unfold State.loopLost
  (try simp only [])
  (repeat' split) <;> simp_all
@[simp] theorem State.transAborted_core (s : State) : (State.transAborted s).core = s.core := by
  unfold State.transAborted
  (repeat' split) <;> simp
@[simp] theorem State.runCut_core (s : State) : (State.runCut s).core = s.core := by simp [State.runCut]
@[simp] theorem State.lightsOut_base (s : State) : (State.lightsOut s).core.base = s.core.base := by
  unfold State.lightsOut
  extract_lets s1
  have h : s1.core.base = s.core.base := by
    simp only [s1]
    rw [State.modEmit_core _ _ rfl, State.wlDrop_core, State.dark_base]
  rw [State.sendLeaving_core, State.trackStop_core, State.testAbort_core, State.calAbort_core, h]
@[simp] theorem State.lightsOut_kept (s : State) : (State.lightsOut s).core.kept = s.core.kept := kept_of_base (State.lightsOut_base s)
@[simp] theorem State.vigilMark_core (s : State) : (State.vigilMark s).core = s.core := rfl
@[simp] theorem State.memoryLost_core (s : State) : (State.memoryLost s).core = s.core := by simp [State.memoryLost]
@[simp] theorem State.slicesStop_core (s : State) : (State.slicesStop s).core = s.core := rfl
@[simp] theorem State.domainsStop_core (s : State) (m : Nat) : (State.domainsStop s m).core = s.core := by
  unfold State.domainsStop
  extract_lets down s1 s2 s3
  have h : s3.core = s.core := by
    simp only [s3, s2, s1]
    rw [State.modClk_core, State.modDisp_core, State.modAtom_core]
  rw [State.markResumed_core, State.loopsForMode_core, h]
@[simp] theorem State.jobsStop_core (s : State) : (State.jobsStop s).core = s.core := by simp [State.jobsStop]
@[simp] theorem State.vigilEnter_base (s : State) (cause : Nat) : (State.vigilEnter s cause).core.base = s.core.base := by
  unfold State.vigilEnter
  extract_lets s1 s2
  have h : s2.core.base = s.core.base := by
    simp only [s2, s1]
    rw [State.domainsStop_core, State.slicesStop_core, State.jobsStop_core, State.memoryLost_core, State.tiuAbort_core,
      State.lightsOut_base, State.suspendAll_core, State.runCut_core]
  rw [State.refreshDark_core, State.modClk_core, h]
@[simp] theorem State.vigilEnter_kept (s : State) (cause : Nat) : (State.vigilEnter s cause).core.kept = s.core.kept := kept_of_base (State.vigilEnter_base s cause)
@[simp] theorem State.standbyEnter_base (s : State) : (State.standbyEnter s).core.base = s.core.base := by
  unfold State.standbyEnter
  extract_lets s1 s2 s3 s4 s5 s6
  have h1 : s1.core.base = s.core.base := by
    simp only [s1]
    rw [State.tiuAbort_core, State.lightsOut_base, State.suspendAll_core, State.runCut_core]
  have h2 : s2.core.base = s1.core.base := by
    simp only [s2]
    rw [State.dark_base, State.ramanAbort_core, State.slicesStop_core, State.jobsStop_core]
  have h3 : s3.core = s2.core := by
    simp only [s3]
    rw [State.domainsStop_core, State.instStop_core]
  have h4 : s4.core = s3.core := by
    simp only [s4]
    refine (core_foldl _ (fun u n => ?_) _ _).trans (State.apdApply_core _)
    split
    · exact State.fqoFail_core _ _
    · rfl
  have h5 : s5.core = s4.core := by
    simp only [s5]
    rw [State.modTime_core, State.settle_core]
  have h6 : s6.core = s5.core := State.modClk_core _ _
  rw [State.refreshDark_core, State.modMemc_core, h6, h5, h4, h3, h2, h1]
@[simp] theorem State.standbyEnter_kept (s : State) : (State.standbyEnter s).core.kept = s.core.kept := kept_of_base (State.standbyEnter_base s)
@[simp] theorem State.standbyLeave_core (s : State) : (State.standbyLeave s).core = s.core := by
  unfold State.standbyLeave
  extract_lets s1 s2
  have h : s2.core = s.core := by
    simp only [s2, s1]
    rw [State.modClk_core, State.modTime_core, State.settle_core]
  rw [State.modEmit_core _ _ rfl, State.refreshDark_core, h]
@[simp] theorem State.vigilGaps_core (s : State) : (State.vigilGaps s).core = s.core := by
  unfold State.vigilGaps
  simp only [State.modSill_core]
  exact core_foldl _ (fun _ _ => State.addGap_core _ _) _ _
@[simp] theorem State.wakeTo_base (s : State) (target : Nat) (cause : Nat) : (State.wakeTo s target cause).core.base = s.core.base := by simp [State.wakeTo]
@[simp] theorem State.wakeTo_kept (s : State) (target : Nat) (cause : Nat) : (State.wakeTo s target cause).core.kept = s.core.kept := kept_of_base (State.wakeTo_base s target cause)
@[simp] theorem State.transFailed_core (s : State) (tr : Transition) : (State.transFailed s tr).core = s.core := by
  unfold State.transFailed
  (repeat' split) <;> simp
@[simp] theorem State.transReached_core (s : State) (tr : Transition) : (State.transReached s tr).core = s.core := by
  unfold State.transReached
  (repeat' split) <;> simp
@[simp] theorem State.transBegin_base (s : State) (tr : Transition) : (State.transBegin s tr).core.base = s.core.base := by
  unfold State.transBegin
  extract_lets s1
  have h : s1.core = s.core := State.modClk_core _ _
  split
  · rw [State.vigilEnter_base, h]
  · split
    · rw [State.lightsOut_base, State.runEnds_core, h]
    · split
      · rw [State.runEnds_core, h]
      · rw [h]
@[simp] theorem State.transBegin_kept (s : State) (tr : Transition) : (State.transBegin s tr).core.kept = s.core.kept := kept_of_base (State.transBegin_base s tr)
@[simp] theorem State.powerMode_base (s : State) (q : Req) : (State.powerMode s q).core.base = s.core.base := by
  unfold State.powerMode
  refine State.gate_base s q _ _ _ _ (fun s id => ?_)
  extract_lets target s1
  have h : s1.core = s.core := by
    simp only [s1]
    rw [State.modClk_core, State.takes_core]
  split
  · rw [State.final_core]
  · split
    · rw [State.final_core]
    · split
      · rw [State.final_core]
      · split
        · rw [State.final_core]
        · split
          · rw [State.final_core, State.takes_core]
          · rw [State.transBegin_base, h]
@[simp] theorem State.powerMode_kept (s : State) (q : Req) : (State.powerMode s q).core.kept = s.core.kept := kept_of_base (State.powerMode_base s q)
@[simp] theorem State.monStep_core (s : State) (group i : Nat) (x : Int) : (State.monStep s group i x).core = s.core := by simp [State.monStep]
@[simp] theorem State.thermalTrip_base (s : State) (i : Nat) : (State.thermalTrip s i).core.base = s.core.base := by
  unfold State.thermalTrip
  extract_lets s1 s2 s3
  have h2 : s2.core = s.core := by
    simp only [s2, s1]
    rw [State.transAborted_core, State.modClk_core, State.bump_core]
  split
  · rw [State.vigilEnter_base, State.modClk_core, State.health_core, h2]
  · rw [h2]
@[simp] theorem State.thermalTrip_kept (s : State) (i : Nat) : (State.thermalTrip s i).core.kept = s.core.kept := kept_of_base (State.thermalTrip_base s i)
@[simp] theorem State.monGroup_core (s : State) (group : Nat) (xs : List Int) (n : Nat) : (State.monGroup s group xs n).core = s.core := by simp [State.monGroup]
@[simp] theorem State.bootCodeMet_core (s : State) (c : Nat) (degraded : Bool) : (State.bootCodeMet s c degraded).core = s.core := rfl
@[simp] theorem State.bootHalt_core (s : State) (c : Nat) (retry : Bool) : (State.bootHalt s c retry).core = s.core := rfl
@[simp] theorem State.stage_core (s : State) (n : Nat) : (State.stage s n).core = s.core := rfl
@[simp] theorem State.loadSupplied_core (s : State) (kind first last : Nat) (ok : Bool) : (State.loadSupplied s kind first last ok).core = s.core := by
  unfold State.loadSupplied
  simp only []
  split
  · exact core_foldl _ (fun _ _ => by rw [State.startSlice_core, State.putImage_core]) _ _
  · rw [State.bootCodeMet_core]
    exact core_foldl _ (fun _ _ => State.modSlc_core _ _ _) _ _
@[simp] theorem State.loadSlices_core (s : State) : (State.loadSlices s).core = s.core := by simp [State.loadSlices]
@[simp] theorem State.bootFirmware_core (s : State) (img : List Byte) : (State.bootFirmware s img).core = s.core := by simp [State.bootFirmware]
@[simp] theorem State.bootMemory_core (s : State) (img : List Byte) : (State.bootMemory s img).core = s.core := by
  unfold State.bootMemory
  (try simp only [])
  (repeat' split) <;> simp_all
@[simp] theorem State.bootImage_line (s : State) : (State.bootImage s).core.line = s.core.line := by
  unfold State.bootImage
  (try simp only [])
  (repeat' split) <;> simp_all
@[simp] theorem State.boot_line (s : State) : (State.boot s).core.line = s.core.line := by
  unfold State.boot
  (try simp only [])
  (repeat' split) <;> simp_all
@[simp] theorem State.fullReset_line (s : State) (code : Nat) : (State.fullReset s code).core.line = s.core.line := rfl
@[simp] theorem State.warmReset_line (s : State) (code : Nat) : (State.warmReset s code).core.line = s.core.line := by
  unfold State.warmReset
  extract_lets r y held s1
  rename_i w
  have h : s1.core = s.core := by
    simp only [s1]
    rw [State.captureWarm_core, State.settle_core]
  have hp : w.pending = s1.pending := by simp only [w]
  have hn : w.now = s1.now := by simp only [w]
  have hw : w.core.line = s1.core.line := by
    rw [← line_eta, ← line_eta, hp, hn]
  rw [State.modTwin_core, State.slicesStop_core, State.chainResetAll_core, hw, h]
@[simp] theorem State.flushMbox_core (s : State) (m : Nat) : (State.flushMbox s m).core = s.core := rfl
@[simp] theorem State.resetReq_core (s : State) (q : Req) : (State.resetReq s q).core = s.core := by simp [State.resetReq]
@[simp] theorem State.keyRead_core (s : State) (k : Nat) : (State.keyRead s k).core = s.core := by simp [State.keyRead]
@[simp] theorem State.getParam_core (s : State) (q : Req) : (State.getParam s q).core = s.core := by
  unfold State.getParam
  (try simp only [])
  repeat' (first | with_reducible rfl | (rw [core_foldl]) | (simp; done) | (intro _) | split | (rw [State.gate_core]) | (rw [core_foldl_fst]) | simp)
@[simp] theorem State.clearKey_core (s : State) (k : Nat) : (State.clearKey s k).core = s.core := by simp [State.clearKey]
@[simp] theorem State.tapWrite_core (s : State) (n v : Nat) : (State.tapWrite s n v).core = s.core := rfl
@[simp] theorem State.writeKey_core (s : State) (k v : Nat) : (State.writeKey s k v).core = s.core := by
  unfold State.writeKey
  (repeat' split) <;> simp
@[simp] theorem State.keyEffect_base (s : State) (old : State) (k : Nat) : (State.keyEffect s old k).core.base = s.core.base := by
  unfold State.keyEffect
  (try simp only [])
  repeat' (first | with_reducible rfl | (rw [base_foldl]) | (simp; done) | (intro _) | split | (rw [State.gate_base]) | (rw [core_foldl_fst]) | simp)
@[simp] theorem State.keyEffect_kept (s : State) (old : State) (k : Nat) : (State.keyEffect s old k).core.kept = s.core.kept := kept_of_base (State.keyEffect_base s old k)
@[simp] theorem State.answeredFrom_core (s old : State) (q : Req) : (State.answeredFrom s old q).core = s.core := by simp [State.answeredFrom]
@[simp] theorem State.setParam_base (s : State) (q : Req) : (State.setParam s q).core.base = s.core.base := by
  unfold State.setParam
  (try simp only [])
  repeat' (first | with_reducible rfl | (rw [base_foldl]) | (simp; done) | (intro _) | split | (rw [State.gate_base]) | (rw [core_foldl_fst]) | simp)
@[simp] theorem State.setParam_kept (s : State) (q : Req) : (State.setParam s q).core.kept = s.core.kept := kept_of_base (State.setParam_base s q)
@[simp] theorem State.ident_core (s : State) (q : Req) : (State.ident s q).core = s.core := by simp [State.ident]
@[simp] theorem State.dispatch_kept (s : State) (op : Nat) (q : Req) : (State.dispatch s op q).core.kept = s.core.kept := by
  unfold State.dispatch
  (repeat' split) <;> simp
@[simp] theorem State.checkFail_core (s : State) (mb : Nat) (peer : Peer) (bs : List Byte) : (State.checkFail s mb peer bs).core = s.core := by simp [State.checkFail]
@[simp] theorem State.protoError_core (s : State) (mb : Nat) (peer : Peer) (bs : List Byte) : (State.protoError s mb peer bs).core = s.core := by simp [State.protoError]
@[simp] theorem State.crcError_core (s : State) (mb : Nat) (peer : Peer) (bs : List Byte) : (State.crcError s mb peer bs).core = s.core := by simp [State.crcError]
@[simp] theorem State.takeMessage_kept (s : State) (mb : Nat) (peer : Peer) (bs : List Byte) : (State.takeMessage s mb peer bs).core.kept = s.core.kept := by simp [State.takeMessage]
@[simp] theorem State.copyUnits_core (s : State) (m : Nat) : (State.copyUnits s m).core = s.core := rfl
@[simp] theorem State.takeStaged_kept (s : State) (m : Nat) (n : Nat) : (State.takeStaged s m n).core.kept = s.core.kept := by
  induction n generalizing s m with
  | zero => unfold State.takeStaged; rfl
  | succ n ih =>
    unfold State.takeStaged
    simp only []
    repeat' (first | with_reducible rfl | (simp [ih]; done) | split | simp [ih])
@[simp] theorem State.serve_kept (s : State) (m : Nat) : (State.serve s m).core.kept = s.core.kept := by simp [State.serve]
@[simp] theorem State.inProdWrite_kept (s : State) (m : Nat) (v : Word) : (State.inProdWrite s m v).core.kept = s.core.kept := by simp [State.inProdWrite]
@[simp] theorem State.outConsWrite_core (s : State) (m : Nat) (v : Word) : (State.outConsWrite s m v).core = s.core := by simp [State.outConsWrite]
@[simp] theorem State.takeOrWait_kept (s : State) (mb : Nat) (peer : Peer) (bs : List Byte) : (State.takeOrWait s mb peer bs).core.kept = s.core.kept := by simp [State.takeOrWait]
@[simp] theorem State.takeLater_kept (s : State) (mb : Nat) (n : Nat) : (State.takeLater s mb n).core.kept = s.core.kept := by
  induction n generalizing s mb with
  | zero => rfl
  | succ n ih =>
    unfold State.takeLater
    split
    · rfl
    · split
      · rfl
      · rw [ih, State.takeMessage_kept, State.modMbox_core]
@[simp] theorem State.finished_kept (s : State) (m : Nat) : (State.finished s m).core.kept = s.core.kept := by simp [State.finished]
@[simp] theorem State.datagramDrop_core (s : State) (mb : Nat) : (State.datagramDrop s mb).core = s.core := rfl
@[simp] theorem State.datagram_kept (s : State) (mb : Nat) (peer : Peer) (bytes : List Byte) : (State.datagram s mb peer bytes).core.kept = s.core.kept := by
  unfold State.datagram
  extract_lets other
  split
  · rw [State.datagramDrop_core]
  · split
    · rw [State.protoError_core]
    · split
      · rw [State.datagramDrop_core]
      · split
        · rw [State.crcError_core]
        · rw [State.takeOrWait_kept, State.modMbox_core]
@[simp] theorem State.faultConsWrite_core (s : State) (v : Word) : (State.faultConsWrite s v).core = s.core := by
  unfold State.faultConsWrite
  split
  · rfl
  · exact State.faultsLost_core _ _ _
@[simp] theorem State.ringRegWrite_core (s : State) (i r : Nat) (v : Word) : (State.ringRegWrite s i r v).core = s.core := by
  unfold State.ringRegWrite
  (repeat' split) <;> simp
@[simp] theorem State.mboxRegWrite_kept (s : State) (m r : Nat) (v : Word) : (State.mboxRegWrite s m r v).core.kept = s.core.kept := by
  unfold State.mboxRegWrite
  (repeat' split) <;> simp
@[simp] theorem State.regWrite_kept (s : State) (off : Nat) (v : Word) : (State.regWrite s off v).core.kept = s.core.kept := by
  unfold State.regWrite
  (repeat' split) <;> simp
@[simp] theorem State.regClear_core (s : State) (off : Nat) : (State.regClear s off).core = s.core := by
  unfold State.regClear
  (repeat' split) <;> simp
@[simp] theorem State.resetHealth_core (s : State) : (State.resetHealth s).core = s.core := by simp [State.resetHealth]
@[simp] theorem State.degradedHealth_core (s : State) : (State.degradedHealth s).core = s.core := by simp [State.degradedHealth]
@[simp] theorem State.bootDone_kept (s : State) : (State.bootDone s).core.kept = s.core.kept := by
  unfold State.bootDone
  extract_lets want m a b c d e f g h i j
  rw [kept_foldl _ (fun w k => State.serve_kept w k)]
  have hj : j.core.kept = i.core.kept := by
    show (State.refreshDark _).core.kept = _
    rw [State.refreshDark_core, State.convGo_core, kept_of_base (State.riseAll_base _), State.apdApply_core]
  have hi : i.core = h.core := by
    show (if _ then _ else _ : State).core = _
    split
    · rw [State.calCause_core, State.modRecv_core]
    · rfl
  have hh : h.core = g.core := by
    show (State.degradedHealth _).core = _
    rw [State.degradedHealth_core, State.resetHealth_core]
  have hg : g.core = f.core := State.modEmit_core _ _ rfl
  have hf : f.core = e.core := State.modTwin_core _ _
  have he : e.core = d.core := by
    show (State.stage _ _).core = _
    rw [State.stage_core, State.modSys_core]
  have hd : d.core = c.core := by
    show (if _ then _ else _ : State).core = _
    split
    · rfl
    · rw [State.slicesStop_core]
  have hc : c.core = b.core := by
    show (State.modMemc _ _).core = _
    rw [State.modMemc_core, State.loopsForMode_core]
  have hb : b.core = a.core := State.modClk_core _ _
  have ha : a.core = s.core := by
    show (State.modTime _ _).core = _
    rw [State.modTime_core, State.settle_core]
  rw [hj, hi, hh, hg, hf, he, hd, hc, hb, ha]
@[simp] theorem State.bootDone_line (s : State) : (State.bootDone s).core.line = s.core.line := line_of_kept (State.bootDone_kept s)
@[simp] theorem State.bootOn_line (s : State) : (State.bootOn s).core.line = s.core.line := by
  unfold State.bootOn
  (repeat' split) <;> simp
@[simp] theorem State.fullBoot_line (s : State) (code : Nat) : (State.fullBoot s code).core.line = s.core.line := by simp [State.fullBoot]
@[simp] theorem State.warmStart_line (s : State) (code : Nat) : (State.warmStart s code).core.line = s.core.line := by simp [State.warmStart]
@[simp] theorem State.stewardReset_line (s : State) (code : Nat) : (State.stewardReset s code).core.line = s.core.line := by
  unfold State.stewardReset
  generalize secT 600 = n
  extract_lets recent w
  have hw : w.core = s.core := State.modSys_core _ _
  rw [← hw]
  generalize w = v
  split
  · rw [State.fullBoot_line]
  · rw [State.warmStart_line]
@[simp] theorem State.configTake_kept (s : State) (bs : List Byte) : (State.configTake s bs).core.kept = s.core.kept := by simp [State.configTake]

end Sys2Proof.Machine
end

