-- ==== Sys2Proof/Laws/Memory.lean ====
section
/-!
SUPPORT. Memories: every operation keeps the canonical form, a read gives what was last written at its address, and a write
leaves every other address alone.
-/
set_option Elab.async false
namespace Sys2Proof.Machine

/-- What the canonical form says, address by address. -/
theorem Memory.wf_iff (m : Memory) : m.wf = true ↔ m.Pairwise (fun c d => c.1 < d.1) ∧ ∀ c ∈ m, c.2 ≠ 0 := by
  induction m with
  | nil => simp [Memory.wf]
  | cons c r ih =>
    cases r with
    | nil => simp [Memory.wf]
    | cons d r =>
      rw [Memory.wf]
      simp only [Bool.and_eq_true, bne_iff_ne, decide_eq_true_eq, ih, List.pairwise_cons, List.mem_cons]
      constructor
      · rintro ⟨⟨h0, hcd⟩, ⟨hd, hr⟩, hz⟩
        refine ⟨⟨?_, hd, hr⟩, ?_⟩
        · rintro e (rfl | he)
          · exact hcd
          · exact Nat.lt_trans hcd (hd e he)
        · rintro e (rfl | he)
          · exact h0
          · exact hz e he
      · rintro ⟨⟨hc, hd, hr⟩, hz⟩
        exact ⟨⟨hz c (Or.inl rfl), hc d (Or.inl rfl)⟩, ⟨hd, hr⟩, fun e he => hz e (Or.inr he)⟩

theorem mem_aput {k : Nat} {v : Byte} {m : Memory} {c : Host.Cell} (h : c ∈ aput k v m) : c = (k, v) ∨ c ∈ m := by
  induction m with
  | nil => simpa [aput] using h
  | cons d r ih =>
    unfold aput at h
    split at h
    · simpa using h
    · split at h
      · simp only [List.mem_cons] at h ⊢
        tauto
      · simp only [List.mem_cons] at h ⊢
        rcases h with h | h
        · exact Or.inr (Or.inl h)
        · rcases ih h with h | h
          · exact Or.inl h
          · exact Or.inr (Or.inr h)

theorem aput_rising (k : Nat) (v : Byte) (m : Memory) (h : m.Pairwise (fun c d => c.1 < d.1)) :
    (aput k v m).Pairwise (fun c d => c.1 < d.1) := by
  induction m with
  | nil => simp [aput]
  | cons d r ih =>
    obtain ⟨hd, hr⟩ := List.pairwise_cons.mp h
    unfold aput
    split
    · rename_i hk
      refine List.pairwise_cons.mpr ⟨?_, h⟩
      intro e he
      rcases List.mem_cons.mp he with rfl | he
      · exact hk
      · exact Nat.lt_trans hk (hd e he)
    · split
      · rename_i hk
        subst hk
        exact List.pairwise_cons.mpr ⟨hd, hr⟩
      · refine List.pairwise_cons.mpr ⟨?_, ih hr⟩
        intro e he
        rcases mem_aput he with rfl | he
        · show d.1 < k
          omega
        · exact hd e he

/-- Removing entries keeps the canonical form. -/
theorem Memory.wf_filter {m : Memory} (f : Host.Cell → Bool) (h : m.wf = true) : Memory.wf (m.filter f) = true := by
  rw [Memory.wf_iff] at h ⊢
  exact ⟨h.1.filter f, fun c hc => h.2 c (List.mem_filter.mp hc).1⟩

/-- A write keeps the canonical form. -/
theorem Memory.wf_write {m : Memory} (a : Nat) (b : Byte) (h : m.wf = true) : (Memory.write m a b).wf = true := by
  unfold Memory.write aset
  split
  · exact Memory.wf_filter _ h
  · rename_i hb
    rw [Memory.wf_iff] at h ⊢
    refine ⟨aput_rising a b m h.1, fun c hc => ?_⟩
    rcases mem_aput hc with rfl | hc
    · exact hb
    · exact h.2 c hc

/-- So do writes of several bytes. -/
theorem Memory.wf_writeBytes {m : Memory} (a : Nat) (bs : List Byte) (h : m.wf = true) :
    (Memory.writeBytes m a bs).wf = true := by
  induction bs generalizing m a with
  | nil => exact h
  | cons b bs ih => exact ih (a + 1) (Memory.wf_write a b h)

/-- And clearing a range. -/
theorem Memory.wf_zero {m : Memory} (a n : Nat) (h : m.wf = true) : (Memory.zero m a n).wf = true := Memory.wf_filter _ h

/-- Every memory of the block has the canonical form at reset. -/
theorem reset_memories_wf : Memory.wf State.reset.bufs = true ∧ Memory.wf State.reset.sill.dram = true := ⟨rfl, rfl⟩

theorem aget_filter_ne (m : Memory) (a : Nat) : ∀ k, aget 0 (adel m a) k = if k = a then 0 else aget 0 m k := by
  intro k
  unfold adel
  induction m with
  | nil => simp [aget]
  | cons c r ih =>
    by_cases hc : c.1 = a
    · rw [List.filter_cons_of_neg (by simp [hc]), ih]
      by_cases hk : k = a
      · simp [hk]
      · have : c.1 ≠ k := by omega
        simp [hk, aget, this]
    · rw [List.filter_cons_of_pos (by simp [hc])]
      by_cases hk : c.1 = k
      · have : k ≠ a := by omega
        simp [aget, hk, this]
      · simpa [aget, hk] using ih

theorem aget_aput (m : Memory) (a : Nat) (b : Byte) : ∀ k, aget 0 (aput a b m) k = if k = a then b else aget 0 m k := by
  intro k
  induction m with
  | nil => simp [aput, aget, eq_comm]
  | cons c r ih =>
    unfold aput
    split
    · simp [aget, eq_comm]
    · split
      · rename_i h1 h2
        subst h2
        by_cases hk : k = c.1
        · simp [aget, hk]
        · have : c.1 ≠ k := fun h => hk h.symm
          simp [aget, hk, this]
      · rename_i h1 h2
        by_cases hk : c.1 = k
        · have : k ≠ a := by omega
          simp [aget, hk, this]
        · simpa [aget, hk] using ih

/-- A read after a write: the byte written at its address, and what was there everywhere else. -/
theorem Memory.read_write (m : Memory) (a : Nat) (b : Byte) (k : Nat) :
    (Memory.write m a b).read k = if k = a then b else m.read k := by
  unfold Memory.read Memory.write aset
  split
  · rename_i hb
    rw [aget_filter_ne, hb]
  · exact aget_aput m a b k

/-- Writing several bytes leaves every other address alone. -/
theorem Memory.read_writeBytes_of_out (m : Memory) (a : Nat) (bs : List Byte) (k : Nat) (h : k < a ∨ a + bs.length ≤ k) :
    (Memory.writeBytes m a bs).read k = m.read k := by
  induction bs generalizing m a with
  | nil => rfl
  | cons b bs ih =>
    rw [List.length_cons] at h
    unfold Memory.writeBytes
    rw [ih _ _ (by omega), Memory.read_write, if_neg (by omega)]

/-- What was written is read back. -/
theorem Memory.readBytes_writeBytes (m : Memory) (a : Nat) (bs : List Byte) :
    (Memory.writeBytes m a bs).readBytes a bs.length = bs := by
  induction bs generalizing m a with
  | nil => rfl
  | cons b bs ih =>
    rw [List.length_cons]
    unfold Memory.writeBytes Memory.readBytes
    rw [ih, Memory.read_writeBytes_of_out _ _ _ _ (by omega), Memory.read_write, if_pos rfl]

@[simp] theorem leBytes_length (k n : Nat) : (leBytes k n).length = k := by
  induction k generalizing n with
  | zero => rfl
  | succ k ih => simp [leBytes, ih]

/-- A number that fits its bytes is read back from them. -/
theorem leNat_leBytes (k n : Nat) (h : n < 256 ^ k) : leNat (leBytes k n) = n := by
  induction k generalizing n with
  | zero =>
    simp only [pow_zero] at h
    show 0 = n
    omega
  | succ k ih =>
    have hd : n / 256 < 256 ^ k := by
      rw [Nat.div_lt_iff_lt_mul (by decide)]
      rw [pow_succ] at h
      omega
    unfold leBytes leNat
    rw [ih _ hd]
    simp only [BitVec.toNat_ofNat]
    omega

end Sys2Proof.Machine
end

