-- ==== Sys2Proof/Laws/Deflate.lean ====
section
/-!
SUPPORT. Laws of the DEFLATE decoder: what stored blocks decode to, and that the stored stream of R307 gives the tile's bytes back.
-/
set_option Elab.async false
namespace Sys2Proof.Machine

theorem toArray_getD (l : List Byte) (i : Nat) : l.toArray.getD i 0 = l.getD i 0 := by
  simp [Array.getD_eq_getD_getElem?, List.getD_eq_getElem?_getD]

/-- Copying n bytes from place q of a list. -/
theorem push_range (pre b post : List Byte) (n : Nat) (hn : n ≤ b.length) (out : Array Byte) :
    (List.range n).foldl (fun o k => o.push ((pre ++ b ++ post).toArray.getD (pre.length + k) 0)) out = out ++ (b.take n).toArray := by
  induction n with
  | zero => simp
  | succ n ih =>
    rw [List.range_succ, List.foldl_append, ih (by omega), List.foldl_cons, List.foldl_nil, toArray_getD]
    have : (pre ++ b ++ post).getD (pre.length + n) 0 = b[n]'(by omega) := by
      rw [List.getD_eq_getElem?_getD, List.append_assoc, List.getElem?_append_right (by omega)]
      rw [Nat.add_sub_cancel_left, List.getElem?_append_left (by omega), List.getElem?_eq_getElem (by omega)]; rfl
    rw [this, List.take_succ_eq_append_getElem (by omega)]
    rw [← Array.toList_inj]; simp

theorem streamBit_at (l : List Byte) (q k : Nat) (h : k < 8) :
    streamBit l.toArray (8 * q + k) = (l.getD q 0).toNat / 2 ^ k % 2 := by
  unfold streamBit
  rw [toArray_getD, show (8 * q + k) / 8 = q by omega, show (8 * q + k) % 8 = k by omega]

theorem byte_bits (x : Nat) (h : x < 256) :
    x % 2 + (x / 2 % 2 * 2 + (x / 4 % 2 * 4 + (x / 8 % 2 * 8 + (x / 16 % 2 * 16 + (x / 32 % 2 * 32 + (x / 64 % 2 * 64 + x / 128 % 2 * 128)))))) = x := by
  omega

theorem streamBits_8 (l : List Byte) (q : Nat) : streamBits l.toArray (8 * q) 8 = (l.getD q 0).toNat := by
  have h : (List.range 8).map (fun k => streamBit l.toArray (8 * q + k) * 2 ^ k) =
      (List.range 8).map (fun k => (l.getD q 0).toNat / 2 ^ k % 2 * 2 ^ k) :=
    List.map_congr_left fun k hk => by rw [streamBit_at l q k (List.mem_range.mp hk)]
  unfold streamBits
  rw [h]
  generalize hx : (l.getD q 0).toNat = x
  have hb := byte_bits x (hx ▸ (l.getD q 0).isLt)
  simpa [List.range, List.range.loop] using hb

theorem streamBits_add (a : Array Byte) (i m n : Nat) :
    streamBits a i (m + n) = streamBits a i m + 2 ^ m * streamBits a (i + m) n := by
  unfold streamBits
  rw [List.range_add, List.map_append, List.sum_append, List.map_map, ← List.sum_map_mul_left]
  congr 2
  refine List.map_congr_left fun k _ => ?_
  simp only [Function.comp, Nat.add_assoc, Nat.pow_add]
  ring

theorem streamBits_16 (l : List Byte) (q : Nat) :
    streamBits l.toArray (8 * q) 16 = (l.getD q 0).toNat + 256 * (l.getD (q + 1) 0).toNat := by
  rw [show (16 : Nat) = 8 + 8 from rfl, streamBits_add, streamBits_8, show 8 * q + 8 = 8 * (q + 1) by ring, streamBits_8, show (2 : Nat) ^ 8 = 256 from rfl]

/-- A stored block: final or not, and its bytes. -/
def storedBlock (f : Nat) (b : List Byte) : List Byte :=
  leBytes 1 f ++ leBytes 2 b.length ++ leBytes 2 (65535 - b.length) ++ b

theorem storedBlock_length (f : Nat) (b : List Byte) : (storedBlock f b).length = 5 + b.length := by
  simp [storedBlock]; omega

theorem getD_skip (pre l : List Byte) (k : Nat) : (pre ++ l).getD (pre.length + k) 0 = l.getD k 0 := by
  rw [List.getD_eq_getElem?_getD, List.getD_eq_getElem?_getD, List.getElem?_append_right (Nat.le_add_right _ _), Nat.add_sub_cancel_left]

/-- A stored block decodes to its bytes. -/
theorem inflateBlock_stored (pre b post : List Byte) (f : Nat) (hf : f < 2) (h : b.length ≤ 65535) (r : Reach) (out : Array Byte) :
    inflateBlock (pre ++ (storedBlock f b ++ post)).toArray r { out := out, pos := 8 * pre.length } =
        some { out := out ++ b.toArray, pos := 8 * (pre.length + (storedBlock f b).length) } ∧
      streamBit (pre ++ (storedBlock f b ++ post)).toArray (8 * pre.length) = f := by
  have hl : storedBlock f b ++ post = BitVec.ofNat 8 f :: BitVec.ofNat 8 b.length :: BitVec.ofNat 8 (b.length / 256) ::
      BitVec.ofNat 8 (65535 - b.length) :: BitVec.ofNat 8 ((65535 - b.length) / 256) :: (b ++ post) := by
    simp [storedBlock, leBytes]
  have g0 : ((pre ++ (storedBlock f b ++ post)).getD (pre.length + 0) 0).toNat = f := by
    rw [getD_skip, hl]; simp; omega
  have g1 : ((pre ++ (storedBlock f b ++ post)).getD (pre.length + 1) 0).toNat = b.length % 256 := by
    rw [getD_skip, hl]; simp
  have g2 : ((pre ++ (storedBlock f b ++ post)).getD (pre.length + 2) 0).toNat = b.length / 256 := by
    rw [getD_skip, hl]; simp; omega
  have g3 : ((pre ++ (storedBlock f b ++ post)).getD (pre.length + 3) 0).toNat = (65535 - b.length) % 256 := by
    rw [getD_skip, hl]; simp
  have g4 : ((pre ++ (storedBlock f b ++ post)).getD (pre.length + 4) 0).toNat = (65535 - b.length) / 256 := by
    rw [getD_skip, hl]; simp; omega
  have s0 : streamBit (pre ++ (storedBlock f b ++ post)).toArray (8 * pre.length) = f := by
    have := streamBit_at (pre ++ (storedBlock f b ++ post)) pre.length 0 (by omega)
    rw [Nat.add_zero] at this g0
    rw [this, g0]; omega
  have s1 : streamBits (pre ++ (storedBlock f b ++ post)).toArray (8 * pre.length + 1) 2 = 0 := by
    have t1 := streamBit_at (pre ++ (storedBlock f b ++ post)) pre.length 1 (by omega)
    have t2 := streamBit_at (pre ++ (storedBlock f b ++ post)) pre.length 2 (by omega)
    rw [Nat.add_zero] at g0
    rw [g0] at t1 t2
    simp only [streamBits, List.range, List.range.loop, List.map_cons, List.map_nil, List.sum_cons, List.sum_nil, Nat.add_assoc,
      Nat.reduceAdd, t1, t2]
    omega
  refine ⟨?_, s0⟩
  unfold inflateBlock
  simp only [s1]
  have hq : cdiv (8 * pre.length + 3) 8 = pre.length + 1 := by rw [cdiv, if_neg (by decide)]; omega
  rw [hq, streamBits_16, show 8 * (pre.length + 1) + 16 = 8 * (pre.length + 3) by ring, streamBits_16, g1, g2, g3, g4,
    show b.length % 256 + 256 * (b.length / 256) = b.length by omega]
  have hs : (pre ++ (storedBlock f b ++ post)).toArray.size = pre.length + (5 + b.length + post.length) := by
    simp [storedBlock_length]
  rw [if_neg (by rw [hs]; simp; omega)]
  have hp : pre ++ (storedBlock f b ++ post) =
      (pre ++ (leBytes 1 f ++ leBytes 2 b.length ++ leBytes 2 (65535 - b.length))) ++ b ++ post := by
    simp [storedBlock]
  have hn : (pre ++ (leBytes 1 f ++ leBytes 2 b.length ++ leBytes 2 (65535 - b.length))).length = pre.length + 1 + 4 := by
    simp
  have := push_range (pre ++ (leBytes 1 f ++ leBytes 2 b.length ++ leBytes 2 (65535 - b.length))) b post b.length (Nat.le_refl _) out
  rw [← hp, hn] at this
  rw [this, List.take_length, storedBlock_length]
  simp; omega

/-- Two stored blocks decode to what they hold. -/
theorem inflate_two (b c : List Byte) (hb : b.length ≤ 65535) (hc : c.length ≤ 65535) (n : Nat) (hn : b.length + c.length ≤ n) :
    inflate n (storedBlock 0 b ++ storedBlock 1 c) = some (b ++ c) := by
  obtain ⟨m, hm⟩ : ∃ m, 8 * (storedBlock 0 b ++ storedBlock 1 c).toArray.size = m + 2 :=
    ⟨8 * (storedBlock 0 b ++ storedBlock 1 c).toArray.size - 2, by simp [storedBlock_length]; omega⟩
  have h1 := inflateBlock_stored [] b (storedBlock 1 c) 0 (by omega) hb { reach := 32768, base := 0, limit := n } #[]
  have h2 := inflateBlock_stored (storedBlock 0 b) c [] 1 (by omega) hc { reach := 32768, base := 0, limit := n } (#[] ++ b.toArray)
  simp only [List.nil_append, List.length_nil, Nat.zero_add, Nat.mul_zero] at h1
  simp only [List.append_nil] at h2
  unfold inflate
  simp only [hm]
  rw [inflateAll, if_neg (by simp), if_neg (by simp [storedBlock_length]; omega), h1.1]
  simp only [h1.2]
  rw [if_neg (by simp), inflateAll, if_neg (by simp; omega), if_neg (by simp [storedBlock_length]; omega), h2.1]
  simp only [h2.2]
  have hz : cdiv (8 * ((storedBlock 0 b).length + (storedBlock 1 c).length)) 8 = (storedBlock 0 b ++ storedBlock 1 c).length := by
    rw [cdiv, if_neg (by decide), List.length_append]; omega
  simp [hz]

/-- Two stored blocks of more than n bytes in all are cut off there: what is decoded is too long. -/
theorem inflate_long (b c post : List Byte) (hb : b.length ≤ 65535) (hc : c.length ≤ 65535) (n : Nat) (hbn : b.length ≤ n)
    (hn : n < b.length + c.length) : inflate n (storedBlock 0 b ++ (storedBlock 0 c ++ post)) = some (b ++ c) := by
  obtain ⟨m, hm⟩ : ∃ m, 8 * (storedBlock 0 b ++ (storedBlock 0 c ++ post)).toArray.size = m + 3 :=
    ⟨8 * (storedBlock 0 b ++ (storedBlock 0 c ++ post)).toArray.size - 3, by simp [storedBlock_length]; omega⟩
  have h1 := inflateBlock_stored [] b (storedBlock 0 c ++ post) 0 (by omega) hb { reach := 32768, base := 0, limit := n } #[]
  have h2 := inflateBlock_stored (storedBlock 0 b) c post 0 (by omega) hc { reach := 32768, base := 0, limit := n } (#[] ++ b.toArray)
  simp only [List.nil_append, List.length_nil, Nat.zero_add, Nat.mul_zero] at h1
  unfold inflate
  simp only [hm]
  rw [inflateAll, if_neg (by simp), if_neg (by simp [storedBlock_length]; omega), h1.1]
  simp only [h1.2]
  rw [if_neg (by simp), inflateAll, if_neg (by simp; omega), if_neg (by simp [storedBlock_length]; omega), h2.1]
  simp only [h2.2]
  rw [if_neg (by simp), inflateAll, if_pos (by simp; omega)]
  simp; omega

/-- The stream of a stored flacon (R307) decodes to the tile's bytes. -/
theorem inflate_storedStream (data : List Byte) (h : data.length = 65536) : inflate 65536 (storedStream data) = some data := by
  have e : storedStream data = storedBlock 0 (data.take 65535) ++ storedBlock 1 (data.drop 65535) := by
    have h1 : (data.drop 65535).take 1 = data.drop 65535 := List.take_of_length_le (by simp [h])
    simp [storedStream, storedBlock, slice, h, h1]
  rw [e, inflate_two _ _ (by simp [h]) (by simp [h]) _ (by simp [h]), List.take_append_drop]

end Sys2Proof.Machine
end

