-- ==== Sys2Proof/Laws/Emit.lean ====
section
/-!
SUPPORT. Emitter channels: what an update of one channel leaves alone, what a pass over all six comes to, and the moves that
keep an interlocked device dark.
-/
set_option Elab.async false
namespace Sys2Proof.Machine

theorem nth_modAt {α : Type} (d : α) (f : α → α) (xs : List α) (i j : Nat) :
    nth d (modAt f xs i) j = if j = i ∧ i < xs.length then f (nth d xs i) else nth d xs j := by
  induction xs generalizing i j with
  | nil => simp [modAt, nth]
  | cons x xs ih =>
    cases i with
    | zero => cases j <;> simp [modAt, nth]
    | succ i =>
      cases j with
      | zero => simp [modAt, nth]
      | succ j =>
        have := ih i j
        simp only [nth] at this
        simpa [modAt, nth] using this

@[simp] theorem modAt_length {α : Type} (f : α → α) (xs : List α) (i : Nat) : (modAt f xs i).length = xs.length := by
  induction xs generalizing i with
  | nil => simp [modAt]
  | cons x xs ih => cases i <;> simp [modAt, ih]

theorem mem_modAt {α : Type} {f : α → α} {xs : List α} {i : Nat} {y : α} (h : y ∈ modAt f xs i) :
    y ∈ xs ∨ ∃ x ∈ xs, y = f x := by
  induction xs generalizing i with
  | nil => simp [modAt] at h
  | cons x xs ih =>
    cases i with
    | zero =>
      simp only [modAt, List.mem_cons] at h
      rcases h with rfl | h
      · exact Or.inr ⟨x, by simp, rfl⟩
      · exact Or.inl (by simp [h])
    | succ i =>
      simp only [modAt, List.mem_cons] at h
      rcases h with rfl | h
      · exact Or.inl (by simp)
      · rcases ih h with h | ⟨z, hz, e⟩
        · exact Or.inl (by simp [h])
        · exact Or.inr ⟨z, by simp [hz], e⟩

theorem State.modCh_ch (s : State) (c d : Nat) (f : EmitCh → EmitCh) :
    (s.modCh c f).ch d = if d = c ∧ c < s.emit.chans.length then f (s.ch c) else s.ch d := nth_modAt _ _ _ _ _

/-- The state with other emitter channels. -/
def State.withChans (s : State) (l : List EmitCh) : State := { s with emit := { s.emit with chans := l } }

theorem State.modCh_withChans (s : State) (c : Nat) (f : EmitCh → EmitCh) :
    s.modCh c f = s.withChans (modAt f s.emit.chans c) := rfl

/-- A pass over distinct channels, each updated by a function that does not look at the channels: each channel of the list takes
its own update, and nothing but the channels changes. -/
theorem chans_pass (F : State → Nat → EmitCh → EmitCh) (hF : ∀ s l, F (s.withChans l) = F s) (cs : List Nat)
    (hn : cs.Nodup) (s : State) :
    (∃ l, cs.foldl (fun w c => w.modCh c (F w c)) s = s.withChans l) ∧
    (cs.foldl (fun w c => w.modCh c (F w c)) s).emit.chans.length = s.emit.chans.length ∧
    ∀ d, d < s.emit.chans.length →
      (cs.foldl (fun w c => w.modCh c (F w c)) s).ch d = if d ∈ cs then F s d (s.ch d) else s.ch d := by
  induction cs generalizing s with
  | nil => exact ⟨⟨s.emit.chans, rfl⟩, rfl, fun d _ => by simp⟩
  | cons c cs ih =>
    obtain ⟨hc, hcs⟩ := List.nodup_cons.mp hn
    obtain ⟨⟨l, h1⟩, h2, h3⟩ := ih hcs (s.modCh c (F s c))
    have hl : (s.modCh c (F s c)).emit.chans.length = s.emit.chans.length := modAt_length _ _ _
    rw [List.foldl_cons]
    refine ⟨⟨l, by rw [h1]; rfl⟩, h2.trans hl, fun d hd => ?_⟩
    rw [h3 d (by rw [hl]; exact hd), State.modCh_withChans, hF, ← State.modCh_withChans, State.modCh_ch]
    by_cases hdc : d = c
    · subst hdc
      simp [hc, hd]
    · simp [hdc]

/-! What an update of the channels alone leaves as it was. -/

@[simp] theorem State.withChans_p (s : State) (l : List EmitCh) (k : Nat) : (s.withChans l).p k = s.p k := rfl
@[simp] theorem State.withChans_now (s : State) (l : List EmitCh) : (s.withChans l).now = s.now := rfl
@[simp] theorem State.withChans_forcedDark (s : State) (l : List EmitCh) (c : Nat) :
    (s.withChans l).forcedDark c = s.forcedDark c := rfl
@[simp] theorem State.withChans_enabled (s : State) (l : List EmitCh) (c : Nat) : (s.withChans l).enabled c = s.enabled c := rfl
@[simp] theorem State.withChans_capCode (s : State) (l : List EmitCh) (c b : Nat) :
    (s.withChans l).capCode c b = s.capCode c b := rfl
@[simp] theorem State.withChans_loopLimit (s : State) (l : List EmitCh) (c : Nat) :
    (s.withChans l).loopLimit c = s.loopLimit c := rfl
@[simp] theorem State.withChans_setpoint (s : State) (l : List EmitCh) (c : Nat) :
    (s.withChans l).setpoint c = s.setpoint c := rfl

end Sys2Proof.Machine
end

