-- ==== Sys2Proof/Laws/Link.lean ====
section
/-!
SUPPORT. A frame of the pair link that is taken hands its content on.
-/
set_option Elab.async false
namespace Sys2Proof.Machine

@[simp] theorem State.perfEvent_twin (s : State) (ev x y n : Nat) : (s.perfEvent ev x y n).twin = s.twin := by
  unfold State.perfEvent
  simp only []
  split <;> rfl

@[simp] theorem State.linkWire_twin (s : State) (bytes : List Byte) : (s.linkWire bytes).twin = s.twin := by
  unfold State.linkWire
  rw [State.perfEvent_twin]
  rfl

/-- Sending what waits leaves the count of accepted frames alone. -/
theorem State.linkDrain_accepted (n : Nat) (s : State) : (s.linkDrain n).twin.accepted = s.twin.accepted := by
  induction n generalizing s with
  | zero => rfl
  | succ n ih =>
    unfold State.linkDrain
    split
    · rfl
    · simp only []
      split
      · rw [ih, State.linkWire_twin]; rfl
      · rfl

/-- Acknowledgement leaves the count of accepted frames alone. -/
theorem State.ackTo_accepted (s : State) (n : Nat) : (s.ackTo n).twin.accepted = s.twin.accepted := by
  unfold State.ackTo
  rw [State.linkDrain_accepted]
  rfl

theorem State.linkIn_any {s : State} {h : LinkHdr} (hs : s.Hears h) (body : State → State) :
    s.linkIn h false body = body (s.heardAny h) := by
  obtain ⟨h1, h2, h3, h4⟩ := hs
  have h1' : ¬ s.twin.link < 2 := by omega
  unfold State.linkIn
  cases hp : s.twin.peerAt with
  | none => simp [h1', h2, h3, State.heardAny]
  | some a => simp [h1', h2, h3, Nat.not_le.mpr (h4 a (by simp [hp])), State.heardAny]

theorem State.linkIn_reliable {s : State} {h : LinkHdr} (hs : s.Hears h) (ho : s.InOrder h) (body : State → State) :
    s.linkIn h true body = body (s.heard h) := by
  obtain ⟨h1, h2, h3, h4⟩ := hs
  have h1' : ¬ s.twin.link < 2 := by omega
  have ho' : (h.resync || h.lseq == ((s.ackTo h.ack).twin.accepted + 1) % 65536) = true := by
    rw [State.ackTo_accepted]
    rcases ho with h | h <;> simp [h]
  unfold State.linkIn
  cases hp : s.twin.peerAt with
  | none =>
    simp only [ho']
    simp [h1', h2, h3, State.heard]
  | some a =>
    simp only [ho']
    simp [h1', h2, h3, Nat.not_le.mpr (h4 a (by simp [hp])), State.heard]

end Sys2Proof.Machine
end

