-- ==== Sys2Proof/Laws/Request.lean ====
section
/-!
SUPPORT. What the passing of time leaves alone, and what a request's checks come to where they pass.
-/
set_option Elab.async false
namespace Sys2Proof.Machine

/-- The passing of time changes the instant and the performance counters alone. -/
theorem State.advance_eq (s : State) (t : Tick) :
    ∃ ps, s.advance t = { s with now := max s.now t, clk := { s.clk with perf := ps } } := by
  unfold State.advance
  simp only []
  split
  · exact ⟨s.clk.perf, rfl⟩
  · exact ⟨_, rfl⟩

/-- An admitted request is admitted whenever it is looked at. -/
theorem State.Admits.advance {s : State} {q : Req} {cls : Nat} {grant : Bool} (h : s.Admits q cls grant) (t : Tick) :
    (s.advance t).Admits q cls grant := by
  obtain ⟨ps, e⟩ := s.advance_eq t
  rw [e]
  exact h

/-- A request that is admitted reaches its command. -/
theorem State.gate_admits {s : State} {q : Req} {cls : Nat} {grant : Bool} (h : s.Admits q cls grant) (op : Nat)
    (body : State → ReqId → State) :
    s.gate q op cls grant body = body (s.modMbox q.mb fun b => { b with inflight := q.tag :: b.inflight }) (reqId q op) := by
  obtain ⟨h1, h2, h3, h4, h5, h6, h7, h8⟩ := h
  have h1' : (!s.sys.mbReady && q.mb != 19) = false := by rcases h1 with h | h <;> simp [h]
  have h6' : (grant || q.mb == 19) = true := by rcases h6 with h | h <;> simp [h]
  have h9 : ((!s.sys.mbReady && q.mb != 19) || decide (19 < q.mb) || s.clk.mode == 0) = false := by
    rw [h1']
    simp [h3]
    omega
  unfold State.gate
  simp only [h9, h4, h5, h6', h7, Bool.false_eq_true, if_false, Bool.not_true, Bool.or_self, Nat.not_le.mpr h8]

/-- A request that is admitted reaches its command in the state in which time has passed. -/
theorem State.gate_opened {s : State} {q : Req} {cls : Nat} {grant : Bool} (h : s.Admits q cls grant) (t : Tick) (op : Nat)
    (body : State → ReqId → State) :
    (s.advance t).gate q op cls grant body = body (s.opened t q) (reqId q op) :=
  State.gate_admits (h.advance t) op body

/-- A request pulse of a crossing changes the record of pulses in flight and the sticky bits alone. -/
theorem State.pulse_eq (s : State) (g c a b : Nat) :
    ∃ ps co, s.pulse g c a b = { s with clk := { s.clk with pulses := ps, coalesced := co } } := by
  unfold State.pulse
  simp only []
  split
  · exact ⟨_, _, rfl⟩
  · exact ⟨_, _, rfl⟩

end Sys2Proof.Machine
end

