-- ==== Sys2Proof/Laws/Slice.lean ====
section
/-!
SUPPORT. Keyed tables read back what was put into them, and what ends a slice's instruction changes.
-/
set_option Elab.async false
namespace Sys2Proof.Machine

theorem aget_aput_self {α : Type} (d : α) (k : Nat) (v : α) (xs : List (Nat × α)) : aget d (aput k v xs) k = v := by
  induction xs with
  | nil => simp [aput, aget]
  | cons e r ih =>
    obtain ⟨k', v'⟩ := e
    unfold aput
    by_cases h1 : k < k'
    · simp [h1, aget]
    · by_cases h2 : k = k'
      · simp [h2, aget]
      · simp [h1, h2, aget, ih, Ne.symm h2]

theorem aget_aput_other {α : Type} (d : α) {k j : Nat} (hj : j ≠ k) (v : α) (xs : List (Nat × α)) :
    aget d (aput k v xs) j = aget d xs j := by
  induction xs with
  | nil => simp [aput, aget, Ne.symm hj]
  | cons e r ih =>
    obtain ⟨k', v'⟩ := e
    unfold aput
    by_cases h1 : k < k'
    · simp [h1, aget, Ne.symm hj]
    · by_cases h2 : k = k'
      · subst h2; simp [aget, Ne.symm hj]
      · simp only [h1, h2, if_false, aget, ih]

theorem aget_adel_self {α : Type} (d : α) (k : Nat) (xs : List (Nat × α)) : aget d (adel xs k) k = d := by
  induction xs with
  | nil => rfl
  | cons e r ih =>
    obtain ⟨k', v'⟩ := e
    unfold adel at *
    by_cases h : k' = k
    · simpa [h] using ih
    · simp [h, aget]
      exact ih

theorem aget_adel_other {α : Type} (d : α) {k j : Nat} (hj : j ≠ k) (xs : List (Nat × α)) :
    aget d (adel xs k) j = aget d xs j := by
  induction xs with
  | nil => rfl
  | cons e r ih =>
    obtain ⟨k', v'⟩ := e
    unfold adel at *
    by_cases h : k' = k
    · subst h; simp [aget, Ne.symm hj, ih]
    · simp [h, aget, ih]

theorem aget_aset_self {α : Type} [DecidableEq α] (d : α) (k : Nat) (v : α) (xs : List (Nat × α)) :
    aget d (aset d xs k v) k = v := by
  unfold aset
  split
  · rename_i h; rw [aget_adel_self, h]
  · exact aget_aput_self d k v xs

theorem aget_aset_other {α : Type} [DecidableEq α] (d : α) {k j : Nat} (hj : j ≠ k) (v : α) (xs : List (Nat × α)) :
    aget d (aset d xs k v) j = aget d xs j := by
  unfold aset
  split
  · exact aget_adel_other d hj xs
  · exact aget_aput_other d hj v xs

/-- A slice reads back as it was changed, and every other slice as it was. -/
@[simp] theorem State.slc_modSlc (s : State) (i : Nat) (f : Slice → Slice) : (s.modSlc i f).slc i = f (s.slc i) :=
  aget_aset_self _ _ _ _

theorem State.slc_modSlc_other (s : State) {i j : Nat} (h : j ≠ i) (f : Slice → Slice) : (s.modSlc i f).slc j = s.slc j :=
  aget_aset_other _ h _ _

/-- A performance event leaves the slices alone. -/
@[simp] theorem State.slc_perfEvent (s : State) (ev x y n j : Nat) : (s.perfEvent ev x y n).slc j = s.slc j := by
  unfold State.perfEvent
  simp only []
  split <;> rfl

@[simp] theorem State.slc_tookFree (s : State) (j : Nat) : s.tookFree.slc j = s.slc j := rfl

/-- The cycles and stalls of an instruction change its slice's cycle count, hazard and transfer wait alone. -/
theorem State.slc_sliceCycles (s : State) (i : Nat) (w : Word) (n : Nat) :
    ∃ c d, (s.sliceCycles i w n).slc i = { s.slc i with cycles := c, hazard := leaves w, dmaWait := d } := by
  unfold State.sliceCycles
  simp only []
  split
  · rw [State.slc_perfEvent, State.slc_modSlc]
    exact ⟨_, _, rfl⟩
  · rw [State.slc_modSlc]
    exact ⟨_, _, rfl⟩

theorem State.slc_sliceCycles_other (s : State) {i j : Nat} (h : j ≠ i) (w : Word) (n : Nat) :
    (s.sliceCycles i w n).slc j = s.slc j := by
  unfold State.sliceCycles
  simp only []
  split <;> simp [State.slc_modSlc_other _ h]

/-- Within the code an instruction goes on. -/
theorem State.sliceGoto_ok (s : State) (i pc : Nat) (h : pc < (s.slc i).codeLen) :
    s.sliceGoto i (pc : Int) = s.modSlc i fun x => { x with pc := pc, waiting := false } := by
  unfold State.sliceGoto
  rw [if_pos]
  · simp
  · simp [h]

@[simp] theorem Slice.setG_pc (x : Slice) (r : Nat) (v : Word) : (x.setG r v).pc = x.pc := by
  unfold Slice.setG; split <;> rfl
@[simp] theorem Slice.setG_image (x : Slice) (r : Nat) (v : Word) : (x.setG r v).image = x.image := by
  unfold Slice.setG; split <;> rfl
@[simp] theorem Slice.setG_dmem (x : Slice) (r : Nat) (v : Word) : (x.setG r v).dmem = x.dmem := by
  unfold Slice.setG; split <;> rfl
@[simp] theorem Slice.setG_status (x : Slice) (r : Nat) (v : Word) : (x.setG r v).status = x.status := by
  unfold Slice.setG; split <;> rfl

theorem Slice.codeLen_of_image {x y : Slice} (h : x.image = y.image) : x.codeLen = y.codeLen := by
  unfold Slice.codeLen; rw [h]

/-- An instruction that ends within the code goes on. -/
theorem State.on_of_goto (s : State) (i : Nat) (w : Word) (n pc : Nat) (h : pc < (s.slc i).codeLen) :
    (s.sliceCycles i w n).sliceGoto i (pc : Int) = s.sliceOn i w n pc := by
  obtain ⟨c, d, e⟩ := s.slc_sliceCycles i w n
  rw [State.sliceGoto_ok]
  · rfl
  · rw [e]; exact h

/-- An instruction that ends within the code leaves the state of sliceDone. -/
theorem State.done_of_goto (s : State) (i : Nat) (w : Word) (n pc : Nat) (y : Slice) (h : pc < y.codeLen) :
    ((s.modSlc i fun _ => y).sliceCycles i w n).sliceGoto i (pc : Int) = s.sliceDone i w n y pc := by
  exact State.on_of_goto _ i w n pc (by simpa using h)

/-- An instruction that falls through and has no fault leaves the state of sliceDone. -/
theorem State.through_ok (s : State) (i : Nat) (w : Word) (n : Nat) (y : Slice) (h : y.pc + 1 < y.codeLen) :
    s.through i w n (.ok y) = s.sliceDone i w n y (y.pc + 1) := by
  unfold State.through
  exact State.done_of_goto s i w n (y.pc + 1) y h

end Sys2Proof.Machine
end

