-- ==== Sys2Proof/WellFormed.lean ====
section
/-!
DEFINITION. Which terms of Instr spell a command the world can send: each operand inside the range its rule gives it.
A meaning does not rest on these checks; statements that need a range name it.
-/
namespace Sys2Proof

/-- A mailbox peer: an address of 16 bytes and a UDP port (R62, R63). -/
def Peer.wf (p : Peer) : Bool := p.addr < 2 ^ 128 && p.port < 65536

/-- A request: mailbox 0 to 18, or 19 for the configuration section; a tag of 16 bits, a sequence of 32, a payload of at most
4,096 bytes (R41, R43, R477). -/
def Req.wf (q : Req) : Bool :=
  q.mb ≤ 19 && q.tag < 65536 && q.seq < 2 ^ 32 && q.payload.length ≤ 4096 && q.peer.wf

/-- An event record's fields fit their widths (R274). -/
def EventRec.wf (r : EventRec) : Bool :=
  r.time < 2 ^ 64 && r.seq < 2 ^ 32 && r.zone < 65536 && r.kind < 256 && r.flags < 256 && r.valA < 2 ^ 32 && r.valB < 2 ^ 32 &&
    r.firstCh < 2 ^ 32

/-- A twin frame's header fields fit their widths (R387). -/
def LinkHdr.wf (h : LinkHdr) : Bool := h.ident < 2 && h.lseq < 65536 && h.ack < 65536 && h.sendTime < 2 ^ 64

/-- Lane codes are 12-bit two's complement (R123). -/
def LaneCodes.wf (c : LaneCodes) : Bool := [c.xi, c.xq, c.yi, c.yq].all (fun v => -2048 ≤ v && v ≤ 2047)

/-- Residuals of the four lanes and the synthesiser, each with its slot, 15 for none (R142). -/
def CalResid.wf (c : CalResid) : Bool := c.rx.length == 4 && (c.tx :: c.rx).all (fun r => r.slot < 16)

/-- A reduction's channel, kind and value fit the base record (R229, R230). -/
def Reduction.wf (r : Reduction) : Bool := r.channel < 65536 && r.kind < 12 && r.value < 65536

/-- One sample of each monitor: 8 temperatures, 12 voltages, 4 ring oscillators (R459). -/
def MonSample.wf (m : MonSample) : Bool := m.temps.length == 8 && m.volts.length == 12 && (m.procs.isEmpty || m.procs.length == 4)

/-- Two flash slots of at most 8 MiB each, and training rates of R344 (R475). -/
def BootEnv.wf (e : BootEnv) : Bool :=
  e.flash0.length ≤ 8388608 && e.flash1.length ≤ 8388608 &&
    e.trainRates.all (fun r => r == 4266 || r == 3733 || r == 3200 || r == 2133)

/-- A slice of the array of 128 (R233). -/
def sliceWf (sl : Nat) : Bool := sl < 128

/-- A register's offset in BAR0: a whole word (R31 to R33). -/
def offsetWf (off : Nat) : Bool := off % 4 == 0 && off < 0x40000

/-- Is the command well-formed: every operand in range. -/
def Instr.wf : Instr → Bool
  | .ident _ q | .getParam _ q | .setParam _ q | .commit _ q | .start _ q | .stop _ q | .calRequest _ q | .calStatus _ q
  | .selftest _ q | .captureArm _ q | .captureStatus _ q | .captureRelease _ q | .retrieve _ q | .retrieveCancel _ q
  | .sessionOpen _ q | .sessionClose _ q | .sessionModify _ q | .zoneLoad _ q | .zoneRead _ q | .sliceLoad _ q
  | .sliceStart _ q | .instRead _ q | .instInject _ q | .tiuMeasure _ q | .timeSet _ q | .twinStatus _ q | .twinControl _ q
  | .dispLayer _ q | .dispCheck _ q | .monRead _ q | .perfConfig _ q | .perfRead _ q | .moduleRead _ q | .ilkClear _ q
  | .powerMode _ q | .reset _ q => q.wf
  | .inProdWrite _ m _ | .outConsWrite _ m _ | .flush _ m _ => m < 16
  | .responseRelease _ m => m < 16
  | .registerWrite _ off _ => offsetWf off
  | .registerReadClear _ off => offsetWf off
  | .mgmtDatagram _ dst peer bytes => dst.wf && peer.wf && bytes.length < 65536
  | .mgmtBindRelease _ mb => mb == 16 || mb == 17
  | .spiWriteMessage _ _ => true
  | .spiReadResponse _ _ => true
  | .spiReadStatus _ => true
  | .commitLoadComplete _ | .shotGroupBoundary _ => true
  | .toneLaunch _ slot => slot < 8
  | .launchMonCrossing _ => true
  | .launchWindowEnd _ slot => slot < 8
  | .ramanLaunch _ a b => (a ++ b).all (fun x => -8192 ≤ x && x ≤ 8191)
  | .ramanAccumulationComplete _ => true
  | .ramanRatioDone _ | .runFirstGroup _ | .runProcessingDone _ => true
  | .ilkNFall _ _ => true
  | .emitUpdate _ => true
  | .rampEnd _ ch | .loopClose _ ch => ch < 6
  | .powerLoop _ mpd => mpd.length == 4
  | .powerClamp _ ch | .powerLost _ ch => ch < 4
  | .pumpThRequest _ | .thermistorFault _ | .pumpReturn _ => true
  | .wlLoop _ _ _ => true
  | .wlLock _ => true
  | .moduleRemoved _ pos | .moduleInserted _ pos => pos < 6
  | .moduleRecordRead _ pos _ _ => pos < 6
  | .i2cSclTimeout _ bus => bus < 3
  | .apdBiasUpdate _ | .apdBiasCut _ => true
  | .trackerUpdate _ rx _ found => rx.length == 4 && rx.all (fun p => p.length == 7) && found < 128
  | .pilotLost _ b => b < 7
  | .calTempCheck _ _ => true
  | .calRetry _ => true
  | .calStep _ level => level.length == 4
  | .calRunEnd _ r => r.wf
  | .refdivTimeout _ => true
  | .blotterStep _ _ => true
  | .selftestEnd _ => true
  | .pceBlockProcessed _ slot _ codes => slot < 8 && codes.all LaneCodes.wf
  | .stitchEvaluation _ | .amplitudeProfileComplete _ | .rowWrite _ => true
  | .tileClose _ group => group < 2048
  | .tileRead _ engine => engine < 2
  | .tileDma _ sl => sliceWf sl
  | .bankFadeEnd _ => true
  | .baseRecordsDelivered _ set => set < 2048
  | .outputDmaComplete _ sl => sliceWf sl
  | .classRecordMade _ => true
  | .nop _ sl | .add _ sl | .sub _ sl | .and _ sl | .or _ sl | .xor _ sl | .shl _ sl | .shr _ sl | .sra _ sl | .mul _ sl
  | .addi _ sl | .lui _ sl | .slt _ sl | .ld _ sl | .ldh _ sl | .st _ sl | .sth _ sl | .macn _ sl | .macw _ sl | .accst _ sl
  | .accx _ sl | .acci _ sl | .beq _ sl | .bne _ sl | .blt _ sl | .bge _ sl | .jmp _ sl | .call _ sl | .ret _ sl | .rep _ sl
  | .mfs _ sl | .mts _ sl | .waitt _ sl | .waitc _ sl | .colFree _ sl | .tileDone _ sl | .outPush _ sl | .evt _ sl
  | .cycleLo _ sl | .perfLo _ sl => sliceWf sl
  | .accordUpdate _ | .accordFrameComplete _ => true
  | .holdoffExpired _ zone crit => zone < 4096 && crit < 6
  | .coilRead _ | .coilHoldExpired _ => true
  | .trigEdge t n _ edge frac => n < 4 && edge ≤ t && frac < 65536
  | .starEdge t edge frac => edge ≤ t && frac < 65536
  | .starPulseEnd _ => true
  | .captureWindowEnd _ slot | .captureSeal _ slot => slot < 16
  | .flushTimeExpiry _ => true
  | .flaconJobStart _ engine | .flaconOutputDrain _ engine => engine < 2
  | .flaconCommit _ engine _ => engine < 2
  | .decompressionDone _ engine => engine < 2
  | .eventFrameSend _ session => session < 1024 || session == 0xFFFE
  | .streamFrameSend _ session kind => session < 1024 && 2 ≤ kind && kind ≤ 5
  | .frameTransmit _ path => path < 3 || (16 ≤ path && path < 50)
  | .keepalive _ session | .sessionCloseComplete _ session => session < 1024
  | .retrieveObject _ _ _ => true
  | .retrieveEnd _ _ => true
  | .ringEnable _ ring _ => ring < 34
  | .netLinkChange _ port _ => port < 3
  | .networkRequest _ port kind addr src rct => port < 3 && kind < 4 && addr < 2 ^ 128 && src < 2 ^ 128 &&
      (match rct with | some r => r.1 < 2 ^ 48 && r.2.1 < 65536 && r.2.2 < 16 | none => true)
  | .prpSupervision _ => true
  | .ptpSync _ port _ _ _ => port < 2
  | .ptpHoldover _ => true
  | .memReadComplete _ _ _ _ errs | .memReread _ errs _ | .scrubRead _ errs =>
    errs.all (fun e => e.data < 2 ^ 64 && e.check < 256)
  | .refresh _ sc rank bank _ => sc < 4 && rank < 2 && bank < 8
  | .mr4Poll _ codes => codes.all (· < 5)
  | .dqsTrack _ _ => true
  | .ceHealthHour _ | .agePromotion _ => true
  | .panic _ port level => port < 2 && level ≤ 100
  | .fill _ | .ageingStep _ => true
  | .tiuInputEdge _ source _ => source ≤ 16
  | .tiuArm _ | .tiuMeasurementDone _ | .tiuTimeout _ => true
  | .tiuCodeDensityTest _ _ => true
  | .pairsyncDrive _ | .pairsyncPulse _ | .pairsyncResultDeadline _ => true
  | .heartbeat _ h _ _ _ _ _ => h.wf
  | .confirm _ h recs => h.wf && recs.all EventRec.wf
  | .seqTable _ h firstZone next => h.wf && firstZone + next.length ≤ 4096
  | .digest _ h firstZone entries => h.wf && firstZone + entries.length ≤ 4096
  | .handback _ h zone _ => h.wf && zone < 4096
  | .handbackAck _ h zone => h.wf && zone < 4096
  | .pairsyncFrame _ h _ _ _ => h.wf
  | .rejoinDone _ h => h.wf
  | .heartbeatSend _ | .heartbeatLoss _ | .twinRetx _ | .rejoinTimeout _ | .heldRecordExpiry _ | .confirmKeepExpiry _
  | .promotion _ => true
  | .darkReturn _ zone | .handbackInitiate _ zone => zone < 4096
  | .conversionResult _ code _ => -8388608 ≤ code && code ≤ 8388607
  | .conversionComplete _ => true
  | .inputFault _ kind => kind < 3
  | .fallbackRetry _ input => input < 16
  | .instWindow _ n _ _ | .windowReturn _ n => n < 4
  | .fqoUpdate _ n | .fqoTimeout _ n => n < 4
  | .dispFrameStart _ underruns => underruns.all (·.1 < 6)
  | .dispFrameEnd _ => true
  | .waterfallRow _ output => output < 2
  | .loopLockLoss _ loop | .loopLock _ loop => loop < 5
  | .xaLost _ | .xaReturn _ | .xbLost _ => true
  | .clockSwitchForced _ mux => mux < 4
  | .clockGate _ domain | .clockWake _ domain => domain < 12
  | .drainTimeout _ accesses => accesses.all (fun a => a.1 < 256)
  | .pwrFailQualified _ fallAt rise => match rise with | some r => fallAt ≤ r | none => true
  | .pwrAutoResume _ => true
  | .powerTransitionDone _ _ => true
  | .monitorSample _ m => m.wf
  | .snap _ _ => true
  | .faultConsWrite _ _ => true
  | .powerUp _ env => env.wf
  | .resetN _ _ => true
  | .watchdogExpiry _ | .lockstepMismatch _ | .perstN _ | .configMessage _ | .bootRetry _ => true
  | .xaCheckRetry _ _ => true
  | .warmBootTimeout _ => true
  | .jtagAccess _ ir => ir < 3
  | .resetExecute _ | .pcieEndpointStop _ | .supplyLoss _ | .xbStart _ => true
  | .ptpAnnounce _ port domain _ _ _ _ => port < 2 && domain < 256
  | .ringInterruptHoldoffEnd _ ring => ring < 34
  | .twinFrameCrcError _ | .warmCountExpiry _ => true

end Sys2Proof
end

