-- ==== Sys2Proof/Tests/Slice0.lean ====
section
/-!
SUPPORT. Tests: ill-formed terms that Instr.wf refuses, worked figures of the manual, and for every statement with hypotheses a
state and operands that meet them, clause by clause.
-/
set_option linter.all false
set_option Elab.async false
namespace Sys2Proof.Tests
open Sys2Proof.Machine

/-- Bytes of numbers. -/
def bts (xs : List Nat) : List Byte := xs.map (BitVec.ofNat 8)

/-- A request of this payload on a mailbox, under tag 1. -/
def rq (mb : Nat) (xs : List Nat) : Req := { mb := mb, tag := 1, seq := 1, payload := bts xs, peer := noPeer }

/-- A device in FULL with nothing running and every class and grant given. -/
def on : State :=
  { State.reset with
    ilk := { latched := false }
    prot := { State.reset.prot with classes := List.replicate 19 15, perfUser := true, perfSlice := true, sliceLoadHost := true,
                                    masters := List.replicate 7 0xFFFF,
                                    regions := List.replicate 8 (0, 16383) }
    emit := { State.reset.emit with modules := List.replicate 6 { state := 2, present := true } }
    recv := { State.reset.recv with passed := true }
    clk := { State.reset.clk with mode := 4, locked := [true, true, true, true, true], xa := true, xb := true, pcie := true }
    memc := { fittedMib := 16384, rateMts := 4266, ranks := 2, power := 1 }
    sys := { powered := true, mbReady := true, bootStage := 15 } }


/-- The same with other parameters. -/
def onP (ps : List (Nat × Nat)) : State := { on with running := ps }

def rid : ReqId := { mb := 0, op := 0x0040, tag := 1, seq := 1, peer := noPeer }

def sess : Session :=
  { num := 0, transport := 0, ports := 1, ring := 0, kindMask := 1, firstZone := 0, lastZone := 4095, rate := 0, dest := 0, destPort := 9,
    seq := 0, withheld := 0, tokens := 0, tokensAt := 0, resumed := false, lastFrame := 0, closing := none, chanSet := [], events := [],
    eventsAt := 0, streams := [], objects := [] }

def rjob : RetrJob :=
  { who := rid, tier := 0, target := 1, session := 0, start := 0, stop := 1, firstCh := 0, count := 1, form := 0, objects := 0, bytes := 0,
    gaps := 0, firstT := 0, lastT := 0, pos := none, gapsDone := false, cancelled := false, decomp := none, out := none }

/-- A body with its CRC behind it. -/
def sealed (bs : List Byte) : List Byte := bs ++ leBytes 4 (crc32c bs)

/-- A message of an opcode whose payload is a multiple of 16 bytes. -/
def msg (op : Nat) (xs : List Nat) : List Byte :=
  let h := leBytes 2 op ++ leBytes 2 1 ++ leBytes 4 xs.length ++ leBytes 4 1
  h ++ leBytes 4 (crc32c (h ++ bts xs)) ++ bts xs

def image : List Byte :=
  sealed (leBytes 4 0x504C5345 ++ leBytes 2 1 ++ leBytes 2 2 ++ leBytes 4 4 ++ List.replicate 56 0)

/-- The same with the supplied programs in their slices. -/
def loadedOn : State :=
  { onP [(K.pceBins, 4096), (K.chanChannels, 100), (K.twinHoldMs, 50)] with
    staged := [(K.pceBins, 4096), (K.chanChannels, 100), (K.twinHoldMs, 50)]
    slices := { tab := (List.range 112).map fun i => (i, { status := 2, image := some (suppliedImage (if i < 96 then 0 else 1)) }) } }

/-- A device whose slice 0 is at the word w. -/
def sl1 (w : Word) (f : Slice → Slice) : State :=
  { on with slices := { tab := [(0, f { status := 2, image := some { imageOf image with code := [w, 0, 0, 0] } })] } }

/-- A word of an opcode. -/
def wd (op rest : Nat) : Word := BitVec.ofNat 32 (op * 2 ^ 26 + rest)

def tile0 : Tile :=
  { group := 0, pos := 0, startTick := 0, startTime := 0, firstShot := 0, columns := 8, samples := 8, cons := false, epoch := 0, toneMask := 1,
    skipped := 0, period256 := 256, subst := 0, ovr := 0, slip := 0, predicted := 0, seq := 0, flags := 0, slotOf := [], dropped := false,
    step := 1, lastTick := 0, stopTime := 0, closedAt := 0, read := true, settled := false }

def stile : SliceTile :=
  { tile := tile0, pos := 0, seq := 0, group := 0, set := 0, setIdx := 0, reset := false, hdrSlot := 0, ready := true, colsIn := 4, cols := 8,
    inPos := 0, freed := 0, deadline := 0, startCycle := 0 }

def row0 : Row :=
  { group := 0, slot := 0, shot := 0, instant := 0, samples := [], cons := false, subst := 0, ovr := 0, slips := 0, predicted := 0,
    epoch := 0, ps := [] }

def sjob : ShotJob :=
  { shot := 0, pos := 0, launch := 0, boundary := 0, origin := 0, subst := false, displaced := false, ovr := false, epoch := 0, tileEpoch := 0,
    ps := [], bins := 0, corr := {}, ivl := 0, ivlLast := false }

def calr : CalRun :=
  { reason := 1, scopes := [1], done := 0, waits := 0, attached := [], placed := [], refCode := none, refBad := false, lastStep := none,
    paced := 0, fail := 0, num := 1 }

def late : Tick := secT 100


/-- A zone of one channel, of no rule. -/
def zd : ZoneDesc :=
  { first := 0, last := 9, stitch := 0, owner := 2, enable := 0, severity := 0, bandMask := 0, acAssert := 0, acClear := 0, acLevel := 0,
    acHyst := 0, acMin := 0, holdoff := 0, tAbs := 0, tRise := 0, tHyst := 0, tDiff := 0, tAssert := 0, tClear := 0, tMin := 0, loss := 0 }

/-- Zone 0 defined so, with one criterion. -/
def withZone (c : Crit) (s : State) : State := { s with zones := [(0, { desc := some zd, crits := [c] })] }

/-- An event record. -/
def ev0 : EventRec := { time := 0, seq := 0, zone := 0xFFFF, kind := 0, flags := 0, valA := 0, valB := 0, firstCh := 0 }

/-! A stored flacon whose checks hold: the CRC of 65,536 bytes is too long to evaluate, so it is followed by its laws. -/

theorem crcBits_lt (poly : Nat) (hp : poly < 2 ^ 32) (k c : Nat) (hc : c < 2 ^ 32) : crcBits poly k c < 2 ^ 32 := by
  induction k generalizing c with
  | zero => exact hc
  | succ k ih =>
    unfold crcBits
    split <;> apply ih
    · exact Nat.xor_lt_two_pow (by omega) hp
    · omega

theorem crc_lt (poly : Nat) (hp : poly < 2 ^ 32) (bs : List Byte) (c : Nat) (hc : c < 2 ^ 32) :
    bs.foldl (crcStep poly) c < 2 ^ 32 := by
  induction bs generalizing c with
  | nil => exact hc
  | cons b bs ih =>
    refine ih _ (crcBits_lt poly hp 8 _ (Nat.xor_lt_two_pow hc ?_))
    have := b.isLt
    omega

theorem crc32_lt (bs : List Byte) : crc32 bs < 256 ^ 4 :=
  Nat.xor_lt_two_pow (n := 32) (crc_lt _ (by decide) bs _ (by decide)) (by decide)

theorem crc32c_lt (bs : List Byte) : crc32c bs < 256 ^ 4 :=
  Nat.xor_lt_two_pow (n := 32) (crc_lt _ (by decide) bs _ (by decide)) (by decide)

/-- The 60 checked bytes of a flacon header for a stream of this length and contents of this CRC. -/
def flacHead (len crc : Nat) : List Byte :=
  leBytes 4 0x464C5345 ++ List.replicate 8 0 ++ leBytes 4 len ++ leBytes 4 crc ++ List.replicate 40 0

/-- A flacon of this stream. -/
def flac (crc : Nat) (stream : List Byte) : List Byte :=
  flacHead stream.length crc ++ leBytes 4 (crc32c (flacHead stream.length crc)) ++ List.replicate 320 0 ++ stream

theorem flac_head (crc : Nat) (stream : List Byte) : flaconHead (flac crc stream) = true := by
  have h1 : fld (flac crc stream) 60 4 = crc32c (flacHead stream.length crc) := leNat_leBytes 4 _ (crc32c_lt _)
  have h2 : fld (flac crc stream) 0 4 = 0x464C5345 := leNat_leBytes 4 _ (by decide)
  have h3 : (flac crc stream).take 60 = flacHead stream.length crc := rfl
  simp [flaconHead, h1, h2, h3]

theorem flac_out (crc : Nat) (stream : List Byte) (h : stream.length < 256 ^ 4) :
    flaconOut (flac crc stream) = inflate 65536 stream := by
  have h1 : fld (flac crc stream) 12 4 = stream.length := leNat_leBytes 4 _ h
  have h2 : (flac crc stream).drop 384 = stream := rfl
  simp [flaconOut, h1, h2]

theorem flac_restores (raw : List Byte) (h : raw.length = 65536) :
    flaconOut (flac (crc32 raw) (storedStream raw)) = some raw ∧
      ∃ img, restore (flac (crc32 raw) (storedStream raw)) (some raw) = some img := by
  have h3 : fld (flac (crc32 raw) (storedStream raw)) 5 1 = 0 := rfl
  have h4 : fld (flac (crc32 raw) (storedStream raw)) 16 4 = crc32 raw := leNat_leBytes 4 _ (crc32_lt raw)
  have h5 := flac_head (crc32 raw) (storedStream raw)
  refine ⟨?_, ?_⟩
  · rw [flac_out _ _ (by simp [storedStream, slice, h]), inflate_storedStream raw h]
  · simp [restore, h5, h3, h4, h, bit]

theorem flac_read (s : State) (f : List Byte) (a : Nat) (h : s.sill.dram = Memory.writeBytes [] a f)
    (hp : s.protOk mFlacon a f.length false = true) : (s.masterRead mFlacon a f.length).2 = f := by
  simp only [State.masterRead, hp, if_true, State.dramGet, h]
  exact Memory.readBytes_writeBytes [] a f

/-- A device that restores the flacon f. -/
def restoring (f : List Byte) : State :=
  { on with
    engines := [{ running := some (.restore 0 0 0 1) }]
    sill := { on.sill with
      flacons := [{ segment := 0, offset := 0, len := f.length, group := 0, start := 0, stop := 0, commitTime := 0, seq := 0 }]
      dram := Memory.writeBytes [] (on.flaconAddr 0 0) f } }

/-- What it reads of its flacon. -/
def restoringRead (f : List Byte) : List Byte :=
  let v := ((restoring f).advance 0).engineDone 0
  (v.masterRead mFlacon (v.flaconAddr 0 0) f.length).2

theorem restoring_read (f : List Byte) (n : Nat) (hl : f.length = n)
    (hp : on.protOk mFlacon (on.flaconAddr 0 0) n false = true) : restoringRead f = f :=
  flac_read _ f _ rfl (hl ▸ hp)

theorem flac_length (crc : Nat) (stream : List Byte) : (flac crc stream).length = 384 + stream.length := by
  have h : (flacHead stream.length crc).length = 60 := by
    simp only [flacHead, List.length_append, leBytes_length, List.length_replicate]
  simp only [flac, List.length_append, h, leBytes_length, List.length_replicate]

/-- A stream of 65,537 bytes in two stored blocks that are not its last. -/
def longStream (b c : List Byte) : List Byte := storedBlock 0 b ++ (storedBlock 0 c ++ [])

theorem portAddrs_one (s : State) (p : Nat) (h : s.portV6 p ≠ 1) : (s.portAddrs p).contains 1 = false := by
  have h1 : mapped4 (s.portV4 p) ≠ 1 := by unfold mapped4; omega
  have h2 : s.portLocal p ≠ 1 := by
    unfold State.portLocal
    intro h
    have := Nat.le_trans (Nat.le_add_right _ _) (Nat.le_trans (Nat.le_add_right _ _) (Nat.le_trans (Nat.le_add_right _ _) (Nat.le_of_eq h)))
    exact absurd this (by decide)
  simp [State.portAddrs, Ne.symm h, Ne.symm h1, Ne.symm h2]

/-- An interval measurement of source 3 against source 4. -/
def tj : TiuJob :=
  { who := rid, startIn := 3, stopIn := 4, mode := 0, arm := 3, preStart := 0, preStop := 0, gate := 0, n := 1, used := [], excluded := 0,
    armed := none, armFrom := 0, cntStart := 0, cntStop := 0, first := none, second := none, inclFlagged := false, edges := 0, timeoutMs := 10,
    stopDelay := 0 }

/-! Ill-formed terms: one for each check of Instr.wf. -/

def badReq : Req := rq 20 []
def badHdr : LinkHdr := { ident := 2, resync := false, lseq := 0, ack := 0, sendTime := 0 }
def okHdr : LinkHdr := { badHdr with ident := 1 }
def noRes : Resid := { gain := 0, ripple := 0, phase := 0, skew := 0, image := 0, slot := 0 }
def noResid : CalResid := { rx := List.replicate 4 noRes, tx := noRes }

theorem test_requests_ill_formed :
    [badReq, { rq 0 [] with tag := 65536 }, { rq 0 [] with seq := 2 ^ 32 }, { rq 0 [] with payload := List.replicate 4097 0 },
      { rq 0 [] with peer := { addr := 2 ^ 128, port := 0 } }, { rq 0 [] with peer := { addr := 0, port := 65536 } }].all
        (fun q => !(Instr.ident 0 q).wf) = true := by decide +kernel

theorem test_registers_ill_formed :
    [Instr.inProdWrite 0 16 0, .outConsWrite 0 16 0, .flush 0 16 0, .responseRelease 0 16, .registerWrite 0 2 0, .registerReadClear 0 0x40000,
      .mgmtDatagram 0 { addr := 2 ^ 128, port := 0 } noPeer [], .mgmtDatagram 0 noPeer { addr := 0, port := 65536 } [],
      .mgmtBindRelease 0 18].all (fun i => !i.wf) = true := by decide +kernel

theorem test_emission_ill_formed :
    [Instr.toneLaunch 0 8, .launchWindowEnd 0 8, .ramanLaunch 0 [8192] [], .ramanLaunch 0 [] [-8193], .rampEnd 0 6, .loopClose 0 6,
      .powerLoop 0 [1, 2, 3], .powerClamp 0 4, .powerLost 0 4, .moduleRemoved 0 6, .moduleInserted 0 6, .moduleRecordRead 0 6 none none,
      .i2cSclTimeout 0 3].all (fun i => !i.wf) = true := by decide +kernel

theorem test_reception_ill_formed :
    [Instr.trackerUpdate 0 [] (0, 0) 0, .trackerUpdate 0 [[], [], [], []] (0, 0) 0,
      .trackerUpdate 0 (List.replicate 4 (List.replicate 7 (0, 0))) (0, 0) 128, .pilotLost 0 7, .calStep 0 [0, 0, 0],
      .calRunEnd 0 { noResid with tx := { noRes with slot := 16 } }, .calRunEnd 0 { noResid with rx := [noRes] },
      .pceBlockProcessed 0 8 0 [], .pceBlockProcessed 0 0 0 [{ xi := 2048, xq := 0, yi := 0, yq := 0 }],
      .pceBlockProcessed 0 0 0 [{ xi := 0, xq := 0, yi := 0, yq := -2049 }]].all (fun i => !i.wf) = true := by decide +kernel

theorem test_array_ill_formed :
    [Instr.tileClose 0 2048, .tileRead 0 2, .tileDma 0 128, .baseRecordsDelivered 0 2048, .outputDmaComplete 0 128, .nop 0 128].all
        (fun i => !i.wf) = true := by decide +kernel

theorem test_zones_ill_formed :
    [Instr.holdoffExpired 0 4096 0, .holdoffExpired 0 0 6, .trigEdge 0 4 true 0 0, .trigEdge 0 0 true 1 0, .trigEdge 0 0 true 0 65536,
      .starEdge 0 1 0, .starEdge 0 0 65536, .captureWindowEnd 0 16, .captureSeal 0 16, .flaconJobStart 0 2, .flaconOutputDrain 0 2,
      .flaconCommit 0 2 [], .decompressionDone 0 2].all (fun i => !i.wf) = true := by decide +kernel

theorem test_output_ill_formed :
    [Instr.eventFrameSend 0 1024, .streamFrameSend 0 1024 2, .streamFrameSend 0 0 1, .streamFrameSend 0 0 6, .frameTransmit 0 3,
      .frameTransmit 0 50, .keepalive 0 1024, .sessionCloseComplete 0 1024, .ringEnable 0 34 0, .netLinkChange 0 3 true,
      .networkRequest 0 3 0 0 0 none, .networkRequest 0 0 4 0 0 none, .networkRequest 0 0 0 (2 ^ 128) 0 none,
      .networkRequest 0 0 0 0 (2 ^ 128) none, .networkRequest 0 0 0 0 0 (some (2 ^ 48, 0, 0)),
      .networkRequest 0 0 0 0 0 (some (0, 65536, 0)), .networkRequest 0 0 0 0 0 (some (0, 0, 16)),
      .ringInterruptHoldoffEnd 0 34].all (fun i => !i.wf) = true := by decide +kernel

theorem test_memory_ill_formed :
    [Instr.mr4Poll 0 [5], .panic 0 2 0, .panic 0 0 101, .tiuInputEdge 0 17 true, .refresh 0 4 0 0 true, .refresh 0 0 2 0 true,
      .refresh 0 0 0 8 true, .memReadComplete 0 0 0 8 [{ word := 0, data := 2 ^ 64, check := 0 }],
      .memReread 0 [{ word := 0, data := 0, check := 256 }] false, .scrubRead 0 [{ word := 0, data := 0, check := 256 }]].all
        (fun i => !i.wf) = true := by decide +kernel

theorem test_twin_ill_formed :
    [Instr.heartbeat 0 badHdr false 0 0 0 [], .heartbeat 0 { okHdr with lseq := 65536 } false 0 0 0 [],
      .heartbeat 0 { okHdr with ack := 65536 } false 0 0 0 [], .heartbeat 0 { okHdr with sendTime := 2 ^ 64 } false 0 0 0 [],
      .confirm 0 okHdr [{ ev0 with kind := 256 }], .confirm 0 okHdr [{ ev0 with zone := 65536 }], .confirm 0 okHdr [{ ev0 with time := 2 ^ 64 }],
      .confirm 0 okHdr [{ ev0 with seq := 2 ^ 32 }], .confirm 0 okHdr [{ ev0 with flags := 256 }], .confirm 0 okHdr [{ ev0 with valA := 2 ^ 32 }],
      .confirm 0 okHdr [{ ev0 with valB := 2 ^ 32 }], .confirm 0 okHdr [{ ev0 with firstCh := 2 ^ 32 }],
      .seqTable 0 okHdr 4096 [0], .digest 0 okHdr 4096 [0], .handback 0 okHdr 4096 0, .handbackAck 0 okHdr 4096, .darkReturn 0 4096,
      .handbackInitiate 0 4096].all (fun i => !i.wf) = true := by decide +kernel

theorem test_supervision_ill_formed :
    [Instr.conversionResult 0 8388608 false, .conversionResult 0 (-8388609) false, .inputFault 0 3, .fallbackRetry 0 16,
      .instWindow 0 4 true 0, .windowReturn 0 4, .fqoUpdate 0 4, .fqoTimeout 0 4, .dispFrameStart 0 [(6, 0)], .waterfallRow 0 2,
      .loopLockLoss 0 5, .loopLock 0 5, .clockSwitchForced 0 4, .clockGate 0 12, .clockWake 0 12, .pwrFailQualified 0 5 (some 4),
      .jtagAccess 0 3, .ptpAnnounce 0 2 0 false 0 0 0, .ptpAnnounce 0 0 256 false 0 0 0, .ptpSync 0 2 0 0 0,
      .drainTimeout 0 [(256, 0)]].all (fun i => !i.wf) = true := by decide +kernel

theorem test_samples_ill_formed :
    [Instr.monitorSample 0 { temps := [], volts := List.replicate 12 0, procs := List.replicate 4 0 },
      .monitorSample 0 { temps := List.replicate 8 0, volts := [], procs := List.replicate 4 0 },
      .monitorSample 0 { temps := List.replicate 8 0, volts := List.replicate 12 0, procs := [0] },
      .powerUp 0 { flash0 := [], flash1 := [], xaRuns := true, loopsLock := true, mr8Ok := true, trainRates := [4267], bandImageOk := true,
                   shiftImageOk := true }].all (fun i => !i.wf) = true := by decide +kernel

/-- A larger flash slot than R475's 8 MiB is ill-formed. -/
theorem test_flash_ill_formed (f : List Byte) (h : 8388608 < f.length) (e : BootEnv) :
    (Instr.powerUp 0 { e with flash0 := f }).wf = false ∧ (Instr.powerUp 0 { e with flash1 := f }).wf = false := by
  have h' : decide (f.length ≤ 8388608) = false := decide_eq_false (by omega)
  constructor <;> simp [Instr.wf, BootEnv.wf, h']

/-! Worked figures of the manual: the Marrow Sound configuration (chapters 03, 07, 10, 15). -/

/-- The running set of the Marrow Sound schedule. -/
def marrow : List (Nat × Nat) :=
  [(K.synthToneMask, 0xFF), (K.synthShotPeriodNs, 430000), (K.synthPulseNs, 2000), (K.pceBins, 86660), (K.chanDecimation, 2),
   (K.chanChannels, 43330), (K.stitchTrackTauMs, 2000)]

/-- L = 9,830 samples; SYNTH.PULSE_ACTUAL_PS reads 1,999,919 (chapter 03). -/
theorem test_pulse : PS.pulseSamples marrow = 9830 ∧ PS.pulsePs marrow = 1999919 := by decide +kernel

/-- SYNTH.DRYDOWN_NS reads 6,855 (chapter 03). -/
theorem test_drydown : PS.drydownNs marrow = 6855 := by decide +kernel

/-- The eighth position launches at 376.25 µs (chapter 03). -/
theorem test_launch : PS.launchOff marrow 7 = nsT 376250 := by decide +kernel

/-- alpha24 is 3,607 (chapter 07). -/
theorem test_alpha : PS.alpha24 marrow = 3607 := by decide +kernel

/-- 86,660 bins are 1,355 column groups (chapter 10), and group 1,354 gives the channels of its four bins (chapter 09). -/
theorem test_groups : PS.groups marrow = 1355 ∧ PS.groupChans marrow 1354 = [43328, 43329] := by decide +kernel

/-- Zone 417, channels 20,850 to 20,899, is made from bins 41,700 to 41,799 in column groups 651 to 653 (chapter 07). -/
theorem test_zone_bins : PS.zoneBins marrow { zd with first := 20850, last := 20899 } = (41700, 41799) ∧
    PS.zoneGroups marrow { zd with first := 20850, last := 20899 } = [651, 652, 653] := by decide +kernel

/-- The check value of CRC-32C over the digits 1 to 9 is 0xE3069283 (R42), and of CRC-32 0xCBF43926 (R437). -/
theorem test_crc : crc32c (bts [0x31, 0x32, 0x33, 0x34, 0x35, 0x36, 0x37, 0x38, 0x39]) = 0xE3069283 ∧
    crc32 (bts [0x31, 0x32, 0x33, 0x34, 0x35, 0x36, 0x37, 0x38, 0x39]) = 0xCBF43926 := by decide +kernel

/-- At 68.5 °C over a knee of 65.0 °C the pump's code of 47,185 is capped at 43,882 (chapter 04). -/
theorem test_derating :
    State.derated { onP [(K.emitKneeC, 650000), (K.emitDeratePctPerK, 200)] with
      emit := { on.emit with modules := [], pumpTemp := some 685000 } } 47185 = 43882 := by decide +kernel

/-- ADD wraps at 32 bits (R234). -/
theorem test_add_wraps :
    ∃ u, exec (.add 0 0) (sl1 (wd 1 (3 * 2 ^ 22 + 2 ^ 18 + 2 * 2 ^ 14)) fun x => { x with regs := [0, 0xFFFFFFFF, 2] }) = .next u ∧
      (u.slc 0).g 3 = 1 := ⟨_, rfl, by decide +kernel⟩

/-- A write of register 0 is discarded (R233). -/
theorem test_r0_reads_zero : ∃ u, exec (.lui 0 0) (sl1 (wd 11 5) id) = .next u ∧ (u.slc 0).g 0 = 0 :=
  ⟨_, rfl, by decide +kernel⟩

/-! A witness for the hypotheses of every statement, clause by clause. -/

theorem witness_IdentAndGetParamComplete :
    (let s : State := on; let t : Tick := 0; let q : Req := rq 0 []; s.Admits q cObserve true ∧ payLen q = 0 ∧ q.mb ≠ 19) ∧
    (let s : State := on; let t : Tick := 0; let q : Req := rq 0 [1, 0, 0, 0, 0, 8]; let n : Nat := 1;
      let out : List Byte := match (on.opened 0 (rq 0 [1, 0, 0, 0, 0, 8])).getKeys 0 [0x0800] 0 [] with | .ok o => o | .error _ => [];
      let w := s.opened t q; let keys := (List.range n).map (fun i => payU q (4 + 2 * i) 2); s.Admits q cObserve true ∧ 1 ≤ n ∧ n ≤ 256 ∧
      payU q 0 2 = n ∧ payU q 2 2 ≤ 1 ∧ payLen q = 4 + 2 * n ∧ w.getKeys (payU q 2 2) keys 0 [] = .ok out) := by
  refine ⟨?_, ?_⟩
  · exact by (try dsimp only); (try delta State.Admits State.Hears State.InOrder); decide +kernel
  · exact by (try dsimp only); (try delta State.Admits State.Hears State.InOrder); decide +kernel

theorem witness_SetParamAndCommitComplete :
    (let s : State := on; let t : Tick := 0; let q : Req := rq 0 [1, 0, 0, 0, 0, 8, 4, 0, 100, 0, 0, 0];
      let es : List (Nat × List Byte) := [(0x0800, bts [100, 0, 0, 0])]; let w := s.opened t q;
      let z := match (on.opened 0 (rq 0 [1, 0, 0, 0, 0, 8, 4, 0, 100, 0, 0, 0])).trySet [(0x0800, bts [100, 0, 0, 0])] 0 with | .ok z => z | .error _ => on;
      s.Admits q cConfigure true ∧ 4 ≤ payLen q ∧ 1 ≤ payU q 0 2 ∧ payU q 0 2 ≤ 256 ∧ payU q 2 2 = 0 ∧
      parseEntries (payU q 0 2) (q.payload.drop 4) = some es ∧ w.trySet es 0 = .ok z) ∧
    (let s : State := on; let t : Tick := 0; let q : Req := rq 0 [1, 0, 0, 0, 255, 255, 4, 0, 1, 0, 0, 0];
      let es : List (Nat × List Byte) := [(0xFFFF, bts [1, 0, 0, 0])]; let w := s.opened t q;
      let st := match (on.opened 0 (rq 0 [1, 0, 0, 0, 255, 255, 4, 0, 1, 0, 0, 0])).trySet [(0xFFFF, bts [1, 0, 0, 0])] 0 with | .ok _ => .ok | .error e => e.1;
      let i := 0; s.Admits q cConfigure true ∧ 4 ≤ payLen q ∧ 1 ≤ payU q 0 2 ∧ payU q 0 2 ≤ 256 ∧ payU q 2 2 = 0 ∧
      parseEntries (payU q 0 2) (q.payload.drop 4) = some es ∧ w.trySet es 0 = .error (st, i)) ∧
    (let s : State := loadedOn; let t : Tick := 0; let q : Req := rq 0 [0, 0, 0, 0]; let w := s.opened t q; s.Admits q cConfigure true ∧
      payLen q = 4 ∧ s.commits.length < 2 ∧ w.commitState w.commitBase (mergeSet s.running s.staged) = false ∧
      w.commitRange w.commitBase (mergeSet s.running s.staged) = [] ∧ payU q 0 4 = 0) ∧
    (let s : State := loadedOn; let t : Tick := 0; let q : Req := rq 0 [1, 0, 0, 0]; let w := s.opened t q; s.Admits q cConfigure true ∧
      payLen q = 4 ∧ s.commits.length < 2 ∧ w.commitState w.commitBase (mergeSet s.running s.staged) = false ∧
      w.commitRange w.commitBase (mergeSet s.running s.staged) = [] ∧ payU q 0 4 = 1) := by
  refine ⟨?_, ?_, ?_, ?_⟩
  · exact by (try dsimp only); (try delta State.Admits State.Hears State.InOrder); decide +kernel
  · exact by (try dsimp only); (try delta State.Admits State.Hears State.InOrder); decide +kernel
  · exact by (try dsimp only); (try delta State.Admits State.Hears State.InOrder); decide +kernel
  · exact by (try dsimp only); (try delta State.Admits State.Hears State.InOrder); decide +kernel

theorem witness_RunRequestsComplete :
    (let s : State := onP [(K.calAuto, 0)]; let t : Tick := 0; let q : Req := rq 0 [0, 0, 0, 0]; let w := s.opened t q;
      s.Admits q cOperate true ∧ q.mb ≠ 19 ∧ payLen q = 4 ∧ payU q 0 4 = 0 ∧ w.startState = false) ∧
    (let s : State := { on with run := { on.run with state := 0 } }; let t : Tick := 0; let q : Req := rq 0 [0, 0, 0, 0];
      let id := reqId q 0x0011; let v := (s.opened t q).takes id; s.Admits q cOperate true ∧ q.mb ≠ 19 ∧ payLen q = 4 ∧ payU q 0 1 ≤ 1 ∧
      payU q 1 3 = 0 ∧ v.run.state = 0) ∧
    (let s : State := { on with run := { on.run with state := 3 } }; let t : Tick := 0; let q : Req := rq 0 [0, 0, 0, 0];
      let id := reqId q 0x0011; let v := (s.opened t q).takes id; s.Admits q cOperate true ∧ q.mb ≠ 19 ∧ payLen q = 4 ∧ payU q 0 1 ≤ 1 ∧
      payU q 1 3 = 0 ∧ v.run.state = 3) ∧
    (let s : State := { on with run := { on.run with state := 2 } }; let t : Tick := 0; let q : Req := rq 0 [0, 0, 0, 0];
      let id := reqId q 0x0011; let v := (s.opened t q).takes id; s.Admits q cOperate true ∧ q.mb ≠ 19 ∧ payLen q = 4 ∧ payU q 0 1 ≤ 1 ∧
      payU q 1 3 = 0 ∧ v.run.state = 2) ∧
    (let s : State := { on with run := { on.run with state := 1 } }; let t : Tick := 0; let q : Req := rq 0 [0, 0, 0, 0];
      let id := reqId q 0x0011; let v := (s.opened t q).takes id; s.Admits q cOperate true ∧ q.mb ≠ 19 ∧ payLen q = 4 ∧ payU q 0 1 ≤ 1 ∧
      payU q 1 3 = 0 ∧ v.run.state = 1) ∧
    (let s : State := on; let t : Tick := 0; let q : Req := rq 0 []; s.Admits q cOperate true ∧ q.mb ≠ 19 ∧ payLen q = 0 ∧
      s.ilk.latched = false) ∧
    (let s : State := { on with ilk := {} }; let t : Tick := 0; let q : Req := rq 0 []; let h := 0; s.Admits q cOperate true ∧ q.mb ≠ 19 ∧
      payLen q = 0 ∧ s.ilk.latched = true ∧ s.ilk.highAt = some h ∧ h ≤ max s.now t) ∧
    (let s : State := { on with ilk := { highAt := some 9 } }; let t : Tick := 0; let q : Req := rq 0 []; let h := 9;
      s.Admits q cOperate true ∧ q.mb ≠ 19 ∧ payLen q = 0 ∧ s.ilk.latched = true ∧ s.ilk.highAt = some h ∧ max s.now t < h) ∧
    (let s : State := { on with ilk := { highAt := none } }; let t : Tick := 0; let q : Req := rq 0 []; s.Admits q cOperate true ∧
      q.mb ≠ 19 ∧ payLen q = 0 ∧ s.ilk.latched = true ∧ s.ilk.highAt = none) := by
  refine ⟨?_, ?_, ?_, ?_, ?_, ?_, ?_, ?_, ?_⟩
  · exact by (try dsimp only); (try delta State.Admits State.Hears State.InOrder); decide +kernel
  · exact by (try dsimp only); (try delta State.Admits State.Hears State.InOrder); decide +kernel
  · exact by (try dsimp only); (try delta State.Admits State.Hears State.InOrder); decide +kernel
  · exact by (try dsimp only); (try delta State.Admits State.Hears State.InOrder); decide +kernel
  · exact by (try dsimp only); (try delta State.Admits State.Hears State.InOrder); decide +kernel
  · exact by (try dsimp only); (try delta State.Admits State.Hears State.InOrder); decide +kernel
  · exact by (try dsimp only); (try delta State.Admits State.Hears State.InOrder); decide +kernel
  · exact by (try dsimp only); (try delta State.Admits State.Hears State.InOrder); decide +kernel
  · exact by (try dsimp only); (try delta State.Admits State.Hears State.InOrder); decide +kernel

theorem witness_PowerModeAndResetComplete :
    (let s : State := on; let t : Tick := 0; let q : Req := rq 0 [4, 0, 0, 0]; let w := s.opened t q; s.Admits q cOperate true ∧ q.mb ≠ 19 ∧
      payLen q = 4 ∧ 1 ≤ payU q 0 1 ∧ payU q 0 1 ≤ 4 ∧ payU q 1 3 = 0 ∧ s.clk.trans = none ∧ (payU q 0 1 < 3 ∨ w.clk.trip = false ∧
      w.pwrIsLow = false) ∧ payU q 0 1 = w.clk.mode) ∧
    (let s : State := on; let t : Tick := 0; let q : Req := rq 0 [3, 0, 0, 0]; let w := s.opened t q; s.Admits q cOperate true ∧ q.mb ≠ 19 ∧
      payLen q = 4 ∧ 1 ≤ payU q 0 1 ∧ payU q 0 1 ≤ 4 ∧ payU q 1 3 = 0 ∧ s.clk.trans = none ∧ (payU q 0 1 < 3 ∨ w.clk.trip = false ∧
      w.pwrIsLow = false) ∧ payU q 0 1 ≠ w.clk.mode) ∧
    (let s : State := on; let t : Tick := 0; let q : Req := rq 0 [1, 0, 0, 0]; s.Admits q cMaintain true ∧ q.mb ≠ 19 ∧ payLen q = 4 ∧
      payU q 0 1 ≤ 1 ∧ payU q 1 3 = 0) := by
  refine ⟨?_, ?_, ?_⟩
  · exact by (try dsimp only); (try delta State.Admits State.Hears State.InOrder); decide +kernel
  · exact by (try dsimp only); (try delta State.Admits State.Hears State.InOrder); decide +kernel
  · exact by (try dsimp only); (try delta State.Admits State.Hears State.InOrder); decide +kernel

theorem witness_CalibrationRequestsComplete :
    (let s : State := on; let t : Tick := 0; let q : Req := rq 0 [0, 0, 0, 0]; let w := s.opened t q; let v := w.takes (reqId q 0x0020);
      s.Admits q cOperate true ∧ payLen q = 4 ∧ payU q 0 1 ≤ 2 ∧ payU q 1 3 = 0 ∧ w.calAllowed = true ∧ w.bench = false ∧
      v.recv.cal = none) ∧
    (let s : State := { on with recv := { on.recv with cal := some calr } }; let t : Tick := 0; let q : Req := rq 0 [0, 0, 0, 0];
      let w := s.opened t q; let v := w.takes (reqId q 0x0020); let c := calr; s.Admits q cOperate true ∧ payLen q = 4 ∧ payU q 0 1 ≤ 2 ∧
      payU q 1 3 = 0 ∧ w.calAllowed = true ∧ w.bench = false ∧ v.recv.cal = some c) ∧
    (let s : State := on; let t : Tick := 0; let q : Req := rq 0 []; s.Admits q cObserve true ∧ payLen q = 0 ∧ s.recv.cal = none) ∧
    (let s : State := { on with recv := { on.recv with cal := some calr } }; let t : Tick := 0; let q : Req := rq 0 []; let c := calr;
      s.Admits q cObserve true ∧ payLen q = 0 ∧ s.recv.cal = some c) ∧
    (let s : State := on; let t : Tick := 0; let q : Req := rq 0 [1, 0, 0, 0];
      s.Admits q cOperate (payU q 0 1 != 1 || s.holds q.mb cMaintain) ∧ payLen q = 4 ∧ payU q 0 1 ≤ 1 ∧ payU q 1 3 = 0 ∧ 3 ≤ s.clk.mode ∧
      s.recv.selftest = none ∧ (payU q 0 1 = 1 → s.run.state = 0 ∧ s.recv.cal = none)) := by
  refine ⟨?_, ?_, ?_, ?_, ?_⟩
  · exact by (try dsimp only); (try delta State.Admits State.Hears State.InOrder); decide +kernel
  · exact by (try dsimp only); (try delta State.Admits State.Hears State.InOrder); decide +kernel
  · exact by (try dsimp only); (try delta State.Admits State.Hears State.InOrder); decide +kernel
  · exact by (try dsimp only); (try delta State.Admits State.Hears State.InOrder); decide +kernel
  · exact by (try dsimp only); (try delta State.Admits State.Hears State.InOrder); decide +kernel

theorem witness_CaptureRequestsComplete :
    (let s : State := on; let t : Tick := 0;
      let q : Req := rq 0 [0, 1, 255, 255, 0, 0, 0, 0, 100, 0, 0, 0, 1, 0, 0, 0, 0, 0, 0, 0, 1, 0, 0, 0];
      let r : Status × Nat := (on.opened 0 (rq 0 [0, 1, 255, 255, 0, 0, 0, 0, 100, 0, 0, 0, 1, 0, 0, 0, 0, 0, 0, 0, 1, 0, 0, 0])).armCheck 0 0 100 1 0 1;
      let w := s.opened t q; s.Admits q cOperate true ∧ payLen q = 24 ∧ payU q 0 1 ≤ 15 ∧ 1 ≤ payU q 1 1 ∧ payU q 1 1 < 128 ∧
      (payU q 2 2 ≤ 4095 ∨ payU q 2 2 = 0xFFFF) ∧ 1 ≤ payU q 12 4 ∧ payU q 12 4 ≤ 7 ∧ 1 ≤ payU q 4 4 + payU q 8 4 ∧ payU q 4 4 ≤ 86400000 ∧
      payU q 8 4 ≤ 86400000 ∧ w.armCheck (payU q 0 1) (payU q 4 4) (payU q 8 4) (payU q 12 4) (payU q 16 4) (payU q 20 4) = r ∧ r.1 = .ok) ∧
    (let s : State := on; let t : Tick := 0;
      let q : Req := rq 0 [0, 1, 255, 255, 0, 0, 0, 0, 100, 0, 0, 0, 1, 0, 0, 0, 255, 255, 255, 255, 1, 0, 0, 0];
      let r : Status × Nat := (on.opened 0 (rq 0 [0, 1, 255, 255, 0, 0, 0, 0, 100, 0, 0, 0, 1, 0, 0, 0, 255, 255, 255, 255, 1, 0, 0, 0])).armCheck 0 0 100 1 0xFFFFFFFF 1;
      let w := s.opened t q; s.Admits q cOperate true ∧ payLen q = 24 ∧ payU q 0 1 ≤ 15 ∧ 1 ≤ payU q 1 1 ∧ payU q 1 1 < 128 ∧
      (payU q 2 2 ≤ 4095 ∨ payU q 2 2 = 0xFFFF) ∧ 1 ≤ payU q 12 4 ∧ payU q 12 4 ≤ 7 ∧ 1 ≤ payU q 4 4 + payU q 8 4 ∧ payU q 4 4 ≤ 86400000 ∧
      payU q 8 4 ≤ 86400000 ∧ w.armCheck (payU q 0 1) (payU q 4 4) (payU q 8 4) (payU q 12 4) (payU q 16 4) (payU q 20 4) = r ∧ r.1 ≠ .ok) ∧
    (let s : State := on; let t : Tick := 0; let q : Req := rq 0 [15, 0, 0, 0]; s.Admits q cObserve true ∧ payLen q = 4 ∧ payU q 0 1 ≤ 15 ∧
      payU q 1 3 = 0) ∧
    (let s : State := on; let t : Tick := 0; let q : Req := rq 0 [0, 0, 0, 0]; s.Admits q cOperate true ∧ payLen q = 4 ∧ payU q 0 1 ≤ 15 ∧
      payU q 1 3 = 0) := by
  refine ⟨?_, ?_, ?_, ?_⟩
  · exact by (try dsimp only); (try delta State.Admits State.Hears State.InOrder); decide +kernel
  · exact by (try dsimp only); (try delta State.Admits State.Hears State.InOrder); decide +kernel
  · exact by (try dsimp only); (try delta State.Admits State.Hears State.InOrder); decide +kernel
  · exact by (try dsimp only); (try delta State.Admits State.Hears State.InOrder); decide +kernel

theorem witness_RetrievalRequestsComplete :
    (let s : State := { on with atom := { on.atom with sessions := [sess] } }; let t : Tick := 0;
      let q : Req := rq 0 [0, 1, 0, 0, 0, 0, 0, 0, 0, 0, 0, 0, 9, 0, 0, 0, 0, 0, 0, 0, 0, 0, 0, 0, 1, 0, 0, 0, 0, 0, 0, 0];
      s.Admits q cObserve true ∧ payLen q = 32 ∧ payU q 0 1 ≤ 2 ∧ payU q 1 1 ≤ 1 ∧ payU q 28 1 ≤ 1 ∧ (payU q 28 1 = 1 → payU q 0 1 = 0) ∧
      payU q 29 3 = 0 ∧ payU q 4 8 < payU q 12 8 ∧ payU q 20 4 + payU q 24 4 ≤ s.p K.chanChannels ∧
      (payU q 1 1 = 1 → ∃ x ∈ s.session (payU q 2 2), x.closing = none) ∧ (payU q 1 1 = 0 → (s.ring 33).enable = true ∧ 3 ≤ s.clk.mode) ∧
      (payU q 0 1 ≤ 1 → s.clk.mode ≠ 2) ∧ s.atom.jobs.length < 256) ∧
    (let s : State := { on with atom := { on.atom with jobs := [rjob] } }; let t : Tick := 0; let q : Req := rq 0 [1, 0, 0, 0];
      let mine := fun (j : RetrJob) => j.who.mb == q.mb && j.who.tag == payU q 0 2; s.Admits q cObserve true ∧ payLen q = 4 ∧
      payU q 2 2 = 0 ∧ (∃ j ∈ s.atom.jobs, mine j = true ∧ j.cancelled = false)) ∧
    (let s : State := { on with atom := { on.atom with jobs := [{ rjob with cancelled := true }] } }; let t : Tick := 0;
      let q : Req := rq 0 [1, 0, 0, 0]; let mine := fun (j : RetrJob) => j.who.mb == q.mb && j.who.tag == payU q 0 2;
      s.Admits q cObserve true ∧ payLen q = 4 ∧ payU q 2 2 = 0 ∧ (∀ j ∈ s.atom.jobs, mine j = true → j.cancelled = true)) := by
  refine ⟨?_, ?_, ?_⟩
  · exact by (try dsimp only); (try delta State.Admits State.Hears State.InOrder); decide +kernel
  · exact by (try dsimp only); (try delta State.Admits State.Hears State.InOrder); decide +kernel
  · exact by (try dsimp only); (try delta State.Admits State.Hears State.InOrder); decide +kernel

theorem witness_SessionRequestsComplete :
    (let s : State := on; let t : Tick := 0;
      let q : Req := rq 0 [1, 1, 0, 0, 1, 0, 0, 0, 0, 0, 255, 15, 0, 0, 0, 0, 255, 2, 0, 0, 0, 0, 0, 0, 0, 0, 0, 0, 0, 0, 0, 1, 9, 0, 0, 0];
      let n : Nat := 0; let w := s.opened t q; let x0 := w.sessionOf q.payload n; let x := { x0 with tokens := (w.bucketDepth x0 : Int) };
      s.Admits q cOperate true ∧ payLen q = 36 ∧ sessionRange q.payload = false ∧ w.sessionState q.payload = false ∧
      (List.range 1024).find? (fun k => (w.session k).isNone) = some n ∧
      w.topRaised w.running w.running (w.topSum w.running) (w.topSum w.running + PS.topRate w.running x) = false) ∧
    (let s : State := { on with atom := { on.atom with sessions := [sess] } }; let t : Tick := 0; let q : Req := rq 0 [0, 0, 0, 0];
      let x : Session := sess; s.Admits q cOperate true ∧ payLen q = 4 ∧ payU q 0 2 ≤ 1023 ∧ payU q 2 2 = 0 ∧
      s.session (payU q 0 2) = some x ∧ x.closing = none) ∧
    (let s : State := { on with atom := { on.atom with sessions := [sess] } }; let t : Tick := 0;
      let q : Req := rq 0 [0, 0, 0, 0, 1, 1, 0, 0, 1, 0, 0, 0, 0, 0, 255, 15, 0, 0, 0, 0, 255, 2, 0, 0, 0, 0, 0, 0, 0, 0, 0, 0, 0, 0, 0, 1, 9, 0, 0, 0];
      let x : Session := sess; let w := s.opened t q; let y := w.sessionOf (q.payload.drop 4) (payU q 0 2);
      let v := w.modSession (payU q 0 2) fun z => let z := w.refill z;
      { z with transport := y.transport, ports := y.ports, ring := y.ring, kindMask := y.kindMask, firstZone := y.firstZone, lastZone := y.lastZone, rate := y.rate, dest := y.dest, destPort := y.destPort, chanSet := y.chanSet };
      s.Admits q cOperate true ∧ payLen q = 40 ∧ payU q 0 2 ≤ 1023 ∧ payU q 2 2 = 0 ∧ sessionRange (q.payload.drop 4) = false ∧
      s.session (payU q 0 2) = some x ∧ x.closing = none ∧ w.sessionState (q.payload.drop 4) = false ∧
      w.topRaised w.running w.running (w.topSum w.running) (v.topSum v.running) = false) := by
  refine ⟨?_, ?_, ?_⟩
  · exact by (try dsimp only); (try delta State.Admits State.Hears State.InOrder); decide +kernel
  · exact by (try dsimp only); (try delta State.Admits State.Hears State.InOrder); decide +kernel
  · exact by (try dsimp only); (try delta State.Admits State.Hears State.InOrder); decide +kernel

theorem witness_ZoneRequestsComplete :
    (let s : State := on; let t : Tick := 0; let q : Req := rq 0 ([0, 0, 1, 0] ++ List.replicate 4 1 ++ List.replicate 60 0);
      let w := s.opened t q; let ds := items64 (payU q 2 2) (q.payload.drop 4); let i := 0; s.Admits q cConfigure true ∧ 1 ≤ payU q 2 2 ∧
      payU q 2 2 ≤ 63 ∧ payLen q = 4 + 64 * payU q 2 2 ∧ payU q 0 2 + payU q 2 2 ≤ 4096 ∧ ds.findIdx? (fun b => !w.zoneOk b) = some i) ∧
    (let s : State := on; let t : Tick := 0; let q : Req := rq 0 ([0, 0, 1, 0] ++ List.replicate 64 0); let w := s.opened t q;
      let ds := items64 (payU q 2 2) (q.payload.drop 4); let v := (w.zoneWrites (payU q 0 2) ds).chanSets; s.Admits q cConfigure true ∧
      1 ≤ payU q 2 2 ∧ payU q 2 2 ≤ 63 ∧ payLen q = 4 + 64 * payU q 2 2 ∧ payU q 0 2 + payU q 2 2 ≤ 4096 ∧
      ds.findIdx? (fun b => !w.zoneOk b) = none ∧ w.topRaised w.running w.running (w.topSum w.running) (v.topSum w.running) = false) ∧
    (let s : State := on; let t : Tick := 0; let q : Req := rq 0 [0, 0, 1, 0, 0, 0, 0, 0]; s.Admits q cObserve true ∧ payLen q = 8 ∧
      1 ≤ payU q 2 2 ∧ payU q 2 2 ≤ 63 ∧ payU q 4 1 ≤ 2 ∧ payU q 5 3 = 0 ∧ payU q 0 2 + payU q 2 2 ≤ 4096) := by
  refine ⟨?_, ?_, ?_⟩
  · exact by (try dsimp only); (try delta State.Admits State.Hears State.InOrder); decide +kernel
  · exact by (try dsimp only); (try delta State.Admits State.Hears State.InOrder); decide +kernel
  · exact by (try dsimp only); (try delta State.Admits State.Hears State.InOrder); decide +kernel

theorem witness_SliceRequestsComplete :
    (let s : State := on; let t : Tick := 0; let q : Req := rq 0 [0, 1, 0, 0, 72, 0, 0, 0, 0, 0, 0, 0, 1]; let chunk := q.payload.drop 12;
      s.Admits q cConfigure s.prot.sliceLoadHost ∧ 12 ≤ payLen q ∧ payU q 2 2 = 0 ∧ payLen q ≤ 4096 ∧ payU q 0 1 + payU q 1 1 ≤ 128 ∧
      payU q 8 4 = 0 ∧ s.run.state = 0 ∧ chunk.length < payU q 4 4) ∧
    (let s : State := on; let t : Tick := 0; let q : Req := { rq 0 [] with payload := bts [0, 1, 0, 0, 72, 0, 0, 0, 0, 0, 0, 0] ++ image };
      let chunk := q.payload.drop 12; s.Admits q cConfigure s.prot.sliceLoadHost ∧ 12 ≤ payLen q ∧ payU q 2 2 = 0 ∧ payLen q ≤ 4096 ∧
      payU q 0 1 + payU q 1 1 ≤ 128 ∧ payU q 8 4 = 0 ∧ s.run.state = 0 ∧ chunk.length = payU q 4 4 ∧ imageCheck chunk = none) ∧
    (let s : State := on; let t : Tick := 0; let q : Req := rq 0 ([0, 1, 0, 0, 72, 0, 0, 0, 0, 0, 0, 0] ++ List.replicate 72 0);
      let chunk := q.payload.drop 12; let n := 1; let o := 68; s.Admits q cConfigure s.prot.sliceLoadHost ∧ 12 ≤ payLen q ∧ payU q 2 2 = 0 ∧
      payLen q ≤ 4096 ∧ payU q 0 1 + payU q 1 1 ≤ 128 ∧ payU q 8 4 = 0 ∧ s.run.state = 0 ∧ chunk.length = payU q 4 4 ∧
      imageCheck chunk = some (n, o)) ∧
    (let s : State := { on with slices := { tab := [(0, { status := 1, image := some (imageOf image) })] } }; let t : Tick := 0;
      let q : Req := rq 0 [0, 1, 0, 0]; let w := s.opened t q; let names := (List.range (payU q 1 1)).map (· + payU q 0 1);
      s.Admits q cConfigure true ∧ payLen q = 4 ∧ payU q 2 2 = 0 ∧ payU q 0 1 + payU q 1 1 ≤ 128 ∧
      names.any (fun i => (w.slc i).image.isNone || (w.assigned i && w.run.state != 0 && (w.slc i).status != 3)) = false) := by
  refine ⟨?_, ?_, ?_, ?_⟩
  · exact by (try dsimp only); (try delta State.Admits State.Hears State.InOrder); decide +kernel
  · exact by (try dsimp only); (try delta State.Admits State.Hears State.InOrder); decide +kernel
  · exact by (try dsimp only); (try delta State.Admits State.Hears State.InOrder); decide +kernel
  · exact by (try dsimp only); (try delta State.Admits State.Hears State.InOrder); decide +kernel

theorem witness_InstRequestsComplete :
    (let s : State := on; let t : Tick := 0; let q : Req := rq 0 [1, 0, 0, 0]; s.Admits q cObserve true ∧ payLen q = 4 ∧ 1 ≤ payU q 0 2 ∧
      payU q 2 1 ≤ 1 ∧ payU q 3 1 = 0) ∧
    (let s : State := { on with inst := { on.inst with hostReq := some rid, queue := [{ input := 0, req := 5, cfg := 0, startAt := 0, given := 0, reversed := false, fallback := false, result := none, flags := 0 }] } };
      let t : Tick := 0; let q : Req := rq 0 [0, 0, 0, 0]; let w := s.opened t q; s.Admits q cOperate true ∧ payLen q = 4 ∧
      payU q 0 1 ≤ 15 ∧ payU q 1 1 / 16 % 8 = 0 ∧ payU q 2 1 < 64 ∧ payU q 3 1 < 64 ∧ w.cfgOk (payU q 0 1) (w.injectCfg q) = true ∧
      w.instRuns = true ∧ w.reqBusy 5 = true) ∧
    (let s : State := on; let t : Tick := 0; let q : Req := rq 0 [0, 0, 0, 0]; let w := s.opened t q; s.Admits q cOperate true ∧
      payLen q = 4 ∧ payU q 0 1 ≤ 15 ∧ payU q 1 1 / 16 % 8 = 0 ∧ payU q 2 1 < 64 ∧ payU q 3 1 < 64 ∧
      w.cfgOk (payU q 0 1) (w.injectCfg q) = true ∧ w.instRuns = true ∧ w.reqBusy 5 = false) := by
  refine ⟨?_, ?_, ?_⟩
  · exact by (try dsimp only); (try delta State.Admits State.Hears State.InOrder); decide +kernel
  · exact by (try dsimp only); (try delta State.Admits State.Hears State.InOrder); decide +kernel
  · exact by (try dsimp only); (try delta State.Admits State.Hears State.InOrder); decide +kernel

theorem witness_TimeAndTwinRequestsComplete :
    (let s : State := on; let t : Tick := 0; let q : Req := rq 0 [0, 1, 0, 0, 1, 0, 0, 0]; s.Admits q cOperate true ∧ payLen q = 8 ∧
      1 ≤ payU q 4 4 ∧ payU q 4 4 ≤ 2 ^ 24 ∧ payU q 0 1 ≤ 16 ∧ payU q 1 1 ≤ 16 ∧ payU q 2 1 % 16 ≤ 2 ∧ payU q 2 1 / 16 % 8 ≤ 3 ∧
      payU q 2 1 < 128 ∧ payU q 3 1 < 128 ∧ (payU q 2 1 % 16 = 2 ↔ payU q 0 1 = payU q 1 1) ∧ (7 < payU q 0 1 → payU q 3 1 % 4 = 0) ∧
      (7 < payU q 1 1 → payU q 3 1 / 4 % 4 = 0) ∧ 3 ≤ s.clk.mode ∧ (payU q 2 1 / 16 % 8 = 1 → s.run.state = 1) ∧ s.time.tiu = none) ∧
    (let s : State := on; let t : Tick := 0; let q : Req := rq 0 [0, 0, 0, 0, 0, 0, 0, 0, 0, 0, 0, 0]; s.Admits q cConfigure true ∧
      payLen q = 12 ∧ payU q 9 3 = 0 ∧ s.p K.timePtpMode = 0 ∧ payU q 8 1 = 0 ∧ s.run.state = 0) ∧
    (let s : State := on; let t : Tick := 0; let q : Req := rq 0 [0, 0, 0, 0, 0, 0, 0, 0, 1, 0, 0, 0]; s.Admits q cConfigure true ∧
      payLen q = 12 ∧ payU q 9 3 = 0 ∧ s.p K.timePtpMode = 0 ∧ payU q 8 1 = 1) ∧
    (let s : State := on; let t : Tick := 0; let q : Req := rq 0 []; s.Admits q cObserve true ∧ payLen q = 0) ∧
    (let s : State := { on with twin := { on.twin with link := 3 } }; let t : Tick := 0; let q : Req := rq 0 [1, 0, 0, 0, 0, 0, 0, 0];
      s.Admits q cMaintain true ∧ payLen q = 8 ∧ payU q 1 3 = 0 ∧ s.twin.link ≠ 0 ∧ payU q 0 1 = 1 ∧ payU q 4 4 = 0 ∧ s.twin.link = 3) ∧
    (let s : State := { on with twin := { on.twin with link := 1 } }; let t : Tick := 0; let q : Req := rq 0 [2, 0, 0, 0, 0, 0, 0, 0];
      s.Admits q cMaintain true ∧ payLen q = 8 ∧ payU q 1 3 = 0 ∧ s.twin.link ≠ 0 ∧ payU q 0 1 = 2 ∧ payU q 4 4 = 0) ∧
    (let s : State := { on with twin := { on.twin with link := 1 } }; let t : Tick := 0; let q : Req := rq 0 [3, 0, 0, 0, 1, 0, 0, 0];
      s.Admits q cMaintain true ∧ payLen q = 8 ∧ payU q 1 3 = 0 ∧ s.twin.link ≠ 0 ∧ payU q 0 1 = 3 ∧ payU q 4 4 ≤ 1) := by
  refine ⟨?_, ?_, ?_, ?_, ?_, ?_, ?_⟩
  · exact by (try dsimp only); (try delta State.Admits State.Hears State.InOrder); decide +kernel
  · exact by (try dsimp only); (try delta State.Admits State.Hears State.InOrder); decide +kernel
  · exact by (try dsimp only); (try delta State.Admits State.Hears State.InOrder); decide +kernel
  · exact by (try dsimp only); (try delta State.Admits State.Hears State.InOrder); decide +kernel
  · exact by (try dsimp only); (try delta State.Admits State.Hears State.InOrder); decide +kernel
  · exact by (try dsimp only); (try delta State.Admits State.Hears State.InOrder); decide +kernel
  · exact by (try dsimp only); (try delta State.Admits State.Hears State.InOrder); decide +kernel

theorem witness_DisplayAndMonitorRequestsComplete :
    (let s : State := onP [(K.dispMode, 1)]; let t : Tick := 0;
      let q : Req := rq 0 ([0, 0, 0, 0, 0, 0, 0, 0, 0, 0, 0, 0, 1, 0, 1, 0, 0, 0, 0, 0, 0, 0, 0, 0, 1, 0, 0, 0, 16, 39, 0, 0, 0, 0, 0, 0, 0, 0, 0, 0, 1, 0, 0, 0]);
      let w := s.opened t q; s.Admits q cOperate true ∧ payLen q = 44 ∧ payU q 0 1 ≤ 1 ∧ payU q 1 1 ≤ 2 ∧ payU q 2 2 = 0 ∧ 3 ≤ s.clk.mode ∧
      w.layerOk (payU q 1 1) (slice q.payload 4 40) = true ∧ w.hasOutput (payU q 0 1) = true) ∧
    (let s : State := on; let t : Tick := 0; let q : Req := rq 0 (List.replicate 16 0); s.Admits q cConfigure true ∧ payLen q = 16 ∧
      payU q 0 1 ≤ 1 ∧ payU q 1 1 ≤ 7 ∧ payU q 2 2 = 0 ∧ (payU q 0 1 = 1 → s.p K.dispMode = 2) ∧
      (payU q 8 2 = 0 ∨ PS.inArea s.running (payU q 4 2) (payU q 6 2) (payU q 8 2) (payU q 10 2) = true)) ∧
    (let s : State := on; let t : Tick := 0; let q : Req := rq 0 [7, 0, 0, 0]; s.Admits q cObserve true ∧ payLen q = 4 ∧
      payU q 0 4 % 8 ≠ 0 ∧ payU q 0 4 / 8 % 2 ^ 28 = 0) ∧
    (let s : State := on; let t : Tick := 0; let q : Req := rq 0 [0, 0, 0, 0, 0, 0, 0, 0]; s.Admits q cConfigure true ∧ payLen q = 8 ∧
      perfOk (payU q 0 1) (payU q 1 1) (payU q 2 2) (payU q 4 4) = true) ∧
    (let s : State := on; let t : Tick := 0; let q : Req := rq 0 [1, 0, 0, 0, 0, 0, 0, 0, 0, 0, 0, 0];
      s.Admits q cObserve (s.prot.perfUser || s.holds q.mb cMaintain) ∧ payLen q = 12 ∧ payU q 0 8 ≠ 0 ∧ payU q 8 1 ≤ 1 ∧ payU q 9 3 = 0) ∧
    (let s : State := { on with emit := { on.emit with modules := List.replicate 6 { state := 2, cache := bts [1, 2, 3, 4] } } };
      let t : Tick := 0; let q : Req := rq 0 [0, 80, 0, 0, 4, 0, 0, 0]; let p : Nat := 0; s.Admits q cObserve true ∧ payLen q = 8 ∧
      payU q 6 2 = 0 ∧ inRange 1 4092 (payU q 4 2) = true ∧ modulePos (payU q 0 1) (payU q 1 1) = some p ∧ 2 ≤ (s.modl p).state ∧
      ((s.modl p).state = 3 → (s.modl p).reason ≠ 1) ∧ payU q 2 2 + payU q 4 2 ≤ (s.modl p).cache.length) := by
  refine ⟨?_, ?_, ?_, ?_, ?_, ?_⟩
  · exact by (try dsimp only); (try delta State.Admits State.Hears State.InOrder); decide +kernel
  · exact by (try dsimp only); (try delta State.Admits State.Hears State.InOrder); decide +kernel
  · exact by (try dsimp only); (try delta State.Admits State.Hears State.InOrder); decide +kernel
  · exact by (try dsimp only); (try delta State.Admits State.Hears State.InOrder); decide +kernel
  · exact by (try dsimp only); (try delta State.Admits State.Hears State.InOrder); decide +kernel
  · exact by (try dsimp only); (try delta State.Admits State.Hears State.InOrder); decide +kernel

theorem witness_MailboxRegistersComplete :
    (let s : State := { on with sys := {} }; let t : Tick := 0; let m : Nat := 0; let v : Word := 1; let w := s.advance t;
      s.clk.pcie = true ∧ s.clk.mode ≠ 0 ∧ m < 16 ∧ serialLt 32 v.toNat (w.mbox m).inProd.toNat = false ∧
      (v - (w.mbox m).inCons).toNat ≤ 256 ∧ s.sys.mbReady = false) ∧
    (let s : State := on; let t : Tick := 0; let m : Nat := 0; let v : Word := 1; let w := s.advance t; s.clk.pcie = true ∧ s.clk.mode ≠ 0 ∧
      m < 16 ∧ serialLt 32 v.toNat (w.mbox m).inProd.toNat = false ∧ (v - (w.mbox m).inCons).toNat ≤ 256 ∧ s.sys.mbReady = true) ∧
    (let s : State := on; let t : Tick := 0; let m : Nat := 0; let v : Word := 300; let w := s.advance t; s.clk.pcie = true ∧
      s.clk.mode ≠ 0 ∧ m < 16 ∧ (serialLt 32 v.toNat (w.mbox m).inProd.toNat = true ∨ 256 < (v - (w.mbox m).inCons).toNat)) ∧
    (let s : State := on; let t : Tick := 0; let m : Nat := 0; let v : Word := 0; let w := s.advance t;
      let bad := serialLt 32 v.toNat (w.mbox m).outCons.toNat || serialLt 32 (w.mbox m).outProd.toNat v.toNat; s.clk.pcie = true ∧
      s.clk.mode ≠ 0 ∧ m < 16 ∧ bad = false) ∧
    (let s : State := on; let t : Tick := 0; let m : Nat := 0; let v : Word := 5; let w := s.advance t;
      let bad := serialLt 32 v.toNat (w.mbox m).outCons.toNat || serialLt 32 (w.mbox m).outProd.toNat v.toNat; s.clk.pcie = true ∧
      s.clk.mode ≠ 0 ∧ m < 16 ∧ bad = true) ∧
    (let s : State := on; let t : Tick := 0; let m : Nat := 15; m < 16) ∧
    (let s : State := on; let t : Tick := 0; let m : Nat := 0; let v : Word := 1; s.clk.pcie = true ∧ s.clk.mode ≠ 0 ∧ m < 16 ∧
      bit v.toNat 0 = true) ∧
    (let w := ({ (on : State) with sys := { (on : State).sys with mbReady := false } } : State).advance 0;
      w.need (.start 0 (rq 0 [])) = some (0, rq 0 [], 0x0010, cOperate, true) ∧ w.sys.mbReady = false ∧ (rq 0 []).mb ≠ 19) ∧
    (let w := ({ on with mboxes := modAt (fun b => { b with remembered := [{ seq := 1, op := 0x0010, tag := 1, done := none }] }) on.mboxes 16 } : State).advance 0;
      w.need (.start 0 (rq 16 [])) = some (0, rq 16 [], 0x0010, cOperate, true) ∧ w.sys.mbReady = true ∧ (rq 16 []).mb ≤ 19 ∧
      w.clk.mode ≠ 0 ∧ (w.repeatOf (rq 16 [])).isSome = true) := by
  refine ⟨?_, ?_, ?_, ?_, ?_, ?_, ?_, ?_, ?_⟩
  · exact by (try dsimp only); (try delta State.Admits State.Hears State.InOrder); decide +kernel
  · exact by (try dsimp only); (try delta State.Admits State.Hears State.InOrder); decide +kernel
  · exact by (try dsimp only); (try delta State.Admits State.Hears State.InOrder); decide +kernel
  · exact by (try dsimp only); (try delta State.Admits State.Hears State.InOrder); decide +kernel
  · exact by (try dsimp only); (try delta State.Admits State.Hears State.InOrder); decide +kernel
  · exact by (try dsimp only); (try delta State.Admits State.Hears State.InOrder); decide +kernel
  · exact by (try dsimp only); (try delta State.Admits State.Hears State.InOrder); decide +kernel
  · exact by (try dsimp only); (try delta State.Admits State.Hears State.InOrder); decide +kernel
  · exact by (try dsimp only); (try delta State.Admits State.Hears State.InOrder); decide +kernel

theorem witness_UdpAndSpiComplete :
    (let s : State := on; let t : Tick := 0; let mb : Nat := 16;
      let dst : Peer := { addr := mapped4 (on.portV4 2), port := on.p K.sysMgmtUdpPort }; let peer : Peer := noPeer;
      let bytes : List Byte := msg 1 []; let w := s.advance t;
      let u : State := { w with mboxes := modAt (fun b => { b with bound := some peer, boundAt := max s.now t }) w.mboxes mb };
      (s.advance t).mgmtMbox dst = some mb ∧ s.sys.mbReady = true ∧ s.clk.mode ≠ 0 ∧
      ((s.mbox mb).bound = none ∨ (s.mbox mb).bound = some peer) ∧ 16 ≤ bytes.length ∧ headBad bytes = false ∧
      (bytes.length = 16 + msgLen bytes ∨ bytes.length = msgSize bytes) ∧ crcGood bytes = true ∧ u.unfinished mb = false) ∧
    (let s : State := { on with atom := { on.atom with sessions := [{ sess with closing := some { rid with mb := 16 } }] } };
      let t : Tick := 0; let mb : Nat := 16; let dst : Peer := { addr := mapped4 (on.portV4 2), port := on.p K.sysMgmtUdpPort };
      let peer : Peer := noPeer; let bytes : List Byte := msg 1 []; let w := s.advance t;
      let u : State := { w with mboxes := modAt (fun b => { b with bound := some peer, boundAt := max s.now t }) w.mboxes mb };
      (s.advance t).mgmtMbox dst = some mb ∧ s.sys.mbReady = true ∧ s.clk.mode ≠ 0 ∧
      ((s.mbox mb).bound = none ∨ (s.mbox mb).bound = some peer) ∧ 16 ≤ bytes.length ∧ headBad bytes = false ∧
      (bytes.length = 16 + msgLen bytes ∨ bytes.length = msgSize bytes) ∧ crcGood bytes = true ∧ u.unfinished mb = true) ∧
    (let s : State := { on with mboxes := modAt (fun b => { b with bound := some noPeer }) on.mboxes 16 }; let t : Tick := 0;
      let mb : Nat := 16; let p : Peer := noPeer; let dst : Peer := { addr := mapped4 (on.portV4 2), port := on.p K.sysMgmtUdpPort };
      let peer : Peer := { addr := 1, port := 2 }; let bytes : List Byte := []; (s.advance t).mgmtMbox dst = some mb ∧
      s.sys.mbReady = true ∧ s.clk.mode ≠ 0 ∧ (s.mbox mb).bound = some p ∧ p ≠ peer) ∧
    (let s : State := { on with mboxes := modAt (fun b => { b with bound := some noPeer }) on.mboxes 17 }; let t : Tick := secT 100000;
      let mb : Nat := 17; let p : Peer := noPeer; (mb = 16 ∨ mb = 17) ∧ (s.mbox mb).bound = some p ∧
      (s.mbox mb).boundAt + secT (s.p K.sysMgmtBindIdleS) ≤ max s.now t) ∧
    (let s : State := on; let t : Tick := 0; let bytes : List Byte := msg 1 []; s.sys.mbReady = true ∧ s.clk.mode ≠ 0 ∧
      (s.mbox 18).later = [] ∧ 16 ≤ bytes.length ∧ headBad bytes = false ∧ 16 + msgLen bytes ≤ bytes.length ∧ crcGood bytes = true ∧
      (s.advance t).unfinished 18 = false) ∧
    (let s : State := on; let t : Tick := 0; let n : Nat := 4; (s.mbox 18).held = []) ∧
    (let s : State := { on with mboxes := modAt (fun b => { b with held := [{ tag := 1, seq := 1, final := true, bytes := [], peer := noPeer }] }) on.mboxes 18 };
      let t : Tick := 0; let n : Nat := 4; let r := { tag := 1, seq := 1, final := true, bytes := [], peer := noPeer }; let rest := [];
      (s.mbox 18).held = r :: rest) := by
  refine ⟨?_, ?_, ?_, ?_, ?_, ?_, ?_⟩
  · exact by (try dsimp only); (try delta State.Admits State.Hears State.InOrder); decide +kernel
  · exact by (try dsimp only); (try delta State.Admits State.Hears State.InOrder); decide +kernel
  · exact by (try dsimp only); (try delta State.Admits State.Hears State.InOrder); decide +kernel
  · exact by (try dsimp only); (try delta State.Admits State.Hears State.InOrder); decide +kernel
  · exact by (try dsimp only); (try delta State.Admits State.Hears State.InOrder); decide +kernel
  · exact by (try dsimp only); (try delta State.Admits State.Hears State.InOrder); decide +kernel
  · exact by (try dsimp only); (try delta State.Admits State.Hears State.InOrder); decide +kernel

theorem witness_RegisterAccessComplete :
    (let s : State := on; let t : Tick := 0; let off : Nat := 0x1000; let v : Word := 1; s.clk.pcie = true ∧ s.clk.mode ≠ 0) ∧
    (let s : State := on; let t : Tick := 0; let off : Nat := 0; s.clk.pcie = true ∧ s.clk.mode ≠ 0) ∧
    (let s : State := on; let t : Tick := 0; let v : Word := 1; s.clk.pcie = true ∧ s.prot.perfUser = true ∧ bit v.toNat 0 = true) ∧
    (let s : State := on; let t : Tick := 0; let v : Word := 0; s.clk.pcie = true ∧ s.clk.mode ≠ 0 ∧
      serialLt 32 s.sys.faultProd.toNat v.toNat = false) := by
  refine ⟨?_, ?_, ?_, ?_⟩
  · exact by (try dsimp only); (try delta State.Admits State.Hears State.InOrder); decide +kernel
  · exact by (try dsimp only); (try delta State.Admits State.Hears State.InOrder); decide +kernel
  · exact by (try dsimp only); (try delta State.Admits State.Hears State.InOrder); decide +kernel
  · exact by (try dsimp only); (try delta State.Admits State.Hears State.InOrder); decide +kernel

theorem witness_BufferWordReadsBack :
    (let s : State := on; let t : Tick := 0; let off : Nat := 0x20000; let v : Word := 7; s.clk.pcie = true ∧ s.clk.mode ≠ 0 ∧ off % 4 = 0 ∧
      0x20000 ≤ off ∧ off < 0x40000) := by
  skip
  · exact by (try dsimp only); (try delta State.Admits State.Hears State.InOrder); decide +kernel

theorem witness_GroupBoundariesComplete :
    (let s : State := { on with commits := [{ who := rid, snap := [], loaded := false, loadedAt := 0 }] }; let t : Tick := 0;
      let c : PendingCommit := { who := rid, snap := [], loaded := false, loadedAt := 0 }; let rest : List PendingCommit := [];
      let w := s.advance t; w.commits = c :: rest ∧ c.loaded = false) ∧
    (let s : State := { on with run := { on.run with state := 1, slots := List.replicate 8 { launched := true } } }; let t : Tick := late;
      let w := s.advance t; let b := w.run.boundary + PS.period w.running; w.run.state = 1 ∧ w.run.stopMode = none ∧ w.allLaunched = true ∧
      b ≤ w.now) ∧
    (let s : State := { onP [(K.emitEnable, 0)] with run := { on.run with state := 3, startReq := some rid, rampsDone := some 0 } };
      let t : Tick := late;
      let t0 : Tick := match ({ onP [(K.emitEnable, 0)] with run := { on.run with state := 3, startReq := some rid, rampsDone := some 0 } }).firstBoundary with | some a => a | none => 0;
      let q : ReqId := rid; let w := s.advance t; w.run.state = 3 ∧ w.firstBoundary = some t0 ∧ t0 ≤ w.now ∧ w.run.startReq = some q) ∧
    (let s : State := { on with run := { on.run with state := 2 } }; let t : Tick := 0; let w := s.advance t; w.run.state = 2 ∧
      (w.pce.jobs.all List.isEmpty = true ∨ w.processBound ≤ w.now)) := by
  refine ⟨?_, ?_, ?_, ?_⟩
  · exact by (try dsimp only); (try delta State.Admits State.Hears State.InOrder); decide +kernel
  · exact by (try dsimp only); (try delta State.Admits State.Hears State.InOrder); decide +kernel
  · exact by (try dsimp only); (try delta State.Admits State.Hears State.InOrder); decide +kernel
  · exact by (try dsimp only); (try delta State.Admits State.Hears State.InOrder); decide +kernel

theorem witness_LaunchCommandsComplete :
    (let s : State := { onP [(K.synthRamanMode, 2), (K.synthRamanSlot, 0), (K.synthRamanK, 1)] with run := { on.run with state := 1 } };
      let t : Tick := late; let slot : Nat := 0; let pos : Nat := 0; let w := s.advance t; let l := w.launchAt pos;
      let disp := w.displaced slot w.run.shot; w.posOf slot = some pos ∧ w.run.state = 1 ∧ (w.slot slot).launched = false ∧
      (∀ k ∈ (PS.tones w.running).take pos, (w.slot k).launched = true) ∧ l ≤ w.now ∧ w.run.stopMode = none ∧ disp = true) ∧
    (let s : State := { on with run := { on.run with state := 1 } }; let t : Tick := late; let slot : Nat := 0; let pos : Nat := 0;
      let w := s.advance t; let l := w.launchAt pos; let disp := w.displaced slot w.run.shot; w.posOf slot = some pos ∧ w.run.state = 1 ∧
      (w.slot slot).launched = false ∧ (∀ k ∈ (PS.tones w.running).take pos, (w.slot k).launched = true) ∧ l ≤ w.now ∧
      w.run.stopMode = none ∧ disp = false) ∧
    (let s : State := { on with run := { on.run with slots := [{ window := true, crossing := some 5 }] } }; let t : Tick := late;
      let slot : Nat := 0; let w := s.advance t; let x := w.slot slot; let o := 5; x.window = true ∧
      x.launch + psT (PS.g x.ps K.synthLaunchPathPs) + nsT (PS.g x.ps K.synthLaunchWindowNs) ≤ w.now ∧ x.crossing = some o ∧
      x.extra = false) ∧
    (let s : State := { on with run := { on.run with slots := [{ window := true }] } }; let t : Tick := late; let slot : Nat := 0;
      let w := s.advance t; let x := w.slot slot; x.window = true ∧
      x.launch + psT (PS.g x.ps K.synthLaunchPathPs) + nsT (PS.g x.ps K.synthLaunchWindowNs) ≤ w.now ∧
      (x.crossing = none ∨ x.extra = true)) := by
  refine ⟨?_, ?_, ?_, ?_⟩
  · exact by (try dsimp only); (try delta State.Admits State.Hears State.InOrder); decide +kernel
  · exact by (try dsimp only); (try delta State.Admits State.Hears State.InOrder); decide +kernel
  · exact by (try dsimp only); (try delta State.Admits State.Hears State.InOrder); decide +kernel
  · exact by (try dsimp only); (try delta State.Admits State.Hears State.InOrder); decide +kernel

theorem witness_InterlockTripDarkens :
    (let s : State := on; let t : Tick := 0; let low : Option Nat := some 2000; (∀ n ∈ low, 2000 ≤ n) ∧ s.ilk.latched = false) ∧
    (let s : State := { on with ilk := {} }; let t : Tick := 0; let low : Option Nat := none; (∀ n ∈ low, 2000 ≤ n) ∧
      s.ilk.latched = true) ∧
    (let s : State := on; let t : Tick := 0; let n : Nat := 1999; n < 2000) ∧
    (let s : State := on; let t : Tick := 0; let low : Option Nat := some 2000; (∀ n ∈ low, 2000 ≤ n) ∧ s.ilk.latched = false ∧
      s.emit.chans.length = 6) := by
  refine ⟨?_, ?_, ?_, ?_⟩
  · exact by (try dsimp only); (try delta State.Admits State.Hears State.InOrder); decide +kernel
  · exact by (try dsimp only); (try delta State.Admits State.Hears State.InOrder); decide +kernel
  · exact by (try dsimp only); (try delta State.Admits State.Hears State.InOrder); decide +kernel
  · exact by (try dsimp only); (try delta State.Admits State.Hears State.InOrder); decide +kernel

theorem witness_RamanCommandsComplete :
    (let s : State := { onP [(K.synthRamanMode, 1), (K.emitEnable, 16), (K.thermSections, 4)] with emit := { on.emit with chans := modAt (fun c => { c with risen := true, loopClosed := true }) on.emit.chans 4 } };
      let t : Tick := late; let rma : List Int := [5]; let rms : List Int := [-5]; let w := (s.advance t).ramanTake;
      let n := w.therm.records.getD 0;
      let v := w.modRun fun r => { r with rmngate := ((w.now, w.now + nsT (w.p K.synthRamanPulseNs)) :: r.rmngate).take 4 };
      let v := v.modTherm fun h => { h with lastLaunch := some w.now, recordEnd := w.now + PS.recordT w.running, measuring := v.measuring };
      w.ilk.latched = false ∧ w.bench = false ∧ w.p K.synthRamanMode ≠ 0 ∧ w.p K.thermSections ≠ 0 ∧ w.ramanDue = true ∧ w.run.state ≠ 1 ∧
      w.therm.recordEnd ≤ w.now ∧ n < 2 ^ w.p K.thermRamanAccLog2 ∧ v.measuring = true) ∧
    (let s : State := { onP [(K.synthRamanMode, 1), (K.emitEnable, 16), (K.thermSections, 4)] with therm := { on.therm with records := some (2 ^ 30) }, emit := { on.emit with chans := modAt (fun c => { c with risen := true, loopClosed := true }) on.emit.chans 4 } };
      let t : Tick := late; let n : Nat := 2 ^ 30; let w := (s.advance t).ramanTake; w.therm.records = some n ∧
      2 ^ w.p K.thermRamanAccLog2 ≤ n ∧ w.therm.recordEnd ≤ w.now ∧ w.measuring = true) ∧
    (let s : State := { on with therm := { on.therm with ready := some { as := [], s := [], asOvr := [], sOvr := [], stop := 0, coil := none, held := false, gi := 0 } } };
      let t : Tick := 0;
      let acc : RamanAcc := { as := [], s := [], asOvr := [], sOvr := [], stop := 0, coil := none, held := false, gi := 0 };
      let w := s.advance t; w.therm.ready = some acc) := by
  refine ⟨?_, ?_, ?_⟩
  · exact by (try dsimp only); (try delta State.Admits State.Hears State.InOrder); decide +kernel
  · exact by (try dsimp only); (try delta State.Admits State.Hears State.InOrder); decide +kernel
  · exact by (try dsimp only); (try delta State.Admits State.Hears State.InOrder); decide +kernel

theorem witness_RampAndLoopCommandsComplete :
    (let s : State := { on with emit := { on.emit with chans := modAt (fun c => { c with ramp := some { fromCode := 0, target := 5, start := 0, dur := 7 } }) on.emit.chans 0 } };
      let t : Tick := late; let c : Nat := 0; let r : Ramp := { fromCode := 0, target := 5, start := 0, dur := 7 }; let w := s.advance t;
      (w.ch c).ramp = some r ∧ r.start + r.dur ≤ w.now) ∧
    (let s : State := { onP [(K.emitEnable, 1), (K.emitLoopMode, 1)] with emit := { on.emit with chans := modAt (fun c => { c with closeAt := some 3 }) on.emit.chans 0 } };
      let t : Tick := late; let c : Nat := 0; let a : Tick := 3; let w := s.advance t; (w.ch c).closeAt = some a ∧ a ≤ w.now ∧
      (w.ch c).ramp = none ∧ w.lit c = true ∧ bit (w.p K.emitLoopMode) c = true) ∧
    (let s : State := { onP [(K.emitEnable, 1), (K.emitLoopMode, 1)] with emit := { on.emit with chans := modAt (fun c => { c with clampSince := some 3, loopClosed := true }) on.emit.chans 0 } };
      let t : Tick := late; let c : Nat := 0; let a : Tick := 3; let w := s.advance t; (w.ch c).clampSince = some a ∧ a + msT 100 ≤ w.now ∧
      (w.ch c).clampRaised = false ∧ c ∈ w.loopChans (mpdOf c)) ∧
    (let s : State := { onP [(K.emitEnable, 1), (K.emitLoopMode, 1)] with emit := { on.emit with chans := modAt (fun c => { c with lowSince := some 3, loopClosed := true }) on.emit.chans 0 } };
      let t : Tick := late; let c : Nat := 0; let a : Tick := 3; let w := s.advance t; (w.ch c).lowSince = some a ∧ a + msT 100 ≤ w.now ∧
      (w.ch c).lostRaised = false ∧ c ∈ w.loopChans (mpdOf c)) := by
  refine ⟨?_, ?_, ?_, ?_⟩
  · exact by (try dsimp only); (try delta State.Admits State.Hears State.InOrder); decide +kernel
  · exact by (try dsimp only); (try delta State.Admits State.Hears State.InOrder); decide +kernel
  · exact by (try dsimp only); (try delta State.Admits State.Hears State.InOrder); decide +kernel
  · exact by (try dsimp only); (try delta State.Admits State.Hears State.InOrder); decide +kernel

theorem witness_ThermistorAndBiasCommandsComplete :
    (let s : State := on; let t : Tick := 0; let w := s.advance t; w.modValid 1 = true) ∧
    (let s : State := on; let t : Tick := late; let w := s.advance t; w.modValid 1 = true ∧ w.instRuns = true ∧ w.emit.pumpFailed = false ∧
      w.emit.pumpGood + msT 100 ≤ w.now) ∧
    (let s : State := { on with emit := { on.emit with pumpGoodSince := some 0, pumpFailed := true, pumpGood := late } };
      let t : Tick := late; let a : Tick := 0; let w := s.advance t; w.emit.pumpGoodSince = some a ∧ w.emit.pumpFailed = true ∧
      a + secT 1 ≤ w.now ∧ w.now < w.emit.pumpGood + msT 100) ∧
    (let s : State := onP [(K.emitWlMode, 1), (K.emitWlTarget, 100)]; let t : Tick := 0; let wla : Nat := 1; let wlb : Nat := 1;
      let w := s.advance t; w.wlRuns = true ∧ 0 < wla + wlb) ∧
    (let s : State := { onP [(K.emitWlMode, 1), (K.emitWlTarget, 100)] with emit := { on.emit with wlSince := some 0 } };
      let t : Tick := late; let a : Tick := 0; let w := s.advance t; w.emit.wlSince = some a ∧ a + secT 1 ≤ w.now ∧
      w.emit.wlLocked = false ∧ w.wlRuns = true) ∧
    (let s : State := { on with emit := { on.emit with apdSetAt := some 0 } }; let t : Tick := late; let w := s.advance t;
      (∀ a ∈ w.emit.apdSetAt, a + secT 1 ≤ w.now)) ∧
    (let s : State := on; let t : Tick := late; let w := s.advance t; w.instRuns = true ∧ w.emit.apdCut = false ∧
      w.emit.apdGood + secT 3 ≤ w.now) := by
  refine ⟨?_, ?_, ?_, ?_, ?_, ?_, ?_⟩
  · exact by (try dsimp only); (try delta State.Admits State.Hears State.InOrder); decide +kernel
  · exact by (try dsimp only); (try delta State.Admits State.Hears State.InOrder); decide +kernel
  · exact by (try dsimp only); (try delta State.Admits State.Hears State.InOrder); decide +kernel
  · exact by (try dsimp only); (try delta State.Admits State.Hears State.InOrder); decide +kernel
  · exact by (try dsimp only); (try delta State.Admits State.Hears State.InOrder); decide +kernel
  · exact by (try dsimp only); (try delta State.Admits State.Hears State.InOrder); decide +kernel
  · exact by (try dsimp only); (try delta State.Admits State.Hears State.InOrder); decide +kernel

theorem witness_ModuleCommandsComplete :
    (let s : State := { on with emit := { on.emit with modules := [{ present := true }] } }; let t : Tick := 0; let pos : Nat := 0;
      let w := s.advance t; (w.modl pos).present = true ∧ (w.modl pos).state = 0) ∧
    (let s : State := { on with emit := { on.emit with modules := [{ present := true, state := 2 }] } }; let t : Tick := 0;
      let pos : Nat := 0; let w := s.advance t; (w.modl pos).present = true ∧ (w.modl pos).state ≠ 0) ∧
    (let s : State := { on with emit := { on.emit with modules := [{ present := true }] } }; let w := s.advance 0;
      (w.modl 0).present = true ∧ (∀ low, Instr.ilkNFall w.now low ∉ w.pending)) ∧
    (let s : State := { on with emit := { on.emit with modules := [{ present := false }] } }; let t : Tick := 0; let pos : Nat := 0;
      let w := s.advance t; (w.modl pos).present = false) ∧
    (let s : State := { on with emit := { on.emit with modules := [{ state := 1 }] } }; let t : Tick := 0; let pos : Nat := 0;
      let one : Option (List Byte) := none; let two : Option (List Byte) := none; let w := s.advance t; (w.modl pos).state = 1 ∧
      cacheOf one two = none) ∧
    (let s : State := { on with emit := { on.emit with modules := [{ state := 1 }] } }; let t : Tick := 0; let pos : Nat := 0;
      let one : Option (List Byte) := some (bts [0, 0, 0, 0, 0, 0, 64, 0]); let two : Option (List Byte) := none; let w := s.advance t;
      let r := match cacheOf (some (bts [0, 0, 0, 0, 0, 0, 64, 0])) none with | some r => r | none => []; (w.modl pos).state = 1 ∧
      cacheOf one two = some r) ∧
    (let s : State := { on with emit := { on.emit with modules := [{ state := 1 }] } }; let t : Tick := 0; let bus : Nat := 0;
      let p : Nat := 0; let w := s.advance t; [2 * bus, 2 * bus + 1].find? (fun p => (w.modl p).state == 1) = some p) := by
  refine ⟨?_, ?_, ?_, ?_, ?_, ?_, ?_⟩
  · exact by (try dsimp only); (try delta State.Admits State.Hears State.InOrder); decide +kernel
  · exact by (try dsimp only); (try delta State.Admits State.Hears State.InOrder); decide +kernel
  · exact ⟨rfl, fun _ h => by cases h⟩
  · exact by (try dsimp only); (try delta State.Admits State.Hears State.InOrder); decide +kernel
  · exact by (try dsimp only); (try delta State.Admits State.Hears State.InOrder); decide +kernel
  · exact by (try dsimp only); (try delta State.Admits State.Hears State.InOrder); decide +kernel
  · exact by (try dsimp only); (try delta State.Admits State.Hears State.InOrder); decide +kernel

theorem witness_TrackerAndCauseCommandsComplete :
    (let s : State := { onP [(K.calTrackEn, 1)] with recv := { on.recv with trackHeld := true } }; let t : Tick := 0;
      let rx : List (List (Int × Int)) := []; let tx : Int × Int := (0, 0); let found : Nat := 127; let w := s.advance t;
      w.rxPilotsOn = true ∧ 3 ≤ w.clk.mode ∧ w.recv.trackHeld = true) ∧
    (let s : State := onP [(K.calTrackEn, 1)]; let t : Tick := 0; let rx : List (List (Int × Int)) := List.replicate 4 [(1000000, 0)];
      let tx : Int × Int := (0, 0); let found : Nat := 127; let w := s.advance t;
      let far := w.lanes.any (fun l => (nth [] rx l).any (fun (e : Int × Int) => decide ((w.p K.calTrackLimitMdb : Int) < (e.1.natAbs : Int)) || decide ((w.p K.calTrackLimitMdb : Int) * 1000000 < (e.2.natAbs : Int) * 8686)));
      w.rxPilotsOn = true ∧ 3 ≤ w.clk.mode ∧ w.recv.trackHeld = false ∧ far = true) ∧
    (let s : State := { onP [(K.calTrackEn, 1)] with run := { on.run with state := 1 } }; let t : Tick := 0;
      let rx : List (List (Int × Int)) := []; let tx : Int × Int := (0, 0); let found : Nat := 127; let w := s.advance t;
      let far := w.lanes.any (fun l => (nth [] rx l).any (fun (e : Int × Int) => decide ((w.p K.calTrackLimitMdb : Int) < (e.1.natAbs : Int)) || decide ((w.p K.calTrackLimitMdb : Int) * 1000000 < (e.2.natAbs : Int) * 8686)));
      w.rxPilotsOn = true ∧ 3 ≤ w.clk.mode ∧ w.recv.trackHeld = false ∧ far = false ∧ w.shots = true) ∧
    (let s : State := onP [(K.calTrackEn, 1)]; let t : Tick := 0; let rx : List (List (Int × Int)) := []; let tx : Int × Int := (0, 0);
      let found : Nat := 0; let w := s.advance t;
      let far := w.lanes.any (fun l => (nth [] rx l).any (fun (e : Int × Int) => decide ((w.p K.calTrackLimitMdb : Int) < (e.1.natAbs : Int)) || decide ((w.p K.calTrackLimitMdb : Int) * 1000000 < (e.2.natAbs : Int) * 8686)));
      w.rxPilotsOn = true ∧ 3 ≤ w.clk.mode ∧ w.recv.trackHeld = false ∧ far = false ∧ w.shots = false) ∧
    (let s : State := { onP [(K.calTrackEn, 1)] with recv := { on.recv with pilotMiss := [some 0], pilotRaised := [false] } };
      let t : Tick := late; let b : Nat := 0; let a : Tick := 0; let w := s.advance t; nth none w.recv.pilotMiss b = some a ∧
      a + msT 100 ≤ w.now ∧ nth false w.recv.pilotRaised b = false ∧ w.rxPilotsOn = true ∧ 3 ≤ w.clk.mode) ∧
    (let s : State := on; let t : Tick := 0; let temp : Int := 1000000; let v := (s.advance t).modRecv fun r => { r with dieTemp := temp };
      let far := decide ((v.p K.calTempDelta : Int) < ((temp - v.recv.lastTemp).natAbs : Int)); far = true ∧ 3 ≤ v.clk.mode) ∧
    (let s : State := on; let t : Tick := 0; let temp : Int := 0; let v := (s.advance t).modRecv fun r => { r with dieTemp := temp };
      let far := decide ((v.p K.calTempDelta : Int) < ((temp - v.recv.lastTemp).natAbs : Int)); (far = false ∨ v.clk.mode < 3)) ∧
    (let s : State := { onP [(K.calTrackEn, 1)] with recv := { on.recv with retryAt := some 0 } }; let t : Tick := 0; let a : Tick := 0;
      let w := s.advance t; w.recv.retryAt = some a ∧ a ≤ w.now) := by
  refine ⟨?_, ?_, ?_, ?_, ?_, ?_, ?_, ?_⟩
  · exact by (try dsimp only); (try delta State.Admits State.Hears State.InOrder); decide +kernel
  · exact by (try dsimp only); (try delta State.Admits State.Hears State.InOrder); decide +kernel
  · exact by (try dsimp only); (try delta State.Admits State.Hears State.InOrder); decide +kernel
  · exact by (try dsimp only); (try delta State.Admits State.Hears State.InOrder); decide +kernel
  · exact by (try dsimp only); (try delta State.Admits State.Hears State.InOrder); decide +kernel
  · exact by (try dsimp only); (try delta State.Admits State.Hears State.InOrder); decide +kernel
  · exact by (try dsimp only); (try delta State.Admits State.Hears State.InOrder); decide +kernel
  · exact by (try dsimp only); (try delta State.Admits State.Hears State.InOrder); decide +kernel

theorem witness_CalibrationStepsComplete :
    (let s : State := { on with recv := { on.recv with cal := some { calr with placed := [0] } } }; let t : Tick := late;
      let level : List Int := [0, 0, 0, 0]; let c : CalRun := { calr with placed := [0] }; let w := s.advance t; let x := 0;
      let rest := []; w.recv.cal = some c ∧ c.placed = x :: rest ∧ x + nsT 3000 ≤ w.now) ∧
    (let s : State := { on with recv := { on.recv with cal := some calr } }; let t : Tick := late; let level : List Int := [0, 0, 0, 0];
      let c : CalRun := calr; let w := s.advance t; w.recv.cal = some c ∧ c.placed = [] ∧ w.shots = false ∧ w.gatesQuiet = true ∧
      c.done < c.steps ∧ c.paced + usT 50 ≤ w.now) ∧
    (let s : State := { on with recv := { on.recv with cal := some { calr with done := 10 ^ 6, refCode := some 1 } } }; let t : Tick := 0;
      let resid : CalResid := { rx := [], tx := { gain := 0, ripple := 0, phase := 0, skew := 0, image := 0, slot := 0 } };
      let c : CalRun := { calr with done := 10 ^ 6, refCode := some 1 }; let w := s.advance t; w.recv.cal = some c ∧ c.steps ≤ c.done ∧
      c.refCode.isSome = true) ∧
    (let s : State := { on with recv := { on.recv with cal := some { calr with done := 10 ^ 6, lastStep := some 0 } } };
      let t : Tick := late; let c : CalRun := { calr with done := 10 ^ 6, lastStep := some 0 }; let a : Tick := 0; let w := s.advance t;
      w.recv.cal = some c ∧ c.lastStep = some a ∧ c.steps ≤ c.done ∧ c.refCode = none ∧ a + msT 500 ≤ w.now) ∧
    (let s : State := { on with recv := { on.recv with selftest := some { who := rid, kind := 0, items := [(0, 2)], ran := 0, failed := none, waits := 0, placed := [0], paced := 0, phases := [] } } };
      let t : Tick := late;
      let m : Blotter := { level := 0, peak := 0, width := 0, psl := 0, phase := 0, xy := 0, leak := [], ovr := 0, clips := 0, raman := [], stamp := 0 };
      let x : SelfTest := { who := rid, kind := 0, items := [(0, 2)], ran := 0, failed := none, waits := 0, placed := [0], paced := 0, phases := [] };
      let item : Nat := 0; let left : Nat := 2; let rest : List (Nat × Nat) := []; let w := s.advance t; let p := 0; let more := [];
      w.recv.selftest = some x ∧ x.items = (item, left) :: rest ∧ x.placed = p :: more ∧ p + nsT 3000 ≤ w.now) ∧
    (let s : State := { on with recv := { on.recv with selftest := some { who := rid, kind := 0, items := [(0, 2)], ran := 0, failed := none, waits := 0, placed := [], paced := 0, phases := [] } } };
      let t : Tick := late;
      let m : Blotter := { level := 0, peak := 0, width := 0, psl := 0, phase := 0, xy := 0, leak := [], ovr := 0, clips := 0, raman := [], stamp := 0 };
      let x : SelfTest := { who := rid, kind := 0, items := [(0, 2)], ran := 0, failed := none, waits := 0, placed := [], paced := 0, phases := [] };
      let item : Nat := 0; let left : Nat := 2; let rest : List (Nat × Nat) := []; let w := s.advance t; w.recv.selftest = some x ∧
      x.items = (item, left) :: rest ∧ x.placed = [] ∧ w.shots = false ∧ w.gatesQuiet = true ∧ x.paced + usT 50 ≤ w.now) ∧
    (let s : State := { on with recv := { on.recv with selftest := some { ({ who := rid, kind := 0, items := [(0, 2)], ran := 0, failed := none, waits := 0, placed := [], paced := 0, phases := [] } : SelfTest) with items := [] } } };
      let t : Tick := 0;
      let x : SelfTest := { ({ who := rid, kind := 0, items := [(0, 2)], ran := 0, failed := none, waits := 0, placed := [], paced := 0, phases := [] } : SelfTest) with items := [] };
      let w := s.advance t; w.recv.selftest = some x ∧ x.items = []) := by
  refine ⟨?_, ?_, ?_, ?_, ?_, ?_, ?_⟩
  · exact by (try dsimp only); (try delta State.Admits State.Hears State.InOrder); decide +kernel
  · exact by (try dsimp only); (try delta State.Admits State.Hears State.InOrder); decide +kernel
  · exact by (try dsimp only); (try delta State.Admits State.Hears State.InOrder); decide +kernel
  · exact by (try dsimp only); (try delta State.Admits State.Hears State.InOrder); decide +kernel
  · exact by (try dsimp only); (try delta State.Admits State.Hears State.InOrder); decide +kernel
  · exact by (try dsimp only); (try delta State.Admits State.Hears State.InOrder); decide +kernel
  · exact by (try dsimp only); (try delta State.Admits State.Hears State.InOrder); decide +kernel

theorem witness_PceBlockCompletes :
    (let s : State := on; let t : Tick := 0; let slot : Nat := 0; let start : Nat := 0; let codes : List LaneCodes := [];
      let w := (s.advance t).takeCodes start codes; nth [] w.pce.jobs slot = []) ∧
    (let s : State := { on with pce := { on.pce with jobs := [[sjob]] } }; let t : Tick := 0; let slot : Nat := 0; let start : Nat := 0;
      let codes : List LaneCodes := []; let w := (s.advance t).takeCodes start codes; let j := sjob; let js := [];
      nth [] w.pce.jobs slot = j :: js ∧ w.blockDue slot j = false) ∧
    (let s : State := { on with pce := { on.pce with jobs := [[sjob]] }, recv := { on.recv with slotAt := 10 ^ 9 } }; let t : Tick := late;
      let slot : Nat := 0; let start : Nat := 0; let codes : List LaneCodes := []; let w := (s.advance t).takeCodes start codes;
      let j := sjob; let js := []; nth [] w.pce.jobs slot = j :: js ∧ w.blockDue slot j = true) := by
  refine ⟨?_, ?_, ?_⟩
  · exact by (try dsimp only); (try delta State.Admits State.Hears State.InOrder); decide +kernel
  · exact by (try dsimp only); (try delta State.Admits State.Hears State.InOrder); decide +kernel
  · exact by (try dsimp only); (try delta State.Admits State.Hears State.InOrder); decide +kernel

theorem witness_TileAndProfileCommandsComplete :
    (let s : State := on; let t : Tick := 0; let w := s.advance t; w.pce.ivlProg = none) ∧
    (let s : State := { on with pce := { on.pce with ivlProg := some (0, 0, 0) } }; let t : Tick := 0; let w := s.advance t;
      let due := fun (bins ivl : Nat) => w.definedZones.filter fun z => match (w.zone z).desc with | some d => decide ((w.zone z).ivlNext ≤ ivl) && decide ((PS.zoneBins w.running d).2 < bins) | none => false;
      let ivl := 0; let bins := 0; let time := 0; w.pce.ivlProg = some (ivl, bins, time) ∧ due bins ivl = []) ∧
    (let s : State := { on with zones := [(0, { desc := some zd })], pce := { on.pce with ivlProg := some (1, 86660, 0) } };
      let t : Tick := 0; let w := s.advance t;
      let due := fun (bins ivl : Nat) => w.definedZones.filter fun z => match (w.zone z).desc with | some d => decide ((w.zone z).ivlNext ≤ ivl) && decide ((PS.zoneBins w.running d).2 < bins) | none => false;
      let ivl := 1; let bins := 86660; let time := 0; w.pce.ivlProg = some (ivl, bins, time) ∧ due bins ivl ≠ []) ∧
    (let s : State := { on with prof := { on.prof with ready := [(0, [])] } }; let t : Tick := 0; let time : Nat := 0;
      let p : List Nat := []; let rest : List (Nat × List Nat) := []; let w := s.advance t; w.prof.ready = (time, p) :: rest) ∧
    (let s : State := { on with sill := { on.sill with elastic := [row0], openTiles := [{ tile0 with read := false }] } };
      let t : Tick := 0; let r : Row := row0; let rest : List Row := []; let w := s.advance t;
      let v := (w.sill.openTiles.filter (fun y => y.group == r.group && !y.joins r)).foldl (fun (z : State) y => z.closeTile y (y.samples < 256)) w;
      w.sill.elastic = r :: rest ∧ PS.freshSlots w.running ≠ 0 ∧ 3 ≤ w.clk.mode ∧ v.sill.openTiles.any (fun y => y.takes r) = true) ∧
    (let s : State := { on with sill := { on.sill with elastic := [row0] } }; let t : Tick := 0; let r : Row := row0;
      let rest : List Row := []; let w := s.advance t;
      let v := (w.sill.openTiles.filter (fun y => y.group == r.group && !y.joins r)).foldl (fun (z : State) y => z.closeTile y (y.samples < 256)) w;
      w.sill.elastic = r :: rest ∧ PS.freshSlots w.running ≠ 0 ∧ 3 ≤ w.clk.mode ∧ v.sill.openTiles.any (fun y => y.takes r) = false ∧
      v.slotFree v.nextFresh = true) ∧
    (let s : State := { onP [(K.chanFreshMib, 1)] with sill := { on.sill with elastic := [row0], openTiles := (List.range 15).map (fun k => { tile0 with group := 1, pos := k }) } };
      let t : Tick := 0; let r : Row := row0; let rest : List Row := []; let w := s.advance t;
      let v := (w.sill.openTiles.filter (fun y => y.group == r.group && !y.joins r)).foldl (fun (z : State) y => z.closeTile y (y.samples < 256)) w;
      w.sill.elastic = r :: rest ∧ PS.freshSlots w.running ≠ 0 ∧ 3 ≤ w.clk.mode ∧ v.sill.openTiles.any (fun y => y.takes r) = false ∧
      v.slotFree v.nextFresh = false) ∧
    (let s : State := { on with sill := { on.sill with openTiles := [{ tile0 with samples := 256 }] } }; let t : Tick := late;
      let group : Nat := 0; let y : Tile := { tile0 with samples := 256 }; let w := s.advance t;
      w.sill.openTiles.find? (fun y => y.group == group && w.tileDue y) = some y) ∧
    (let w := ({ on with sill := { on.sill with closed := [{ tile0 with read := false }] }, engines := [{ queue := [.archive 0 0] }] } : State).advance 0;
      (w.eng 0).nextArchive = some (0, 0) ∧ (w.eng 0).buffer = none ∧ (0 : Nat) < 2 ∧ w.domainRuns 6 = true ∧
      w.sill.closed.find? (fun y => y.pos == 0 && y.seq == 0 && !y.read) = some { tile0 with read := false } ∧
      ∃ r, w.deliverTile { tile0 with read := false } = r) ∧
    (let s : State := { on with sill := { on.sill with bankFading := true } }; let t : Tick := 0; let w := s.advance t;
      w.sill.bankFading = true ∧ w.banksDone = true) := by
  refine ⟨?_, ?_, ?_, ?_, ?_, ?_, ?_, ?_, ?_, ?_⟩
  · exact by (try dsimp only); (try delta State.Admits State.Hears State.InOrder); decide +kernel
  · exact by (try dsimp only); (try delta State.Admits State.Hears State.InOrder); decide +kernel
  · exact by (try dsimp only); (try delta State.Admits State.Hears State.InOrder); decide +kernel
  · exact by (try dsimp only); (try delta State.Admits State.Hears State.InOrder); decide +kernel
  · exact by (try dsimp only); (try delta State.Admits State.Hears State.InOrder); decide +kernel
  · exact by (try dsimp only); (try delta State.Admits State.Hears State.InOrder); decide +kernel
  · exact by (try dsimp only); (try delta State.Admits State.Hears State.InOrder); decide +kernel
  · exact by (try dsimp only); (try delta State.Admits State.Hears State.InOrder); decide +kernel
  · exact ⟨rfl, rfl, by decide, rfl, rfl, _, rfl⟩
  · exact by (try dsimp only); (try delta State.Admits State.Hears State.InOrder); decide +kernel

theorem witness_SliceDataCommandsComplete :
    (let s : State := { on with slices := { tab := [(0, { status := 2, image := some (suppliedImage 0), sets := [(0, { bank := 0, due := [{ last := 0, time := 0, cons := false, reds := [], db := [] }] })] })] } };
      let t : Tick := 0; let set : Nat := 0;
      let b : BandSet := { bank := 0, due := [{ last := 0, time := 0, cons := false, reds := [], db := [] }] };
      let ivl : BaseIvl := { last := 0, time := 0, cons := false, reds := [], db := [] }; let rest : List BaseIvl := [];
      let w := s.advance t; let home := PS.homeSlice w.running set; ((w.slc home).sets.find? (fun e => e.1 == set)).map (·.2) = some b ∧
      b.due = ivl :: rest ∧ w.active = true ∧ (w.slc home).bandRuns = true) ∧
    (let s : State := { on with slices := { tab := [(0, { status := 2, image := some (imageOf image), tiles := [stile] })] } };
      let t : Tick := 0; let sl : Nat := 0; let k : Nat := 0; let im : Image := imageOf image; let y : SliceTile := stile;
      let w := (s.advance t).woken [5, 6]; let x := w.slc sl; (idxWhere (fun y => !y.ready || y.colsIn < y.cols) x.tiles).head? = some k ∧
      x.image = some im ∧ x.status = 2 ∧ x.tiles[k]? = some y ∧ y.ready = true) ∧
    (let s : State := { on with slices := { tab := [(0, { status := 2, image := some (imageOf image), tiles := [{ stile with ready := false, read := some ([], []) }] })] } };
      let t : Tick := 0; let sl : Nat := 0; let k : Nat := 0; let im : Image := imageOf image;
      let y : SliceTile := { stile with ready := false, read := some ([], []) }; let w := (s.advance t).woken [5, 6]; let x := w.slc sl;
      let used := (x.tiles.filter (·.ready)).map (·.hdrSlot); let r := ([], []);
      (idxWhere (fun y => !y.ready || y.colsIn < y.cols) x.tiles).head? = some k ∧ x.image = some im ∧ x.status = 2 ∧ x.tiles[k]? = some y ∧
      y.ready = false ∧ y.read = some r ∧ used.length < 2) ∧
    (let s : State := { on with slices := { tab := [(0, { status := 2, outQ := [{ bytes := bts [0, 255, 255, 0], tile := none, reset := false }] })] } };
      let t : Tick := 0; let sl : Nat := 0; let d : OutDesc := { bytes := bts [0, 255, 255, 0], tile := none, reset := false };
      let rest : List OutDesc := []; let w := s.advance t; let addr := fld d.bytes 0 4 / 4 * 4; let count := fld d.bytes 4 2;
      let len := count * (match fld d.bytes 6 1 with | 0 => 4 | 1 => 16 | 2 => 8 | _ => 1); (w.slc sl).outQ = d :: rest ∧
      (w.slc sl).status = 2 ∧ dmemTop < addr + len) ∧
    (let s : State := { on with slices := { tab := [(0, { status := 2, outQ := [{ bytes := bts [0, 0, 0, 0, 1, 0, 0], tile := none, reset := false }] })] } };
      let t : Tick := 0; let sl : Nat := 0; let d : OutDesc := { bytes := bts [0, 0, 0, 0, 1, 0, 0], tile := none, reset := false };
      let rest : List OutDesc := []; let w := s.advance t; let addr := fld d.bytes 0 4 / 4 * 4; let count := fld d.bytes 4 2;
      let len := count * (match fld d.bytes 6 1 with | 0 => 4 | 1 => 16 | 2 => 8 | _ => 1); (w.slc sl).outQ = d :: rest ∧
      (w.slc sl).status = 2 ∧ addr + len ≤ dmemTop ∧ fld d.bytes 6 1 = 0) ∧
    (let s : State := { on with slices := { tab := [(0, { status := 2, outQ := [{ bytes := bts [0, 0, 0, 0, 1, 0, 1], tile := none, reset := false }] })] } };
      let t : Tick := 0; let sl : Nat := 0; let d : OutDesc := { bytes := bts [0, 0, 0, 0, 1, 0, 1], tile := none, reset := false };
      let rest : List OutDesc := []; let w := s.advance t; let addr := fld d.bytes 0 4 / 4 * 4; let count := fld d.bytes 4 2;
      let len := count * (match fld d.bytes 6 1 with | 0 => 4 | 1 => 16 | 2 => 8 | _ => 1); (w.slc sl).outQ = d :: rest ∧
      (w.slc sl).status = 2 ∧ addr + len ≤ dmemTop ∧ fld d.bytes 6 1 = 1) ∧
    (let s : State := { on with slices := { tab := [(0, { status := 2, outQ := [{ bytes := bts [0, 0, 0, 0, 1, 0, 3], tile := none, reset := false }] })] } };
      let t : Tick := 0; let sl : Nat := 0; let d : OutDesc := { bytes := bts [0, 0, 0, 0, 1, 0, 3], tile := none, reset := false };
      let rest : List OutDesc := []; let w := s.advance t; let addr := fld d.bytes 0 4 / 4 * 4; let count := fld d.bytes 4 2;
      let len := count * (match fld d.bytes 6 1 with | 0 => 4 | 1 => 16 | 2 => 8 | _ => 1); (w.slc sl).outQ = d :: rest ∧
      (w.slc sl).status = 2 ∧ addr + len ≤ dmemTop ∧ 3 ≤ fld d.bytes 6 1) ∧
    (let s : State := { on with slices := { tab := [(0, { status := 2, evtQ := [bts [0]] })] } }; let t : Tick := 0; let k : Nat := 0;
      let x : Slice := { status := 2, evtQ := [bts [0]] }; let d : List Byte := bts [0]; let rest : List (List Byte) := [];
      let w := s.advance t; w.slices.tab.find? (fun e => !e.2.evtQ.isEmpty) = some (k, x) ∧ x.evtQ = d :: rest) := by
  refine ⟨?_, ?_, ?_, ?_, ?_, ?_, ?_, ?_⟩
  · exact by (try dsimp only); (try delta State.Admits State.Hears State.InOrder); decide +kernel
  · exact by (try dsimp only); (try delta State.Admits State.Hears State.InOrder); decide +kernel
  · exact by (try dsimp only); (try delta State.Admits State.Hears State.InOrder); decide +kernel
  · exact by (try dsimp only); (try delta State.Admits State.Hears State.InOrder); decide +kernel
  · exact by (try dsimp only); (try delta State.Admits State.Hears State.InOrder); decide +kernel
  · exact by (try dsimp only); (try delta State.Admits State.Hears State.InOrder); decide +kernel
  · exact by (try dsimp only); (try delta State.Admits State.Hears State.InOrder); decide +kernel
  · exact by (try dsimp only); (try delta State.Admits State.Hears State.InOrder); decide +kernel

theorem witness_SliceRegisterInstructionsComplete :
    (let s : State := sl1 (wd 0 (2 ^ 22 + 2 * 2 ^ 18 + 3 * 2 ^ 14)) (id); let t : Tick := 0; let sl : Nat := 0;
      let w : Word := wd 0 (2 ^ 22 + 2 * 2 ^ 18 + 3 * 2 ^ 14); let v := s.advance t; let x := v.slc sl; v.sliceWord sl = some w ∧
      x.pc + 1 < x.codeLen ∧ wOp w = 0x00) ∧
    (let s : State := sl1 (wd 1 (2 ^ 22 + 2 * 2 ^ 18 + 3 * 2 ^ 14)) (id); let t : Tick := 0; let sl : Nat := 0;
      let w : Word := wd 1 (2 ^ 22 + 2 * 2 ^ 18 + 3 * 2 ^ 14); let v := s.advance t; let x := v.slc sl; v.sliceWord sl = some w ∧
      x.pc + 1 < x.codeLen ∧ wOp w = 0x01) ∧
    (let s : State := sl1 (wd 2 (2 ^ 22 + 2 * 2 ^ 18 + 3 * 2 ^ 14)) (id); let t : Tick := 0; let sl : Nat := 0;
      let w : Word := wd 2 (2 ^ 22 + 2 * 2 ^ 18 + 3 * 2 ^ 14); let v := s.advance t; let x := v.slc sl; v.sliceWord sl = some w ∧
      x.pc + 1 < x.codeLen ∧ wOp w = 0x02) ∧
    (let s : State := sl1 (wd 3 (2 ^ 22 + 2 * 2 ^ 18 + 3 * 2 ^ 14)) (id); let t : Tick := 0; let sl : Nat := 0;
      let w : Word := wd 3 (2 ^ 22 + 2 * 2 ^ 18 + 3 * 2 ^ 14); let v := s.advance t; let x := v.slc sl; v.sliceWord sl = some w ∧
      x.pc + 1 < x.codeLen ∧ wOp w = 0x03) ∧
    (let s : State := sl1 (wd 4 (2 ^ 22 + 2 * 2 ^ 18 + 3 * 2 ^ 14)) (id); let t : Tick := 0; let sl : Nat := 0;
      let w : Word := wd 4 (2 ^ 22 + 2 * 2 ^ 18 + 3 * 2 ^ 14); let v := s.advance t; let x := v.slc sl; v.sliceWord sl = some w ∧
      x.pc + 1 < x.codeLen ∧ wOp w = 0x04) ∧
    (let s : State := sl1 (wd 5 (2 ^ 22 + 2 * 2 ^ 18 + 3 * 2 ^ 14)) (id); let t : Tick := 0; let sl : Nat := 0;
      let w : Word := wd 5 (2 ^ 22 + 2 * 2 ^ 18 + 3 * 2 ^ 14); let v := s.advance t; let x := v.slc sl; v.sliceWord sl = some w ∧
      x.pc + 1 < x.codeLen ∧ wOp w = 0x05) ∧
    (let s : State := sl1 (wd 6 (2 ^ 22 + 2 * 2 ^ 18 + 3 * 2 ^ 14)) (id); let t : Tick := 0; let sl : Nat := 0;
      let w : Word := wd 6 (2 ^ 22 + 2 * 2 ^ 18 + 3 * 2 ^ 14); let v := s.advance t; let x := v.slc sl; v.sliceWord sl = some w ∧
      x.pc + 1 < x.codeLen ∧ wOp w = 0x06) ∧
    (let s : State := sl1 (wd 7 (2 ^ 22 + 2 * 2 ^ 18 + 3 * 2 ^ 14)) (id); let t : Tick := 0; let sl : Nat := 0;
      let w : Word := wd 7 (2 ^ 22 + 2 * 2 ^ 18 + 3 * 2 ^ 14); let v := s.advance t; let x := v.slc sl; v.sliceWord sl = some w ∧
      x.pc + 1 < x.codeLen ∧ wOp w = 0x07) ∧
    (let s : State := sl1 (wd 8 (2 ^ 22 + 2 * 2 ^ 18 + 3 * 2 ^ 14)) (id); let t : Tick := 0; let sl : Nat := 0;
      let w : Word := wd 8 (2 ^ 22 + 2 * 2 ^ 18 + 3 * 2 ^ 14); let v := s.advance t; let x := v.slc sl; v.sliceWord sl = some w ∧
      x.pc + 1 < x.codeLen ∧ wOp w = 0x08) ∧
    (let s : State := sl1 (wd 9 (2 ^ 22 + 2 * 2 ^ 18 + 3 * 2 ^ 14)) (id); let t : Tick := 0; let sl : Nat := 0;
      let w : Word := wd 9 (2 ^ 22 + 2 * 2 ^ 18 + 3 * 2 ^ 14); let v := s.advance t; let x := v.slc sl; v.sliceWord sl = some w ∧
      x.pc + 1 < x.codeLen ∧ wOp w = 0x09) ∧
    (let s : State := sl1 (wd 10 (2 ^ 22 + 2 * 2 ^ 18 + 3 * 2 ^ 14)) (id); let t : Tick := 0; let sl : Nat := 0;
      let w : Word := wd 10 (2 ^ 22 + 2 * 2 ^ 18 + 3 * 2 ^ 14); let v := s.advance t; let x := v.slc sl; v.sliceWord sl = some w ∧
      x.pc + 1 < x.codeLen ∧ wOp w = 0x0A) ∧
    (let s : State := sl1 (wd 11 (2 ^ 22 + 2 * 2 ^ 18 + 3 * 2 ^ 14)) (id); let t : Tick := 0; let sl : Nat := 0;
      let w : Word := wd 11 (2 ^ 22 + 2 * 2 ^ 18 + 3 * 2 ^ 14); let v := s.advance t; let x := v.slc sl; v.sliceWord sl = some w ∧
      x.pc + 1 < x.codeLen ∧ wOp w = 0x0B) ∧
    (let s : State := sl1 (wd 12 (2 ^ 22 + 2 * 2 ^ 18 + 3 * 2 ^ 14)) (id); let t : Tick := 0; let sl : Nat := 0;
      let w : Word := wd 12 (2 ^ 22 + 2 * 2 ^ 18 + 3 * 2 ^ 14); let v := s.advance t; let x := v.slc sl; v.sliceWord sl = some w ∧
      x.pc + 1 < x.codeLen ∧ wOp w = 0x0C) := by
  refine ⟨?_, ?_, ?_, ?_, ?_, ?_, ?_, ?_, ?_, ?_, ?_, ?_, ?_⟩
  · exact by (try dsimp only); (try delta State.Admits State.Hears State.InOrder); decide +kernel
  · exact by (try dsimp only); (try delta State.Admits State.Hears State.InOrder); decide +kernel
  · exact by (try dsimp only); (try delta State.Admits State.Hears State.InOrder); decide +kernel
  · exact by (try dsimp only); (try delta State.Admits State.Hears State.InOrder); decide +kernel
  · exact by (try dsimp only); (try delta State.Admits State.Hears State.InOrder); decide +kernel
  · exact by (try dsimp only); (try delta State.Admits State.Hears State.InOrder); decide +kernel
  · exact by (try dsimp only); (try delta State.Admits State.Hears State.InOrder); decide +kernel
  · exact by (try dsimp only); (try delta State.Admits State.Hears State.InOrder); decide +kernel
  · exact by (try dsimp only); (try delta State.Admits State.Hears State.InOrder); decide +kernel
  · exact by (try dsimp only); (try delta State.Admits State.Hears State.InOrder); decide +kernel
  · exact by (try dsimp only); (try delta State.Admits State.Hears State.InOrder); decide +kernel
  · exact by (try dsimp only); (try delta State.Admits State.Hears State.InOrder); decide +kernel
  · exact by (try dsimp only); (try delta State.Admits State.Hears State.InOrder); decide +kernel

theorem witness_SliceLoadsAndStoresComplete :
    (let s : State := sl1 (wd 16 (0)) (id); let t : Tick := 0; let sl : Nat := 0; let w : Word := wd 16 (0); let v := s.advance t;
      let x := v.slc sl; let at_ := (x.ag (wAg w)).addr; v.sliceWord sl = some w ∧ x.pc + 1 < x.codeLen ∧ at_ < 0x28000 ∧ wOp w = 0x10) ∧
    (let s : State := sl1 (wd 17 (0)) (id); let t : Tick := 0; let sl : Nat := 0; let w : Word := wd 17 (0); let v := s.advance t;
      let x := v.slc sl; let at_ := (x.ag (wAg w)).addr; v.sliceWord sl = some w ∧ x.pc + 1 < x.codeLen ∧ at_ < 0x28000 ∧ wOp w = 0x11) ∧
    (let s : State := sl1 (wd 18 (0)) (id); let t : Tick := 0; let sl : Nat := 0; let w : Word := wd 18 (0); let v := s.advance t;
      let x := v.slc sl; let at_ := (x.ag (wAg w)).addr; v.sliceWord sl = some w ∧ x.pc + 1 < x.codeLen ∧ at_ < 0x28000 ∧ wOp w = 0x12) ∧
    (let s : State := sl1 (wd 19 (0)) (id); let t : Tick := 0; let sl : Nat := 0; let w : Word := wd 19 (0); let v := s.advance t;
      let x := v.slc sl; let at_ := (x.ag (wAg w)).addr; v.sliceWord sl = some w ∧ x.pc + 1 < x.codeLen ∧ at_ < 0x28000 ∧ wOp w = 0x13) ∧
    (let s : State := sl1 (wd 16 (0)) (fun x => { x with ags := [{ base := 0x28000 }] }); let t : Tick := 0; let sl : Nat := 0;
      let w : Word := wd 16 (0); let v := s.advance t; let x := v.slc sl; let at_ := (x.ag (wAg w)).addr; v.sliceWord sl = some w ∧
      x.pc + 1 < x.codeLen ∧ 0x28000 ≤ at_ ∧ wOp w = 0x10) ∧
    (let s : State := sl1 (wd 17 (0)) (fun x => { x with ags := [{ base := 0x28000 }] }); let t : Tick := 0; let sl : Nat := 0;
      let w : Word := wd 17 (0); let v := s.advance t; let x := v.slc sl; let at_ := (x.ag (wAg w)).addr; v.sliceWord sl = some w ∧
      x.pc + 1 < x.codeLen ∧ 0x28000 ≤ at_ ∧ wOp w = 0x11) ∧
    (let s : State := sl1 (wd 18 (0)) (fun x => { x with ags := [{ base := 0x28000 }] }); let t : Tick := 0; let sl : Nat := 0;
      let w : Word := wd 18 (0); let v := s.advance t; let x := v.slc sl; let at_ := (x.ag (wAg w)).addr; v.sliceWord sl = some w ∧
      x.pc + 1 < x.codeLen ∧ 0x28000 ≤ at_ ∧ wOp w = 0x12) ∧
    (let s : State := sl1 (wd 19 (0)) (fun x => { x with ags := [{ base := 0x28000 }] }); let t : Tick := 0; let sl : Nat := 0;
      let w : Word := wd 19 (0); let v := s.advance t; let x := v.slc sl; let at_ := (x.ag (wAg w)).addr; v.sliceWord sl = some w ∧
      x.pc + 1 < x.codeLen ∧ 0x28000 ≤ at_ ∧ wOp w = 0x13) := by
  refine ⟨?_, ?_, ?_, ?_, ?_, ?_, ?_, ?_⟩
  · exact by (try dsimp only); (try delta State.Admits State.Hears State.InOrder); decide +kernel
  · exact by (try dsimp only); (try delta State.Admits State.Hears State.InOrder); decide +kernel
  · exact by (try dsimp only); (try delta State.Admits State.Hears State.InOrder); decide +kernel
  · exact by (try dsimp only); (try delta State.Admits State.Hears State.InOrder); decide +kernel
  · exact by (try dsimp only); (try delta State.Admits State.Hears State.InOrder); decide +kernel
  · exact by (try dsimp only); (try delta State.Admits State.Hears State.InOrder); decide +kernel
  · exact by (try dsimp only); (try delta State.Admits State.Hears State.InOrder); decide +kernel
  · exact by (try dsimp only); (try delta State.Admits State.Hears State.InOrder); decide +kernel

theorem witness_SliceMultiplyAccumulatesComplete :
    (let s : State := sl1 (wd 24 (2 ^ 21 + 2 ^ 18)) (id); let t : Tick := 0; let sl : Nat := 0; let w : Word := wd 24 (2 ^ 21 + 2 ^ 18);
      let v := s.advance t; let x := v.slc sl; let gx := wNat w 23 22; let gy := wNat w 20 19;
      let y := if bit w.toNat 21 then x.setAg gx Agen.step' else x; v.sliceWord sl = some w ∧ x.pc + 1 < x.codeLen ∧
      (x.ag gx).addr < 0x28000 ∧ (y.ag gy).addr < 0x28000 ∧ wOp w = 0x18) ∧
    (let s : State := sl1 (wd 25 (2 ^ 21)) (id); let t : Tick := 0; let sl : Nat := 0; let w : Word := wd 25 (2 ^ 21);
      let v := s.advance t; let x := v.slc sl; let gx := wNat w 23 22; let gy := wNat w 20 19;
      let y := if bit w.toNat 21 then x.setAg gx Agen.step' else x; v.sliceWord sl = some w ∧ x.pc + 1 < x.codeLen ∧
      (x.ag gx).addr < 0x28000 ∧ (y.ag gy).addr < 0x28000 ∧ wOp w = 0x19) := by
  refine ⟨?_, ?_⟩
  · exact by (try dsimp only); (try delta State.Admits State.Hears State.InOrder); decide +kernel
  · exact by (try dsimp only); (try delta State.Admits State.Hears State.InOrder); decide +kernel

theorem witness_SliceAccumulatorMovesComplete :
    (let s : State := sl1 (wd 28 (2 ^ 14)) (id); let t : Tick := 0; let sl : Nat := 0; let w : Word := wd 28 (2 ^ 14);
      let v := s.advance t; let x := v.slc sl; let n := wNat w 23 22; let at_ := (x.ag n).addr; v.sliceWord sl = some w ∧
      x.pc + 1 < x.codeLen ∧ at_ < 0x28000 ∧ wOp w = 0x1C ∧ bit w.toNat 14 = true) ∧
    (let s : State := sl1 (wd 28 (0)) (id); let t : Tick := 0; let sl : Nat := 0; let w : Word := wd 28 (0); let v := s.advance t;
      let x := v.slc sl; let n := wNat w 23 22; let at_ := (x.ag n).addr; v.sliceWord sl = some w ∧ x.pc + 1 < x.codeLen ∧ at_ < 0x28000 ∧
      wOp w = 0x1C ∧ bit w.toNat 14 = false) ∧
    (let s : State := sl1 (wd 30 (2 ^ 12)) (id); let t : Tick := 0; let sl : Nat := 0; let w : Word := wd 30 (2 ^ 12);
      let v := s.advance t; let x := v.slc sl; let n := wNat w 23 22; let at_ := (x.ag n).addr; v.sliceWord sl = some w ∧
      x.pc + 1 < x.codeLen ∧ at_ < 0x28000 ∧ wOp w = 0x1E) ∧
    (let s : State := sl1 (wd 31 (2 ^ 13)) (id); let t : Tick := 0; let sl : Nat := 0; let w : Word := wd 31 (2 ^ 13);
      let v := s.advance t; let x := v.slc sl; let n := wNat w 23 22; let at_ := (x.ag n).addr; v.sliceWord sl = some w ∧
      x.pc + 1 < x.codeLen ∧ at_ < 0x28000 ∧ wOp w = 0x1F) := by
  refine ⟨?_, ?_, ?_, ?_⟩
  · exact by (try dsimp only); (try delta State.Admits State.Hears State.InOrder); decide +kernel
  · exact by (try dsimp only); (try delta State.Admits State.Hears State.InOrder); decide +kernel
  · exact by (try dsimp only); (try delta State.Admits State.Hears State.InOrder); decide +kernel
  · exact by (try dsimp only); (try delta State.Admits State.Hears State.InOrder); decide +kernel

theorem witness_SliceBranchesComplete :
    (let s : State := sl1 (wd 32 (1)) (id); let t : Tick := 0; let sl : Nat := 0; let w : Word := wd 32 (1); let v := s.advance t;
      let x := v.slc sl; let dest : Int := (x.pc : Int) + 1 + sext 18 (wNat w 17 0); let p : Nat := 2; v.sliceWord sl = some w ∧
      x.pc + 1 < x.codeLen ∧ dest = p ∧ p < x.codeLen ∧ wOp w = 0x20) ∧
    (let s : State := sl1 (wd 33 (1)) (id); let t : Tick := 0; let sl : Nat := 0; let w : Word := wd 33 (1); let v := s.advance t;
      let x := v.slc sl; let dest : Int := (x.pc : Int) + 1 + sext 18 (wNat w 17 0); let p : Nat := 2; v.sliceWord sl = some w ∧
      x.pc + 1 < x.codeLen ∧ dest = p ∧ p < x.codeLen ∧ wOp w = 0x21) ∧
    (let s : State := sl1 (wd 34 (1)) (id); let t : Tick := 0; let sl : Nat := 0; let w : Word := wd 34 (1); let v := s.advance t;
      let x := v.slc sl; let dest : Int := (x.pc : Int) + 1 + sext 18 (wNat w 17 0); let p : Nat := 2; v.sliceWord sl = some w ∧
      x.pc + 1 < x.codeLen ∧ dest = p ∧ p < x.codeLen ∧ wOp w = 0x22) ∧
    (let s : State := sl1 (wd 35 (1)) (id); let t : Tick := 0; let sl : Nat := 0; let w : Word := wd 35 (1); let v := s.advance t;
      let x := v.slc sl; let dest : Int := (x.pc : Int) + 1 + sext 18 (wNat w 17 0); let p : Nat := 2; v.sliceWord sl = some w ∧
      x.pc + 1 < x.codeLen ∧ dest = p ∧ p < x.codeLen ∧ wOp w = 0x23) ∧
    (let s : State := sl1 (wd 36 (1)) (id); let t : Tick := 0; let sl : Nat := 0; let w : Word := wd 36 (1); let v := s.advance t;
      let x := v.slc sl; let dest : Int := (x.pc : Int) + 1 + sext 18 (wNat w 17 0); let p : Nat := 2; v.sliceWord sl = some w ∧
      x.pc + 1 < x.codeLen ∧ dest = p ∧ p < x.codeLen ∧ wOp w = 0x24) ∧
    (let s : State := sl1 (wd 37 (1)) (id); let t : Tick := 0; let sl : Nat := 0; let w : Word := wd 37 (1); let v := s.advance t;
      let x := v.slc sl; let dest : Int := (x.pc : Int) + 1 + sext 18 (wNat w 17 0); let p : Nat := 2; v.sliceWord sl = some w ∧
      x.pc + 1 < x.codeLen ∧ dest = p ∧ p < x.codeLen ∧ wOp w = 0x25) ∧
    (let s : State := sl1 (wd 36 (2 ^ 18 - 5)) (id); let t : Tick := 0; let sl : Nat := 0; let w : Word := wd 36 (2 ^ 18 - 5);
      let v := s.advance t; let x := v.slc sl; let dest : Int := (x.pc : Int) + 1 + sext 18 (wNat w 17 0); v.sliceWord sl = some w ∧
      x.pc + 1 < x.codeLen ∧ (dest < 0 ∨ (x.codeLen : Int) ≤ dest) ∧ wOp w = 0x24) ∧
    (let s : State := sl1 (wd 38 (0)) (id); let t : Tick := 0; let sl : Nat := 0; let w : Word := wd 38 (0); let v := s.advance t;
      let x := v.slc sl; v.sliceWord sl = some w ∧ x.pc + 1 < x.codeLen ∧ wOp w = 0x26 ∧ (x.g 15).toNat < x.codeLen) ∧
    (let s : State := sl1 (wd 56 (0)) (fun x => { x with tiles := [stile] }); let t : Tick := 0; let sl : Nat := 0;
      let w : Word := wd 56 (0); let v := s.advance t; let x := v.slc sl; v.sliceWord sl = some w ∧ x.pc + 1 < x.codeLen ∧ wOp w = 0x38 ∧
      bit x.tileStatus 0 = true) ∧
    (let s : State := sl1 (wd 56 (0)) (id); let t : Tick := 0; let sl : Nat := 0; let w : Word := wd 56 (0); let v := s.advance t;
      let x := v.slc sl; v.sliceWord sl = some w ∧ x.pc + 1 < x.codeLen ∧ wOp w = 0x38 ∧ bit x.tileStatus 0 = false) ∧
    (let s : State := sl1 (wd 57 (0)) (id); let t : Tick := 0; let sl : Nat := 0; let w : Word := wd 57 (0); let v := s.advance t;
      let x := v.slc sl; v.sliceWord sl = some w ∧ x.pc + 1 < x.codeLen ∧ wOp w = 0x39 ∧ (x.g (wA w)).toNat ≤ x.tileStatus / 65536) ∧
    (let s : State := sl1 (wd 57 (2 ^ 18)) (fun x => { x with regs := [0, 9] }); let t : Tick := 0; let sl : Nat := 0;
      let w : Word := wd 57 (2 ^ 18); let v := s.advance t; let x := v.slc sl; v.sliceWord sl = some w ∧ x.pc + 1 < x.codeLen ∧
      wOp w = 0x39 ∧ x.tileStatus / 65536 < (x.g (wA w)).toNat) := by
  refine ⟨?_, ?_, ?_, ?_, ?_, ?_, ?_, ?_, ?_, ?_, ?_, ?_⟩
  · exact by (try dsimp only); (try delta State.Admits State.Hears State.InOrder); decide +kernel
  · exact by (try dsimp only); (try delta State.Admits State.Hears State.InOrder); decide +kernel
  · exact by (try dsimp only); (try delta State.Admits State.Hears State.InOrder); decide +kernel
  · exact by (try dsimp only); (try delta State.Admits State.Hears State.InOrder); decide +kernel
  · exact by (try dsimp only); (try delta State.Admits State.Hears State.InOrder); decide +kernel
  · exact by (try dsimp only); (try delta State.Admits State.Hears State.InOrder); decide +kernel
  · exact by (try dsimp only); (try delta State.Admits State.Hears State.InOrder); decide +kernel
  · exact by (try dsimp only); (try delta State.Admits State.Hears State.InOrder); decide +kernel
  · exact by (try dsimp only); (try delta State.Admits State.Hears State.InOrder); decide +kernel
  · exact by (try dsimp only); (try delta State.Admits State.Hears State.InOrder); decide +kernel
  · exact by (try dsimp only); (try delta State.Admits State.Hears State.InOrder); decide +kernel
  · exact by (try dsimp only); (try delta State.Admits State.Hears State.InOrder); decide +kernel

theorem witness_SliceRepAndSpecialsComplete :
    (let w := wd 0x28 2; let b := wd 0x01 (2 ^ 22);
      let s : State := { on with slices := { tab := [(0, { status := 2, image := some { imageOf image with code := [w, b, 0, 0] } })] } };
      let v := s.advance 0; let x := v.slc 0; v.sliceWord 0 = some w ∧ x.pc + 1 < x.codeLen ∧ wOp w = 0x28 ∧ wD w = 0 ∧
      (x.image.bind fun im => im.code[x.pc + 1]?) = some b ∧ ∃ y, sliceRep v.fresh b (wNat w 15 0) true x = .ok y ∧ x.pc + 2 < y.codeLen) ∧
    (let s : State := sl1 (wd 48 (0x12 * 2 ^ 10)) (id); let t : Tick := 0; let sl : Nat := 0; let w : Word := wd 48 (0x12 * 2 ^ 10);
      let v := s.advance t; let x := v.slc sl; v.sliceWord sl = some w ∧ x.pc + 1 < x.codeLen ∧ wOp w = 0x30 ∧ wSpr w ≠ 0x002 ∧
      wSpr w ≠ 0x031) ∧
    (let s : State := sl1 (wd 48 (0x002 * 2 ^ 10)) (id); let t : Tick := 0; let sl : Nat := 0; let w : Word := wd 48 (0x002 * 2 ^ 10);
      let v := s.advance t; let x := v.slc sl; v.sliceWord sl = some w ∧ x.pc + 1 < x.codeLen ∧ wOp w = 0x30 ∧ wSpr w = 0x002) ∧
    (let s : State := sl1 (wd 48 (0x031 * 2 ^ 10)) (id); let t : Tick := 0; let sl : Nat := 0; let w : Word := wd 48 (0x031 * 2 ^ 10);
      let v := s.advance t; let x := v.slc sl; v.sliceWord sl = some w ∧ x.pc + 1 < x.codeLen ∧ wOp w = 0x30 ∧ wSpr w = 0x031) ∧
    (let s : State := sl1 (wd 49 (0x025 * 2 ^ 10)) (id); let t : Tick := 0; let sl : Nat := 0; let w : Word := wd 49 (0x025 * 2 ^ 10);
      let v := s.advance t; let x := v.slc sl; v.sliceWord sl = some w ∧ x.pc + 1 < x.codeLen ∧ wOp w = 0x31 ∧
      wSpr w ∉ [0x022, 0x023, 0x024, 0x026]) ∧
    (let s : State := sl1 (wd 49 (0x022 * 2 ^ 10)) (id); let t : Tick := 0; let sl : Nat := 0; let w : Word := wd 49 (0x022 * 2 ^ 10);
      let v := s.advance t; let x := v.slc sl; v.sliceWord sl = some w ∧ x.pc + 1 < x.codeLen ∧ wOp w = 0x31 ∧ wSpr w = 0x022) ∧
    (let x : Slice := {}; let i : Nat := 0; let n := 3; n < 4) ∧
    (let x : Slice := {}; let i : Nat := 0; let n := 3; n < 4) ∧
    (let x : Slice := {}; let i : Nat := 0; let n := 0; n < 4) ∧
    (let x : Slice := {}; let i : Nat := 0; let n := 0; n < 4) ∧
    (let x : Slice := {}; let i : Nat := 0; let n := 0x033; 0x033 ≤ n) ∧
    (let x : Slice := {}; let i : Nat := 0; let n := 0x004; 0x004 ≤ n ∧ n < 0x010) := by
  refine ⟨?_, ?_, ?_, ?_, ?_, ?_, ?_, ?_, ?_, ?_, ?_, ?_⟩
  · exact ⟨rfl, by decide, by decide, by decide, rfl, _, rfl, by decide⟩
  · exact by (try dsimp only); (try delta State.Admits State.Hears State.InOrder); decide +kernel
  · exact by (try dsimp only); (try delta State.Admits State.Hears State.InOrder); decide +kernel
  · exact by (try dsimp only); (try delta State.Admits State.Hears State.InOrder); decide +kernel
  · exact by (try dsimp only); (try delta State.Admits State.Hears State.InOrder); decide +kernel
  · exact by (try dsimp only); (try delta State.Admits State.Hears State.InOrder); decide +kernel
  · exact by (try dsimp only); (try delta State.Admits State.Hears State.InOrder); decide +kernel
  · exact by (try dsimp only); (try delta State.Admits State.Hears State.InOrder); decide +kernel
  · exact by (try dsimp only); (try delta State.Admits State.Hears State.InOrder); decide +kernel
  · exact by (try dsimp only); (try delta State.Admits State.Hears State.InOrder); decide +kernel
  · exact by (try dsimp only); (try delta State.Admits State.Hears State.InOrder); decide +kernel
  · exact by (try dsimp only); (try delta State.Admits State.Hears State.InOrder); decide +kernel

theorem witness_SliceQueueRegistersComplete :
    (let s : State := { on with slices := { tab := [(0, { status := 2, image := some (suppliedImage 0), tiles := [stile] })] } };
      let t : Tick := 0; let sl : Nat := 0; (s.slc sl).supplied = true ∧ (s.slc sl).status = 2 ∧ bit (s.slc sl).tileStatus 0 = true ∧
      s.domainRuns 5 = true) ∧
    (let s : State := sl1 (wd 49 (2 ^ 22 + 0x023 * 2 ^ 10)) (id); let t : Tick := 0; let sl : Nat := 0;
      let w : Word := wd 49 (2 ^ 22 + 0x023 * 2 ^ 10); let v := s.advance t; let x := v.slc sl; v.sliceWord sl = some w ∧ wOp w = 0x31 ∧
      x.pc + 1 < x.codeLen ∧ wSpr w = 0x023 ∧ x.supplied = false ∧ (bit (x.g (wD w)).toNat 0 = false ∨ bit x.tileStatus 0 = false)) ∧
    (let s : State := sl1 (wd 49 (2 ^ 22 + 0x023 * 2 ^ 10)) (fun x => { x with regs := [0, 1], tiles := [stile] }); let t : Tick := 0;
      let sl : Nat := 0; let w : Word := wd 49 (2 ^ 22 + 0x023 * 2 ^ 10); let v := s.advance t; let x := v.slc sl; v.sliceWord sl = some w ∧
      wOp w = 0x31 ∧ x.pc + 1 < x.codeLen ∧ wSpr w = 0x023 ∧ x.supplied = false ∧ bit (x.g (wD w)).toNat 0 = true ∧
      bit x.tileStatus 0 = true) ∧
    (let s : State := sl1 (wd 49 (2 ^ 22 + 0x024 * 2 ^ 10)) (fun x => { x with regs := [0, 0x28000] }); let t : Tick := 0;
      let sl : Nat := 0; let w : Word := wd 49 (2 ^ 22 + 0x024 * 2 ^ 10); let v := s.advance t; let x := v.slc sl;
      let a := (x.g (wD w)).toNat % 2 ^ 18; v.sliceWord sl = some w ∧ wOp w = 0x31 ∧ x.pc + 1 < x.codeLen ∧ wSpr w = 0x024 ∧
      0x28000 < a + 16) ∧
    (let s : State := sl1 (wd 49 (2 ^ 22 + 0x024 * 2 ^ 10)) (id); let t : Tick := 0; let sl : Nat := 0;
      let w : Word := wd 49 (2 ^ 22 + 0x024 * 2 ^ 10); let v := s.advance t; let x := v.slc sl; let a := (x.g (wD w)).toNat % 2 ^ 18;
      let d := Memory.readBytes x.dmem a 16; v.sliceWord sl = some w ∧ wOp w = 0x31 ∧ x.pc + 1 < x.codeLen ∧ wSpr w = 0x024 ∧
      a + 16 ≤ 0x28000 ∧ x.outQ.length < 16 ∧ fld d 6 1 ≤ 3) ∧
    (let s : State := sl1 (wd 49 (2 ^ 22 + 0x024 * 2 ^ 10)) (fun x => { x with outQ := List.replicate 16 { bytes := [], tile := none, reset := false } });
      let t : Tick := 0; let sl : Nat := 0; let w : Word := wd 49 (2 ^ 22 + 0x024 * 2 ^ 10); let v := s.advance t; let x := v.slc sl;
      let a := (x.g (wD w)).toNat % 2 ^ 18; let d := Memory.readBytes x.dmem a 16; v.sliceWord sl = some w ∧ wOp w = 0x31 ∧
      x.pc + 1 < x.codeLen ∧ wSpr w = 0x024 ∧ a + 16 ≤ 0x28000 ∧ (16 ≤ x.outQ.length ∨ 3 < fld d 6 1)) ∧
    (let s : State := sl1 (wd 49 (2 ^ 22 + 0x026 * 2 ^ 10)) (fun x => { x with regs := [0, 0x28000] }); let t : Tick := 0;
      let sl : Nat := 0; let w : Word := wd 49 (2 ^ 22 + 0x026 * 2 ^ 10); let v := s.advance t; let x := v.slc sl;
      let a := (x.g (wD w)).toNat % 2 ^ 18; v.sliceWord sl = some w ∧ wOp w = 0x31 ∧ x.pc + 1 < x.codeLen ∧ wSpr w = 0x026 ∧
      0x28000 < a + 24) ∧
    (let s : State := withZone {} (sl1 (wd 49 (2 ^ 22 + 0x026 * 2 ^ 10)) (id)); let t : Tick := 0; let sl : Nat := 0;
      let w : Word := wd 49 (2 ^ 22 + 0x026 * 2 ^ 10); let v := s.advance t; let x := v.slc sl; let a := (x.g (wD w)).toNat % 2 ^ 18;
      let e := Memory.readBytes x.dmem a 24; let z := zd; v.sliceWord sl = some w ∧ wOp w = 0x31 ∧ x.pc + 1 < x.codeLen ∧ wSpr w = 0x026 ∧
      a + 24 ≤ 0x28000 ∧ (v.zone (fld e 8 2)).desc = some z ∧ z.first ≤ fld e 20 4 ∧ fld e 20 4 ≤ z.last ∧ fld e 10 1 ≤ 15 ∧
      x.evtQ.length < 16) ∧
    (let s : State := sl1 (wd 49 (2 ^ 22 + 0x026 * 2 ^ 10)) (id); let t : Tick := 0; let sl : Nat := 0;
      let w : Word := wd 49 (2 ^ 22 + 0x026 * 2 ^ 10); let v := s.advance t; let x := v.slc sl; let a := (x.g (wD w)).toNat % 2 ^ 18;
      let e := Memory.readBytes x.dmem a 24; v.sliceWord sl = some w ∧ wOp w = 0x31 ∧ x.pc + 1 < x.codeLen ∧ wSpr w = 0x026 ∧
      a + 24 ≤ 0x28000 ∧ (v.zone (fld e 8 2)).desc = none ∨ 15 < fld e 10 1 ∨ 16 ≤ x.evtQ.length) := by
  refine ⟨?_, ?_, ?_, ?_, ?_, ?_, ?_, ?_, ?_⟩
  · exact by (try dsimp only); (try delta State.Admits State.Hears State.InOrder); decide +kernel
  · exact by (try dsimp only); (try delta State.Admits State.Hears State.InOrder); decide +kernel
  · exact by (try dsimp only); (try delta State.Admits State.Hears State.InOrder); decide +kernel
  · exact by (try dsimp only); (try delta State.Admits State.Hears State.InOrder); decide +kernel
  · exact by (try dsimp only); (try delta State.Admits State.Hears State.InOrder); decide +kernel
  · exact by (try dsimp only); (try delta State.Admits State.Hears State.InOrder); decide +kernel
  · exact by (try dsimp only); (try delta State.Admits State.Hears State.InOrder); decide +kernel
  · exact by (try dsimp only); (try delta State.Admits State.Hears State.InOrder); decide +kernel
  · exact by (try dsimp only); (try delta State.Admits State.Hears State.InOrder); decide +kernel

theorem witness_ThermalAndZoneCommandsComplete :
    (let s : State := onP [(K.thermSections, 4)]; let t : Tick := late; let w := s.advance t; let S := w.dev / 1000000000 * 1000000000;
      PS.g w.running K.thermSections ≠ 0 ∧ 2 ≤ w.clk.mode ∧ w.therm.accordFrom < S) ∧
    (let s : State := { { on with clk := { on.clk with mode := 2 } } with therm := { on.therm with framePending := true } };
      let t : Tick := 0; let w := s.advance t;
      let v := ((w.refreshDark.modTherm fun h => { h with framePending := false, frameAt := some w.now, sections := h.sections.map fun e => (e.1, e.2.smoothed (w.p K.zoneRiseWindowS)) }).tempAll w.therm.updateTime).refreshDark;
      w.therm.framePending = true ∧ v.active = false) ∧
    (let s : State := { on with therm := { on.therm with framePending := true } }; let t : Tick := 0; let w := s.advance t;
      let v := ((w.refreshDark.modTherm fun h => { h with framePending := false, frameAt := some w.now, sections := h.sections.map fun e => (e.1, e.2.smoothed (w.p K.zoneRiseWindowS)) }).tempAll w.therm.updateTime).refreshDark;
      w.therm.framePending = true ∧ v.active = true) ∧
    (let s : State := withZone { st := .holdoff } on; let t : Tick := late; let zone : Nat := 0; let crit : Nat := 0;
      let d : ZoneDesc := zd; let w := s.advance t; (w.zone zone).desc = some d ∧ crit < 6 ∧ w.holdoffOver d (w.crit zone crit) = true) ∧
    (let s : State := { on with emit := { on.emit with modules := List.replicate 6 { state := 2, present := true, cache := List.replicate 64 1 } } };
      let t : Tick := 0; let w := s.advance t; (∀ a ∈ w.therm.coilReadAt, a + msT (w.p K.thermCoilReadMs) ≤ w.now) ∧
      w.therm.coilBusy = false ∧ w.modValid 4 = true ∧ w.coilSensors ≠ 0 ∧ w.instRuns = true) ∧
    (let s : State := { on with therm := { on.therm with coilGood := some (0, 0) } }; let t : Tick := late; let a : Tick := msT 3000;
      let w := s.advance t; w.coilOutAt = some a ∧ w.therm.coilExpired = false ∧ a + secT (w.p K.thermCoilHoldS) ≤ w.now ∧
      2 ≤ w.clk.mode) := by
  refine ⟨?_, ?_, ?_, ?_, ?_, ?_⟩
  · exact by (try dsimp only); (try delta State.Admits State.Hears State.InOrder); decide +kernel
  · exact by (try dsimp only); (try delta State.Admits State.Hears State.InOrder); decide +kernel
  · exact by (try dsimp only); (try delta State.Admits State.Hears State.InOrder); decide +kernel
  · exact by (try dsimp only); (try delta State.Admits State.Hears State.InOrder); decide +kernel
  · exact by (try dsimp only); (try delta State.Admits State.Hears State.InOrder); decide +kernel
  · exact by (try dsimp only); (try delta State.Admits State.Hears State.InOrder); decide +kernel

theorem witness_CaptureCommandsComplete :
    (let s : State := on; let t : Tick := late; let n : Nat := 3; let falling : Bool := false; let edge : Tick := 0; let frac : Nat := 5;
      let w := s.advance t; n < 4 ∧ 2 ≤ w.clk.mode ∧ falling = bit (w.p K.sillTrigPolarity) n ∧ edge + nsT (w.p K.sillTrigMinNs) ≤ w.now) ∧
    (let s : State := on; let t : Tick := late; let n : Nat := 3; let falling : Bool := true; let edge : Tick := 0; let frac : Nat := 5;
      let w := s.advance t; n < 4 ∧ 2 ≤ w.clk.mode ∧
      (falling ≠ bit (w.p K.sillTrigPolarity) n ∨ w.now < edge + nsT (w.p K.sillTrigMinNs))) ∧
    (let s : State := on; let t : Tick := late; let edge : Tick := 0; let frac : Nat := 5; let w := s.advance t; 2 ≤ w.clk.mode ∧
      w.cap.starIgnore ≤ edge ∧ edge + nsT (w.p K.sillTrigMinNs) ≤ w.now) ∧
    (let s : State := { on with cap := { on.cap with starIgnore := 9 } }; let t : Tick := late; let edge : Tick := 8; let frac : Nat := 5;
      let w := s.advance t; 2 ≤ w.clk.mode ∧ (edge < w.cap.starIgnore ∨ w.now < edge + nsT (w.p K.sillTrigMinNs))) ∧
    (let s : State := { on with cap := { on.cap with starUntil := some 0 } }; let t : Tick := 0; let a : Tick := 0; let w := s.advance t;
      w.cap.starUntil = some a ∧ a ≤ w.now) ∧
    (let s : State := { on with cap := { on.cap with slots := [{ state := 2 }] } }; let t : Tick := late; let slot : Nat := 0;
      let w := s.advance t; (w.capSlot slot).state = 2 ∧ (w.capSlot slot).windowEnd ≤ w.dev16 w.now) ∧
    (let s : State := { on with cap := { on.cap with slots := [{ state := 3 }] } }; let t : Tick := late; let slot : Nat := 0;
      let w := s.advance t; (w.capSlot slot).state = 3 ∧
      (w.windowSettled (w.capSlot slot) = true ∨ w.sealBound (w.capSlot slot) ≤ w.dev16 w.now)) := by
  refine ⟨?_, ?_, ?_, ?_, ?_, ?_, ?_⟩
  · exact by (try dsimp only); (try delta State.Admits State.Hears State.InOrder); decide +kernel
  · exact by (try dsimp only); (try delta State.Admits State.Hears State.InOrder); decide +kernel
  · exact by (try dsimp only); (try delta State.Admits State.Hears State.InOrder); decide +kernel
  · exact by (try dsimp only); (try delta State.Admits State.Hears State.InOrder); decide +kernel
  · exact by (try dsimp only); (try delta State.Admits State.Hears State.InOrder); decide +kernel
  · exact by (try dsimp only); (try delta State.Admits State.Hears State.InOrder); decide +kernel
  · exact by (try dsimp only); (try delta State.Admits State.Hears State.InOrder); decide +kernel

theorem witness_FlaconCommandsComplete :
    (let s : State := { on with engines := [{ queue := [.archive 0 0], buffer := some (0, 0), bufTile := some tile0 }] };
      let t : Tick := 0; let engine : Nat := 0; let p : Nat := 0; let q : Nat := 0; let y : Tile := tile0;
      let w := (s.advance t).woken [6]; let e := w.eng engine; e.running = none ∧ engine < 2 ∧ w.domainRuns 6 = true ∧
      e.nextArchive = some (p, q) ∧ e.buffer = some (p, q) ∧ e.bufTile = some y ∧
      (∀ c ∈ w.sill.closed, c.pos = p → c.seq = q → w.turned c = true)) ∧
    (let s : State := { on with engines := [{ queue := [.restore 0 0 0 1] }] }; let t : Tick := 0; let engine : Nat := 0;
      let j : FlaconJob := .restore 0 0 0 1; let w := (s.advance t).woken [6]; let e := w.eng engine; e.running = none ∧ engine < 2 ∧
      w.domainRuns 6 = true ∧ e.nextArchive = none ∧ e.nextRestore = some j) ∧
    (let s : State := { on with engines := [{ running := some (.restore 0 0 0 1) }] }; let t : Tick := 0; let engine : Nat := 0;
      let w := s.advance t; (w.eng engine).running.isSome = true ∧ engine < 2) ∧
    (let s : State := { on with engines := [{ running := some (.archive 0 0), runTile := some tile0 }] }; let w := s.advance 0;
      ∃ stream : List Byte, (w.eng 0).running = some (.archive 0 0) ∧ (w.eng 0).runTile = some tile0 ∧ 65546 ≤ stream.length) ∧
    (let s : State := { on with engines := [{ running := some (.archive 0 0), runTile := some tile0 }] }; let t : Tick := 0;
      let engine : Nat := 0; let p : Nat := 0; let q : Nat := 0; let stream : List Byte := []; let y : Tile := tile0; let w := s.advance t;
      let data := (w.eng engine).runData; let splits := (w.eng engine).splits; let offs := [];
      (w.eng engine).running = some (.archive p q) ∧ (w.eng engine).runTile = some y ∧ stream.length < 65546 ∧
      flaconStream y.blockKib y.windowLog (flaconParts y.precond splits data) stream = some offs) ∧
    (let w : State := { on with prot := { on.prot with masters := [] } }; let engine : Nat := 0; let p : Nat := 0; let q : Nat := 0;
      let y : Tile := tile0; let stored : Bool := false; let out : List Byte := []; let bytes : List Byte := bts [0];
      let x := (w.openSegment engine).2; let a := (w.openSegment engine).1.flaconAddr x.index x.used;
      let v := (w.openSegment engine).1.engineDone engine; v.protOk mFlacon a bytes.length true = false) ∧
    (let w : State := on; let engine : Nat := 0; let p : Nat := 0; let q : Nat := 0; let y : Tile := tile0; let stored : Bool := false;
      let out : List Byte := []; let bytes : List Byte := bts [0]; let x := (w.openSegment engine).2;
      let a := (w.openSegment engine).1.flaconAddr x.index x.used; let v := (w.openSegment engine).1.engineDone engine;
      v.protOk mFlacon a bytes.length true = true) ∧
    (let s : State := { on with engines := [{ running := some (.restore 0 0 0 1) }] }; let t : Tick := 0; let engine : Nat := 0;
      let seg : Nat := 0; let off : Nat := 0; let mb : Nat := 0; let tag : Nat := 1; let w := s.advance t; let v := w.engineDone engine;
      (w.eng engine).running = some (.restore seg off mb tag) ∧
      v.sill.flacons.find? (fun f => f.segment == seg && f.offset == off) = none) ∧
    (∀ b c : List Byte, b.length = 65535 → c.length = 2 → let w := (restoring (flac 0 (longStream b c))).advance 0;
      let v := w.engineDone 0; (w.eng 0).running = some (.restore 0 0 0 1) ∧
      ∃ f, v.sill.flacons.find? (fun f => f.segment == 0 && f.offset == 0) = some f ∧
      let r := v.masterRead mFlacon (v.flaconAddr 0 0) f.len; let long := ∃ d ∈ flaconOut r.2, 65536 < d.length; flaconHead r.2 = true ∧
      long) ∧
    (∀ raw : List Byte, raw.length = 65536 → let w := (restoring (flac (crc32 raw) (storedStream raw))).advance 0; let v := w.engineDone 0;
      (w.eng 0).running = some (.restore 0 0 0 1) ∧ ∃ f, v.sill.flacons.find? (fun f => f.segment == 0 && f.offset == 0) = some f ∧
      let r := v.masterRead mFlacon (v.flaconAddr 0 0) f.len; let long := ∃ d ∈ flaconOut r.2, 65536 < d.length;
      (flaconHead r.2 = false ∨ ¬ long) ∧ ∃ img, restore r.2 (flaconOut r.2) = some img) ∧
    (let s : State := { on with engines := [{ running := some (.restore 0 0 0 1) }], sill := { on.sill with flacons := [{ segment := 0, offset := 0, len := 16, group := 0, start := 0, stop := 0, commitTime := 0, seq := 0 }] } };
      let t : Tick := 0; let engine : Nat := 0; let seg : Nat := 0; let off : Nat := 0; let mb : Nat := 0; let tag : Nat := 1;
      let w := s.advance t; let v := w.engineDone engine;
      let f := { segment := 0, offset := 0, len := 16, group := 0, start := 0, stop := 0, commitTime := 0, seq := 0 };
      let r := v.masterRead mFlacon (v.flaconAddr seg off) f.len; let long := ∃ d ∈ flaconOut r.2, 65536 < d.length;
      (w.eng engine).running = some (.restore seg off mb tag) ∧
      v.sill.flacons.find? (fun f => f.segment == seg && f.offset == off) = some f ∧ (flaconHead r.2 = false ∨ ¬ long) ∧
      restore r.2 (flaconOut r.2) = none) := by
  refine ⟨?_, ?_, ?_, ?_, ?_, ?_, ?_, ?_, ?_, ?_, ?_⟩
  · exact by (try dsimp only); (try delta State.Admits State.Hears State.InOrder); decide +kernel
  · exact by (try dsimp only); (try delta State.Admits State.Hears State.InOrder); decide +kernel
  · exact by (try dsimp only); (try delta State.Admits State.Hears State.InOrder); decide +kernel
  · exact ⟨List.replicate 65546 0, rfl, rfl, by rw [List.length_replicate]⟩
  · exact by (try dsimp only); (try delta State.Admits State.Hears State.InOrder); decide +kernel
  · exact by (try dsimp only); (try delta State.Admits State.Hears State.InOrder); decide +kernel
  · exact by (try dsimp only); (try delta State.Admits State.Hears State.InOrder); decide +kernel
  · exact by (try dsimp only); (try delta State.Admits State.Hears State.InOrder); decide +kernel
  · exact fun b c hb hc => by
      have hr := restoring_read (flac 0 (longStream b c)) 65931 (by simp [flac_length, longStream, storedBlock_length, hb, hc])
          (by decide +kernel)
      have ho : flaconOut (flac 0 (longStream b c)) = some (b ++ c) := by
        rw [flac_out _ _ (by simp [longStream, storedBlock_length, hb, hc])]
        exact inflate_long b c [] (by omega) (by omega) _ (by omega) (by omega)
      refine ⟨rfl, _, rfl, ?_⟩
      show flaconHead (restoringRead _) = true ∧ ∃ d ∈ flaconOut (restoringRead _), 65536 < d.length
      rw [hr, ho]
      exact ⟨flac_head _ _, _, rfl, by simp [hb, hc]⟩
  · exact fun raw h => by
      have hr := restoring_read (flac (crc32 raw) (storedStream raw)) 65930 (by simp [flac_length, storedStream, slice, h])
          (by decide +kernel)
      have ho := flac_restores raw h
      refine ⟨rfl, _, rfl, ?_⟩
      show (_ ∨ ¬ ∃ d ∈ flaconOut (restoringRead _), 65536 < d.length) ∧ ∃ img, restore (restoringRead _) (flaconOut
          (restoringRead _)) = some img
      rw [hr, ho.1]
      exact ⟨Or.inr (by rintro ⟨d, hd, hl⟩; cases hd; omega), ho.2⟩
  · exact by (try dsimp only); (try delta State.Admits State.Hears State.InOrder); decide +kernel

theorem witness_FrameMakingCommandsComplete :
    (let s : State := { on with atom := { on.atom with evRing := [ev0] } }; let t : Tick := late; let w := s.advance t;
      let evs := w.atom.evRing; evs ≠ [] ∧ w.active = true ∧ (4096 ≤ evs.length ∨ w.held w.atom.evRingAt (w.p K.atomEventHoldUs) = true)) ∧
    (let s : State := { on with atom := { on.atom with sessions := [{ sess with events := [ev0] }] } }; let t : Tick := late;
      let session : Nat := 0; let x : Session := { sess with events := [ev0] }; let w := s.advance t; let most := w.maxPayload x / 32;
      session ≠ 0xFFFE ∧ w.session session = some x ∧ x.events ≠ [] ∧ x.closing = none ∧ w.sessionLive x = true ∧
      (most ≤ x.events.length ∨ w.held x.eventsAt (w.p K.atomEventHoldUs) = true)) ∧
    (let s : State := { on with atom := { on.atom with sessions := [{ sess with streams := [(2, 0, [bts [0]])] }] } };
      let t : Tick := late; let session : Nat := 0; let kind : Nat := 2; let x : Session := { sess with streams := [(2, 0, [bts [0]])] };
      let at_ : Tick := 0; let items : List (List Byte) := [bts [0]]; let w := s.advance t; let r := takeItems (w.maxPayload x) items;
      w.session session = some x ∧ x.closing = none ∧ w.sessionLive x = true ∧ w.eventDue x = false ∧ kind ≠ 5 ∧
      x.streams.find? (fun e => e.1 == kind) = some (kind, at_, items) ∧ r.1 ≠ [] ∧
      (r.2 ≠ [] ∨ w.held at_ (w.p K.atomStreamHoldUs) = true)) ∧
    (let s : State := { on with atom := { on.atom with sessions := [sess] } }; let t : Tick := 0; let session : Nat := 0;
      let x : Session := sess; let w := s.advance t; w.session session = some x ∧ x.closing = none ∧ w.sessionLive x = true ∧
      w.eventDue x = false) ∧
    (let s : State := { (onP [(K.atomKeepaliveMs, 100)]) with atom := { on.atom with sessions := [sess] } }; let t : Tick := late;
      let session : Nat := 0; let x : Session := sess; let w := s.advance t; w.session session = some x ∧ w.p K.atomKeepaliveMs ≠ 0 ∧
      x.closing = none ∧ w.sessionLive x = true ∧ x.lastFrame + msT (w.p K.atomKeepaliveMs) ≤ w.now) ∧
    (let s : State := { on with atom := { on.atom with sessions := [{ sess with closing := some rid }] } }; let t : Tick := 0;
      let session : Nat := 0; let x : Session := { sess with closing := some rid }; let id : ReqId := rid; let w := s.advance t;
      w.session session = some x ∧ x.closing = some id ∧ w.sessionQueued session = false) := by
  refine ⟨?_, ?_, ?_, ?_, ?_, ?_⟩
  · exact by (try dsimp only); (try delta State.Admits State.Hears State.InOrder); decide +kernel
  · exact by (try dsimp only); (try delta State.Admits State.Hears State.InOrder); decide +kernel
  · exact by (try dsimp only); (try delta State.Admits State.Hears State.InOrder); decide +kernel
  · exact by (try dsimp only); (try delta State.Admits State.Hears State.InOrder); decide +kernel
  · exact by (try dsimp only); (try delta State.Admits State.Hears State.InOrder); decide +kernel
  · exact by (try dsimp only); (try delta State.Admits State.Hears State.InOrder); decide +kernel

theorem witness_FrameSendingCommandsComplete :
    (let s : State := on; let t : Tick := 0; let path : Nat := 16; let w := s.advance t; 16 ≤ path ∧ w.active = true) ∧
    (let s : State := on; let t : Tick := 0; let path : Nat := 2; let w := s.advance t; path < 3 ∧ w.portRuns path = true ∧
      w.atom.datagrams = []) ∧
    (let s : State := onP [(K.atomNetMode, 1)]; let t : Tick := 0; let path : Nat := 0; let w := s.advance t; path < 2 ∧
      w.portRuns path = true) ∧
    (let s : State := { on with atom := { on.atom with ports := List.replicate 3 { link := true }, datagrams := [(noPeer, (noPeer, []))] } };
      let t : Tick := 0; let path : Nat := 2; let w := s.advance t; let d := (noPeer, (noPeer, [])); let rest := []; path = 2 ∧
      w.portRuns 2 = true ∧ w.atom.datagrams = d :: rest ∧ (w.port 2).link = true) ∧
    (let s : State := { on with atom := { on.atom with datagrams := [(noPeer, (noPeer, []))] } }; let t : Tick := 0; let path : Nat := 2;
      let w := s.advance t; let d := (noPeer, (noPeer, [])); let rest := []; path = 2 ∧ w.portRuns 2 = true ∧ w.atom.datagrams = d :: rest ∧
      (w.port 2).link = false) ∧
    (let s : State := { on with sill := { on.sill with gaps := [{ start := 0, stop := 9, firstCol := 0, cols := 1, tier := 2, cause := 0, tiles := 1 }] }, atom := { on.atom with jobs := [{ rjob with tier := 2 }] } };
      let t : Tick := 0; let job : Nat := 0; let overwritten : Bool := false; let j : RetrJob := { rjob with tier := 2 };
      let w := s.advance t; w.atom.jobs[job]? = some j ∧ j.cancelled = false ∧ w.domainRuns 6 = true ∧ w.jobReady j = true ∧
      w.atom.retrAt ≤ w.now ∧ (w.atom.jobs.take job).any w.jobReady = false) ∧
    (let s : State := { on with atom := { on.atom with jobs := [rjob] } }; let t : Tick := 0; let job : Nat := 0;
      let overwritten : Bool := false; let j : RetrJob := rjob; let w := s.advance t; w.atom.jobs[job]? = some j ∧ j.cancelled = false ∧
      w.domainRuns 6 = true ∧ w.jobReady j = false) ∧
    (let s : State := { on with atom := { on.atom with jobs := [{ rjob with cancelled := true }] } }; let t : Tick := 0;
      let job : Nat := 0; let j : RetrJob := { rjob with cancelled := true }; let w := s.advance t; w.atom.jobs[job]? = some j ∧
      w.jobWaits j = false ∧ (j.cancelled = true ∨ w.jobDone j = true) ∧ j.target ≠ 0) ∧
    (let s : State := { on with atom := { on.atom with jobs := [{ rjob with target := 0, cancelled := true }] } }; let t : Tick := 0;
      let job : Nat := 0; let j : RetrJob := { rjob with target := 0, cancelled := true }; let w := s.advance t;
      let st : Status := if j.cancelled then .aborted else .ok; let u := (w.ringFrame 6 (j.endBytes st) false).ringWrite 33;
      w.atom.jobs[job]? = some j ∧ w.jobWaits j = false ∧ (j.cancelled = true ∨ w.jobDone j = true) ∧ j.target = 0 ∧
      (u.ring 33).queue = []) := by
  refine ⟨?_, ?_, ?_, ?_, ?_, ?_, ?_, ?_, ?_⟩
  · exact by (try dsimp only); (try delta State.Admits State.Hears State.InOrder); decide +kernel
  · exact by (try dsimp only); (try delta State.Admits State.Hears State.InOrder); decide +kernel
  · exact by (try dsimp only); (try delta State.Admits State.Hears State.InOrder); decide +kernel
  · exact by (try dsimp only); (try delta State.Admits State.Hears State.InOrder); decide +kernel
  · exact by (try dsimp only); (try delta State.Admits State.Hears State.InOrder); decide +kernel
  · exact by (try dsimp only); (try delta State.Admits State.Hears State.InOrder); decide +kernel
  · exact by (try dsimp only); (try delta State.Admits State.Hears State.InOrder); decide +kernel
  · exact by (try dsimp only); (try delta State.Admits State.Hears State.InOrder); decide +kernel
  · exact by (try dsimp only); (try delta State.Admits State.Hears State.InOrder); decide +kernel

theorem witness_RingAndPortCommandsComplete :
    (let s : State := on; let t : Tick := 0; let ring : Nat := 0; let v : Word := 1; let w := s.advance t; w.clk.pcie = true) ∧
    (let s : State := { on with clk := { on.clk with pcie := false } }; let t : Tick := 0; let ring : Nat := 0; let v : Word := 1;
      let w := s.advance t; w.clk.pcie = false) ∧
    (let s : State := { on with atom := { on.atom with rings := [{ intHeld := true }] } }; let t : Tick := 0; let ring : Nat := 0;
      let w := s.advance t; (w.ring ring).intHeld = true ∧ w.ringSpaced (w.ring ring) = true) ∧
    (let s : State := { (onP [(K.atomPrpEn, 1), (K.atomNetMode, 1), (K.atomNetMode + 1, 1)]) with atom := { on.atom with ports := List.replicate 3 { link := true }, prpNodes := [(5, 3, 0)] } };
      let t : Tick := 0; let port : Nat := 1; let kind : Nat := 0; let addr : Nat := 0; let src : Nat := 7;
      let rct : Option (Nat × Nat × Nat) := some (5, 3, 11); let w := s.advance t;
      let r := match rct with | some (node, n, lan) => if port < 2 && w.pB K.atomPrpEn then w.prpReceive port node n lan else (w, false) | none => (w, false);
      port < 3 ∧ w.portRuns port = true ∧ (w.port port).link = true ∧ r.2 = true) ∧
    (let s : State := { (on) with atom := { on.atom with ports := List.replicate 3 { link := true }, resolved := [(2, 7)] } };
      let t : Tick := 0; let port : Nat := 2; let kind : Nat := 0; let addr : Nat := on.portV6 2; let src : Nat := 7;
      let rct : Option (Nat × Nat × Nat) := none; let w := s.advance t;
      let r := match rct with | some (node, n, lan) => if port < 2 && w.pB K.atomPrpEn then w.prpReceive port node n lan else (w, false) | none => (w, false);
      let u := r.1; port < 3 ∧ w.portRuns port = true ∧ (w.port port).link = true ∧ r.2 = false ∧ u.portRuns port = true ∧
      (u.port port).link = true ∧ kind < 3 ∧ (u.portAddrs port).contains addr = true ∧ u.atom.resolved.contains (port, src) = true) ∧
    (let s : State := { (on) with atom := { on.atom with ports := List.replicate 3 { link := true } } }; let t : Tick := 0;
      let port : Nat := 2; let kind : Nat := 0; let addr : Nat := on.portV6 2; let src : Nat := 7;
      let rct : Option (Nat × Nat × Nat) := none; let w := s.advance t;
      let r := match rct with | some (node, n, lan) => if port < 2 && w.pB K.atomPrpEn then w.prpReceive port node n lan else (w, false) | none => (w, false);
      let u := r.1; port < 3 ∧ w.portRuns port = true ∧ (w.port port).link = true ∧ r.2 = false ∧ u.portRuns port = true ∧
      (u.port port).link = true ∧ kind < 3 ∧ (u.portAddrs port).contains addr = true ∧ u.atom.resolved.contains (port, src) = false) ∧
    (let s : State := { (on) with atom := { on.atom with ports := List.replicate 3 { link := true }, sessions := [{ sess with transport := 1, ports := 4 }] } };
      let t : Tick := 0; let port : Nat := 2; let kind : Nat := 3; let addr : Nat := 0; let src : Nat := 7;
      let rct : Option (Nat × Nat × Nat) := none; let w := s.advance t;
      let r := match rct with | some (node, n, lan) => if port < 2 && w.pB K.atomPrpEn then w.prpReceive port node n lan else (w, false) | none => (w, false);
      let u := r.1; port < 3 ∧ w.portRuns port = true ∧ (w.port port).link = true ∧ r.2 = false ∧ u.portRuns port = true ∧
      (u.port port).link = true ∧ kind = 3 ∧
      u.atom.sessions.any (fun x => x.transport == 1 && bit x.ports port && (addr == 0 || x.dest == addr)) = true) ∧
    (let w := ({ (on) with atom := { on.atom with ports := List.replicate 3 { link := true } } } : State).advance 0; (2 : Nat) < 3 ∧
      w.portRuns 2 = true ∧ (w.port 2).link = true ∧ (1 : Nat) < 3 ∧ (w.portAddrs 2).contains 1 = false) ∧
    (let s : State := onP [(K.atomPrpEn, 1)]; let t : Tick := late; let w := s.advance t; w.pB K.atomPrpEn = true ∧ w.active = true ∧
      w.atom.prpAt + msT (w.p K.atomPrpLifecheckMs) ≤ w.now) := by
  refine ⟨?_, ?_, ?_, ?_, ?_, ?_, ?_, ?_, ?_⟩
  · exact by (try dsimp only); (try delta State.Admits State.Hears State.InOrder); decide +kernel
  · exact by (try dsimp only); (try delta State.Admits State.Hears State.InOrder); decide +kernel
  · exact by (try dsimp only); (try delta State.Admits State.Hears State.InOrder); decide +kernel
  · exact by (try dsimp only); (try delta State.Admits State.Hears State.InOrder); decide +kernel
  · exact by (try dsimp only); (try delta State.Admits State.Hears State.InOrder); decide +kernel
  · exact by (try dsimp only); (try delta State.Admits State.Hears State.InOrder); decide +kernel
  · exact by (try dsimp only); (try delta State.Admits State.Hears State.InOrder); decide +kernel
  · exact ⟨by decide, rfl, rfl, by decide, portAddrs_one _ _ (by decide)⟩
  · exact by (try dsimp only); (try delta State.Admits State.Hears State.InOrder); decide +kernel

theorem witness_DeviceTimeCommandsComplete :
    (let s : State := { (onP [(K.timePtpMode, 1), (K.timePtpPort, 2)]) with atom := { on.atom with ports := List.replicate 3 { link := true } }, time := { on.time with ptpMaster := some (0, 5), ptpState := 2 } };
      let t : Tick := 0; let port : Nat := 0; let domain : Nat := 0; let ipv6 : Bool := false; let master : Nat := 5;
      let quality : Nat := 7; let utc : Int := 37;
      let m : PtpMaster := { port := 0, master := 5, quality := 7, utcOffset := 37, at_ := 0 }; let w := s.advance t;
      let new : PtpMaster := { port := port, master := master, quality := quality, utcOffset := satI 32 utc, at_ := w.now };
      let all := new :: w.time.ptpForeign.filter fun x => !(x.port == port && x.master == master) && w.now < x.at_ + w.announceT && w.ptpPort x.port;
      w.p K.timePtpMode ≠ 0 ∧ w.ptpPort port = true ∧ domain = w.p K.timePtpDomain ∧ b2n ipv6 = w.p K.timePtpTransport ∧
      bestMaster all = some m ∧ w.time.ptpMaster = some (m.port, m.master) ∧ w.time.ptpState ≠ 0) ∧
    (let s : State := { (onP [(K.timePtpMode, 1), (K.timePtpPort, 2)]) with atom := { on.atom with ports := List.replicate 3 { link := true } }, time := { on.time with ptpState := 0 } };
      let t : Tick := 0; let port : Nat := 0; let domain : Nat := 0; let ipv6 : Bool := false; let master : Nat := 5;
      let quality : Nat := 7; let utc : Int := 37;
      let m : PtpMaster := { port := 0, master := 5, quality := 7, utcOffset := 37, at_ := 0 }; let w := s.advance t;
      let new : PtpMaster := { port := port, master := master, quality := quality, utcOffset := satI 32 utc, at_ := w.now };
      let all := new :: w.time.ptpForeign.filter fun x => !(x.port == port && x.master == master) && w.now < x.at_ + w.announceT && w.ptpPort x.port;
      w.p K.timePtpMode ≠ 0 ∧ w.ptpPort port = true ∧ domain = w.p K.timePtpDomain ∧ b2n ipv6 = w.p K.timePtpTransport ∧
      bestMaster all = some m ∧ (w.time.ptpMaster ≠ some (m.port, m.master) ∨ w.time.ptpState = 0)) ∧
    (let s : State := { (onP [(K.timePtpMode, 1), (K.timePtpPort, 2)]) with atom := { on.atom with ports := List.replicate 3 { link := true } }, time := { on.time with ptpMaster := some (0, 5), ptpState := 2 } };
      let t : Tick := 0; let offPs : Int := 5; let interval : Nat := 1000000000; let port : Nat := 0; let master : Nat := 5;
      let w := s.advance t; w.time.ptpMaster = some (port, master) ∧ w.p K.timePtpMode ≠ 0 ∧ w.ptpPort port = true) ∧
    (let v : State := { (onP [(K.timePtpMode, 1), (K.timePtpPort, 2)]) with atom := { on.atom with ports := List.replicate 3 { link := true } }, time := { on.time with ptpState := 1 } };
      let off : Int := 10 ^ 15; let big := (v.p K.timePtpStepNs : Int) * 1000 < (off.natAbs : Int); v.time.ptpState = 1 ∧ big ∧
      v.run.state = 0) ∧
    (let v : State := { ({ (onP [(K.timePtpMode, 1), (K.timePtpPort, 2)]) with run := { on.run with state := 1 } }) with atom := { on.atom with ports := List.replicate 3 { link := true } }, time := { on.time with ptpState := 1 } };
      let off : Int := 10 ^ 15; let big := (v.p K.timePtpStepNs : Int) * 1000 < (off.natAbs : Int); v.time.ptpState = 1 ∧ big ∧
      v.run.state ≠ 0) ∧
    (let v : State := { (onP [(K.timePtpMode, 1), (K.timePtpPort, 2)]) with atom := { on.atom with ports := List.replicate 3 { link := true } }, time := { on.time with ptpState := 1, ptpGood := 15 } };
      let off : Int := -1; let big := (v.p K.timePtpStepNs : Int) * 1000 < (off.natAbs : Int);
      let good := off.natAbs ≤ v.p K.timePtpLockNs * 1000;
      let u := v.ptpSteer.modTime fun b => { b with ptpGood := if decide good then b.ptpGood + 1 else 0 }; (v.time.ptpState ≠ 1 ∨ ¬ big) ∧
      u.time.ptpState = 1 ∧ 16 ≤ u.time.ptpGood) ∧
    (let v : State := { (onP [(K.timePtpMode, 1), (K.timePtpPort, 2)]) with atom := { on.atom with ports := List.replicate 3 { link := true } }, time := { on.time with ptpState := 2 } };
      let off : Int := 9 * 10 ^ 8; let big := (v.p K.timePtpStepNs : Int) * 1000 < (off.natAbs : Int);
      let good := off.natAbs ≤ v.p K.timePtpLockNs * 1000;
      let u := v.ptpSteer.modTime fun b => { b with ptpGood := if decide good then b.ptpGood + 1 else 0 }; (v.time.ptpState ≠ 1 ∨ ¬ big) ∧
      u.time.ptpState = 2 ∧ ¬ good) ∧
    (let v : State := { (onP [(K.timePtpMode, 1), (K.timePtpPort, 2)]) with atom := { on.atom with ports := List.replicate 3 { link := true } }, time := { on.time with ptpState := 2 } };
      let off : Int := 1; let big := (v.p K.timePtpStepNs : Int) * 1000 < (off.natAbs : Int);
      let good := off.natAbs ≤ v.p K.timePtpLockNs * 1000;
      let u := v.ptpSteer.modTime fun b => { b with ptpGood := if decide good then b.ptpGood + 1 else 0 }; (v.time.ptpState ≠ 1 ∨ ¬ big) ∧
      u.time.ptpState = 2 ∧ good) ∧
    (let s : State := { (onP [(K.timePtpMode, 1), (K.timePtpPort, 2)]) with atom := { on.atom with ports := List.replicate 3 { link := true } }, time := { on.time with ptpState := 2 } };
      let t : Tick := late; let w := s.advance t; w.time.ptpState = 2 ∧ w.time.ptpSyncAt + nsT (4 * w.time.ptpInterval) ≤ w.now) ∧
    (let s : State := on; let t : Tick := 0; let w := s.advance t; let d := clampI (-1000) 1000 (w.pI K.timeXaAgeingPpt - w.time.ageing);
      (d = 0 ∨ w.spaced w.time.ageAt (msT 1) = false)) ∧
    (let s : State := { (onP [(K.timeXaAgeingPpt, 500)]) with atom := { on.atom with ports := List.replicate 3 { link := true } }, time := { on.time with ptpState := 2 } };
      let t : Tick := 0; let w := s.advance t; let d := clampI (-1000) 1000 (w.pI K.timeXaAgeingPpt - w.time.ageing); d ≠ 0 ∧
      w.spaced w.time.ageAt (msT 1) = true ∧ w.time.ptpState = 2) ∧
    (let s : State := { (onP [(K.timeXaAgeingPpt, 500)]) with atom := { on.atom with ports := List.replicate 3 { link := true } }, time := { on.time with ptpState := 0 } };
      let t : Tick := 0; let w := s.advance t; let d := clampI (-1000) 1000 (w.pI K.timeXaAgeingPpt - w.time.ageing); d ≠ 0 ∧
      w.spaced w.time.ageAt (msT 1) = true ∧ w.time.ptpState ≠ 2) := by
  refine ⟨?_, ?_, ?_, ?_, ?_, ?_, ?_, ?_, ?_, ?_, ?_, ?_⟩
  · exact by (try dsimp only); (try delta State.Admits State.Hears State.InOrder); decide +kernel
  · exact by (try dsimp only); (try delta State.Admits State.Hears State.InOrder); decide +kernel
  · exact by (try dsimp only); (try delta State.Admits State.Hears State.InOrder); decide +kernel
  · exact by (try dsimp only); (try delta State.Admits State.Hears State.InOrder); decide +kernel
  · exact by (try dsimp only); (try delta State.Admits State.Hears State.InOrder); decide +kernel
  · exact by (try dsimp only); (try delta State.Admits State.Hears State.InOrder); decide +kernel
  · exact by (try dsimp only); (try delta State.Admits State.Hears State.InOrder); decide +kernel
  · exact by (try dsimp only); (try delta State.Admits State.Hears State.InOrder); decide +kernel
  · exact by (try dsimp only); (try delta State.Admits State.Hears State.InOrder); decide +kernel
  · exact by (try dsimp only); (try delta State.Admits State.Hears State.InOrder); decide +kernel
  · exact by (try dsimp only); (try delta State.Admits State.Hears State.InOrder); decide +kernel
  · exact by (try dsimp only); (try delta State.Admits State.Hears State.InOrder); decide +kernel

theorem witness_IntervalAndPairTimeCommandsComplete :
    (let s : State := on; let t : Tick := 0; let source : Nat := 0; let rising : Bool := true; let w := s.advance t;
      let v := w.modTime fun b => { b with tinHigh := setBit b.tinHigh source rising }; source < 8 ∧ rising = v.tiuDirection source) ∧
    (let s : State := on; let t : Tick := 0; let source : Nat := 10; let rising : Bool := true; let w := s.advance t; 10 ≤ source ∧
      source ≤ 14 ∧ rising = w.tiuDirection source) ∧
    (let s : State := on; let t : Tick := 0; let source : Nat := 16; let rising : Bool := true; let w := s.advance t; source = 16 ∧
      w.dev % 1000000000 = 0) ∧
    (let s : State := { (on : State) with time := { (on : State).time with tiu := some tj } }; let source : Nat := 3; let at_ : Tick := 0;
      let j : TiuJob := tj; let w := s.tiuTake; s.domainRuns 11 = true ∧ w.time.tiu = some j) ∧
    (let w : State := { (on : State) with time := { (on : State).time with lastEdge := [(3, 0)] } }; let source : Nat := 3;
      let at_ : Tick := 0; let j : TiuJob := tj;
      let early := match w.time.lastEdge.find? (fun e => e.1 == source) with | some e => decide (at_ < e.2 + psT 3000) | none => false;
      early = true) ∧
    (let w : State := on; let source : Nat := 3; let at_ : Tick := 0; let j : TiuJob := tj;
      let early := match w.time.lastEdge.find? (fun e => e.1 == source) with | some e => decide (at_ < e.2 + psT 3000) | none => false;
      early = false) ∧
    (let s : State := { (on : State) with time := { (on : State).time with tiu := some tj, tinHigh := 1 } }; let t : Tick := 0;
      let j : TiuJob := tj; let w := s.advance t; w.time.tiu = some j ∧ j.armed = none ∧ j.armFrom ≤ w.now ∧ (j.arm = 1 ∧ w.run.state = 1 ∧
      w.run.boundary = w.now) ∨ (j.arm = 2 ∧ w.dev % 1000000000 = 0) ∨ (j.arm = 3 ∧ bit w.time.tinHigh j.gate = true)) ∧
    (let s : State := { (on : State) with time := { (on : State).time with tiu := some { tj with armed := some 0 } } };
      let t : Tick := late; let j : TiuJob := { tj with armed := some 0 }; let a : Tick := 0; let w := (s.advance t).tiuTake;
      w.time.tiu = some j ∧ j.armed = some a ∧ a + msT j.timeoutMs ≤ w.now) ∧
    (let w := ({ (on : State) with time := { (on : State).time with tiu := some tj } } : State).advance 0; w.domainRuns 11 = true ∧
      (w.time.tableTemp = none ∨ (∃ x ∈ w.time.tableTemp, 20000 < ((5 : Int) - x).natAbs))) ∧
    (let s : State := onP [(K.timePairsyncEn, 1), (K.twinEnable, 1)]; let t : Tick := 0; let w := s.advance t; w.pairsync = true ∧
      w.dev % 1000000000 = 500000000 * w.twinId) ∧
    (let s : State := { (onP [(K.timePairsyncEn, 1), (K.twinEnable, 1)] : State) with time := { (onP [(K.timePairsyncEn, 1), (K.twinEnable, 1)] : State).time with dev := 500000000 * 2 ^ 32 } };
      let t : Tick := 0; let w := s.advance t; let d := w.dev + 1000000000 - (if w.twinId == 1 then 0 else 500000000) + 1000000;
      let sec := d / 1000000000 - 1; let u := w.tiuEdge 15 w.now; let stamp := u.dev16 u.now;
      let v := (u.psSecond sec).modTime fun b => { b with psOwn := some stamp }; w.pairsync = true ∧ w.time.psIgnore ≤ w.now ∧
      d % 1000000000 ≤ 2000000 ∧ 1001000000 ≤ d ∧ v.twin.link < 2) ∧
    (let s : State := { ({ (onP [(K.timePairsyncEn, 1), (K.twinEnable, 1)] : State) with time := { (onP [(K.timePairsyncEn, 1), (K.twinEnable, 1)] : State).time with dev := 500000000 * 2 ^ 32 } } : State) with twin := { ({ (onP [(K.timePairsyncEn, 1), (K.twinEnable, 1)] : State) with time := { (onP [(K.timePairsyncEn, 1), (K.twinEnable, 1)] : State).time with dev := 500000000 * 2 ^ 32 } } : State).twin with link := 2 } };
      let t : Tick := 0; let w := s.advance t; let d := w.dev + 1000000000 - (if w.twinId == 1 then 0 else 500000000) + 1000000;
      let sec := d / 1000000000 - 1; let u := w.tiuEdge 15 w.now; let stamp := u.dev16 u.now;
      let v := (u.psSecond sec).modTime fun b => { b with psOwn := some stamp }; w.pairsync = true ∧ w.time.psIgnore ≤ w.now ∧
      d % 1000000000 ≤ 2000000 ∧ 1001000000 ≤ d ∧ 2 ≤ v.twin.link) ∧
    (let s : State := { (onP [(K.timePairsyncEn, 1), (K.twinEnable, 1)] : State) with time := { (onP [(K.timePairsyncEn, 1), (K.twinEnable, 1)] : State).time with dev := 900000000 * 2 ^ 32, psDone := some 0 } };
      let t : Tick := 0; let w := s.advance t; let had := w.time.psDone = some (w.dev / 1000000000); w.pairsync = true ∧
      900000000 ≤ w.dev % 1000000000 ∧ had) ∧
    (let s : State := { (onP [(K.timePairsyncEn, 1), (K.twinEnable, 1)] : State) with time := { (onP [(K.timePairsyncEn, 1), (K.twinEnable, 1)] : State).time with dev := 900000000 * 2 ^ 32, psMiss := 3 } };
      let t : Tick := 0; let w := s.advance t; let had := w.time.psDone = some (w.dev / 1000000000);
      let v := w.modTime fun b => { b with psAge := min (b.psAge + 1) 0xFFFFFFFF, psMiss := b.psMiss + 1, psOwn := none, psPeer := none };
      w.pairsync = true ∧ 900000000 ≤ w.dev % 1000000000 ∧ ¬ had ∧ 3 ≤ v.time.psMiss ∧ v.time.psRaised = false) ∧
    (let s : State := { (onP [(K.timePairsyncEn, 1), (K.twinEnable, 1)] : State) with time := { (onP [(K.timePairsyncEn, 1), (K.twinEnable, 1)] : State).time with dev := 900000000 * 2 ^ 32 } };
      let t : Tick := 0; let w := s.advance t; let had := w.time.psDone = some (w.dev / 1000000000);
      let v := w.modTime fun b => { b with psAge := min (b.psAge + 1) 0xFFFFFFFF, psMiss := b.psMiss + 1, psOwn := none, psPeer := none };
      w.pairsync = true ∧ 900000000 ≤ w.dev % 1000000000 ∧ ¬ had ∧ (v.time.psMiss < 3 ∨ v.time.psRaised = true)) := by
  refine ⟨?_, ?_, ?_, ?_, ?_, ?_, ?_, ?_, ?_, ?_, ?_, ?_, ?_, ?_, ?_⟩
  · exact by (try dsimp only); (try delta State.Admits State.Hears State.InOrder); decide +kernel
  · exact by (try dsimp only); (try delta State.Admits State.Hears State.InOrder); decide +kernel
  · exact by (try dsimp only); (try delta State.Admits State.Hears State.InOrder); decide +kernel
  · exact by (try dsimp only); (try delta State.Admits State.Hears State.InOrder); decide +kernel
  · exact by (try dsimp only); (try delta State.Admits State.Hears State.InOrder); decide +kernel
  · exact by (try dsimp only); (try delta State.Admits State.Hears State.InOrder); decide +kernel
  · exact by (try dsimp only); (try delta State.Admits State.Hears State.InOrder); decide +kernel
  · exact by (try dsimp only); (try delta State.Admits State.Hears State.InOrder); decide +kernel
  · exact ⟨by decide +kernel, Or.inl rfl⟩
  · exact by (try dsimp only); (try delta State.Admits State.Hears State.InOrder); decide +kernel
  · exact by (try dsimp only); (try delta State.Admits State.Hears State.InOrder); decide +kernel
  · exact by (try dsimp only); (try delta State.Admits State.Hears State.InOrder); decide +kernel
  · exact by (try dsimp only); (try delta State.Admits State.Hears State.InOrder); decide +kernel
  · exact by (try dsimp only); (try delta State.Admits State.Hears State.InOrder); decide +kernel
  · exact by (try dsimp only); (try delta State.Admits State.Hears State.InOrder); decide +kernel

theorem witness_MemoryCommandsComplete :
    (let s : State := on; let t : Tick := 0; let master : Nat := 0; let addr : Nat := 64; let len : Nat := 8;
      let errs : List WordErr := [{ word := 0, data := 0, check := 1 }]; let w := (s.advance t).woken [6]; w.domainRuns 6 = true ∧
      master ≤ 6 ∧ len ≠ 0 ∧ w.usable addr len = true ∧ w.protOk master addr len false = true) ∧
    (let s : State := { on with memc := { on.memc with fittedMib := 0 } }; let t : Tick := 0; let master : Nat := 0; let addr : Nat := 0;
      let len : Nat := 8; let errs : List WordErr := []; let w := (s.advance t).woken [6]; w.domainRuns 6 = true ∧ master ≤ 6 ∧ len ≠ 0 ∧
      (w.usable addr len = false ∨ w.protOk master addr len false = false) ∧ master ≠ mDisplay) ∧
    (let s : State := { on with prot := { on.prot with masters := [] } }; let t : Tick := 0; let master : Nat := mDisplay;
      let addr : Nat := 64; let len : Nat := 8; let errs : List WordErr := [{ word := 0, data := 0, check := 1 }];
      let w := (s.advance t).woken [6]; w.domainRuns 6 = true ∧ master ≤ 6 ∧ len ≠ 0 ∧
      (w.usable addr len = false ∨ w.protOk master addr len false = false) ∧ master = mDisplay) ∧
    (let s : State := { (on : State) with memc := { (on : State).memc with reread := [(0, 0, 8, 1)] } }; let t : Tick := 0;
      let errs : List WordErr := [{ word := 0, data := 0, check := 3 }]; let late : Bool := true; let master : Nat := 0; let a : Nat := 0;
      let len : Nat := 8; let left : Nat := 1; let rest : List (Nat × Nat × Nat × Nat) := []; let w := s.advance t;
      let r := readFinds a len errs; w.memc.reread = (master, a, len, left) :: rest ∧ r = .uncorrectable ∧ left ≤ 1) ∧
    (let s : State := { (on : State) with memc := { (on : State).memc with reread := [(0, 0, 8, 2)] } }; let t : Tick := 0;
      let errs : List WordErr := [{ word := 0, data := 0, check := 3 }]; let late : Bool := true; let master : Nat := 0; let a : Nat := 0;
      let len : Nat := 8; let left : Nat := 2; let rest : List (Nat × Nat × Nat × Nat) := []; let w := s.advance t;
      let r := readFinds a len errs; w.memc.reread = (master, a, len, left) :: rest ∧ r = .uncorrectable ∧ 1 < left) ∧
    (let s : State := { (on : State) with memc := { (on : State).memc with reread := [(0, 0, 8, 1)] } }; let t : Tick := 0;
      let errs : List WordErr := [{ word := 0, data := 0, check := 1 }]; let late : Bool := true; let master : Nat := 0; let a : Nat := 0;
      let len : Nat := 8; let left : Nat := 1; let rest : List (Nat × Nat × Nat × Nat) := []; let w := s.advance t;
      let r := readFinds a len errs; w.memc.reread = (master, a, len, left) :: rest ∧ r ≠ .uncorrectable ∧ late = true) ∧
    (let s : State := { (on : State) with memc := { (on : State).memc with reread := [(0, 0, 8, 1)] } }; let t : Tick := 0;
      let errs : List WordErr := []; let late : Bool := false; let master : Nat := 0; let a : Nat := 0; let len : Nat := 8;
      let left : Nat := 1; let rest : List (Nat × Nat × Nat × Nat) := []; let w := s.advance t; let r := readFinds a len errs;
      w.memc.reread = (master, a, len, left) :: rest ∧ r ≠ .uncorrectable ∧ late = false) ∧
    (let s : State := on; let t : Tick := 0; let errs : List WordErr := []; let w := (s.advance t).woken [6]; let a := w.memc.scrubAt;
      let r := readFinds a 8 errs; w.domainRuns 6 = true ∧ w.memc.fillLeft = [] ∧ w.usableMib ≠ 0 ∧ r = .clean) ∧
    (let s : State := on; let t : Tick := 0; let errs : List WordErr := [{ word := 0, data := 0, check := 1 }];
      let w := (s.advance t).woken [6]; let a := w.memc.scrubAt; let r := readFinds a 8 errs; w.domainRuns 6 = true ∧ w.memc.fillLeft = [] ∧
      w.usableMib ≠ 0 ∧ r = .single) ∧
    (let s : State := onP [(K.memcRereadMax, 0)]; let t : Tick := 0; let errs : List WordErr := [{ word := 0, data := 0, check := 3 }];
      let w := (s.advance t).woken [6]; let a := w.memc.scrubAt;
      let v := (w.issued 7 a).modMemc fun m => { m with scrubAt := (a + 8) % (w.usableMib * PS.mib) }; let r := readFinds a 8 errs;
      w.domainRuns 6 = true ∧ w.memc.fillLeft = [] ∧ w.usableMib ≠ 0 ∧ r = .uncorrectable ∧ v.p K.memcRereadMax = 0) ∧
    (let s : State := onP [(K.memcRereadMax, 1)]; let t : Tick := 0; let errs : List WordErr := [{ word := 0, data := 0, check := 3 }];
      let w := (s.advance t).woken [6]; let a := w.memc.scrubAt;
      let v := (w.issued 7 a).modMemc fun m => { m with scrubAt := (a + 8) % (w.usableMib * PS.mib) }; let r := readFinds a 8 errs;
      w.domainRuns 6 = true ∧ w.memc.fillLeft = [] ∧ w.usableMib ≠ 0 ∧ r = .uncorrectable ∧ v.p K.memcRereadMax ≠ 0) ∧
    (let s : State := { (on : State) with memc := { (on : State).memc with fillLeft := [(3, 5)] } }; let t : Tick := 0; let lo : Nat := 3;
      let hi : Nat := 5; let rest : List (Nat × Nat) := []; let w := s.advance t; w.memc.fillLeft = (lo, hi) :: rest ∧
      w.domainRuns 6 = true) ∧
    (let s : State := { (on : State) with memc := { (on : State).memc with postponed := [((1 * 2 + 1) * 8 + 2, 7)] } }; let t : Tick := 0;
      let sc : Nat := 1; let rank : Nat := 1; let bank : Nat := 2; let w := s.advance t; let k := (sc * 2 + rank) * 8 + bank;
      let n := aget 0 w.memc.postponed k; w.memc.power = 1 ∧ sc ≤ 3 ∧ rank < w.memc.ranks ∧ bank ≤ 7 ∧ n < 8) ∧
    (let s : State := { (on : State) with memc := { (on : State).memc with postponed := [((1 * 2 + 1) * 8 + 2, 8)] } }; let t : Tick := 0;
      let sc : Nat := 1; let rank : Nat := 1; let bank : Nat := 2; let w := s.advance t; let k := (sc * 2 + rank) * 8 + bank;
      let n := aget 0 w.memc.postponed k; w.memc.power = 1 ∧ sc ≤ 3 ∧ rank < w.memc.ranks ∧ bank ≤ 7 ∧ 8 ≤ n) ∧
    (let s : State := on; let t : Tick := 0; let sc : Nat := 3; let rank : Nat := 1; let bank : Nat := 7; let w := s.advance t;
      w.memc.power = 1 ∧ sc ≤ 3 ∧ rank < w.memc.ranks ∧ bank ≤ 7) ∧
    (let s : State := on; let t : Tick := 0; let codes : List Nat := [3]; let w := s.advance t; w.memc.power = 1 ∧ codes ≠ [] ∧
      w.spaced w.memc.mr4At (msT 16) = true) ∧
    (let s : State := on; let t : Tick := 0; let drift : List Int := [9]; let w := s.advance t; w.memc.power = 1 ∧ 3 ≤ w.clk.mode ∧
      w.spaced w.memc.trackAt (msT (w.p K.memcTrackMs)) = true) ∧
    (let s : State := on; let t : Tick := 0; let w := s.advance t; w.spaced w.memc.ceHourAt (secT 3600) = true) := by
  refine ⟨?_, ?_, ?_, ?_, ?_, ?_, ?_, ?_, ?_, ?_, ?_, ?_, ?_, ?_, ?_, ?_, ?_, ?_⟩
  · exact by (try dsimp only); (try delta State.Admits State.Hears State.InOrder); decide +kernel
  · exact by (try dsimp only); (try delta State.Admits State.Hears State.InOrder); decide +kernel
  · exact by (try dsimp only); (try delta State.Admits State.Hears State.InOrder); decide +kernel
  · exact by (try dsimp only); (try delta State.Admits State.Hears State.InOrder); decide +kernel
  · exact by (try dsimp only); (try delta State.Admits State.Hears State.InOrder); decide +kernel
  · exact by (try dsimp only); (try delta State.Admits State.Hears State.InOrder); decide +kernel
  · exact by (try dsimp only); (try delta State.Admits State.Hears State.InOrder); decide +kernel
  · exact by (try dsimp only); (try delta State.Admits State.Hears State.InOrder); decide +kernel
  · exact by (try dsimp only); (try delta State.Admits State.Hears State.InOrder); decide +kernel
  · exact by (try dsimp only); (try delta State.Admits State.Hears State.InOrder); decide +kernel
  · exact by (try dsimp only); (try delta State.Admits State.Hears State.InOrder); decide +kernel
  · exact by (try dsimp only); (try delta State.Admits State.Hears State.InOrder); decide +kernel
  · exact by (try dsimp only); (try delta State.Admits State.Hears State.InOrder); decide +kernel
  · exact by (try dsimp only); (try delta State.Admits State.Hears State.InOrder); decide +kernel
  · exact by (try dsimp only); (try delta State.Admits State.Hears State.InOrder); decide +kernel
  · exact by (try dsimp only); (try delta State.Admits State.Hears State.InOrder); decide +kernel
  · exact by (try dsimp only); (try delta State.Admits State.Hears State.InOrder); decide +kernel
  · exact by (try dsimp only); (try delta State.Admits State.Hears State.InOrder); decide +kernel

theorem witness_LinkFramesComplete :
    (let s : State := { (onP [(K.twinEnable, 1)] : State) with twin := { (onP [(K.twinEnable, 1)] : State).twin with link := 1 } };
      let t : Tick := 0; let h : LinkHdr := { ident := 1, resync := false, lseq := 1, ack := 0, sendTime := 0 };
      let leaving : Bool := false; let caps : Nat := 0; let hold : Nat := 0; let loss : Nat := 0; let dark : List Nat := [];
      let w := s.advance t; w.twin.link ≠ 0 ∧ w.lane = true ∧ (h.ident = w.twinId ∨ hold ≠ w.p K.twinHoldMs ∨ loss ≠ w.p K.twinHbLossUs) ∧
      w.twin.conflictTold = false) ∧
    (let s : State := { (onP [(K.twinEnable, 1)] : State) with twin := { (onP [(K.twinEnable, 1)] : State).twin with link := 1 } };
      let t : Tick := 0; let h : LinkHdr := { ident := 1, resync := false, lseq := 1, ack := 0, sendTime := 0 };
      let leaving : Bool := false; let caps : Nat := 0; let hold : Nat := PS.g on.running K.twinHoldMs;
      let loss : Nat := PS.g on.running K.twinHbLossUs; let dark : List Nat := []; let w := s.advance t; h.ident ≠ w.twinId ∧
      hold = w.p K.twinHoldMs ∧ loss = w.p K.twinHbLossUs ∧ w.twin.link = 1 ∧ w.lane = true ∧ leaving = false) ∧
    (let s : State := { (onP [(K.twinEnable, 1)] : State) with twin := { (onP [(K.twinEnable, 1)] : State).twin with link := 3, peerAt := some 0 } };
      let t : Tick := 0; let h : LinkHdr := { ident := 1, resync := false, lseq := 1, ack := 0, sendTime := 0 };
      let leaving : Bool := false; let caps : Nat := 0; let hold : Nat := PS.g on.running K.twinHoldMs;
      let loss : Nat := PS.g on.running K.twinHbLossUs; let dark : List Nat := []; let w := s.advance t; h.ident ≠ w.twinId ∧
      hold = w.p K.twinHoldMs ∧ loss = w.p K.twinHbLossUs ∧ w.Hears h ∧ leaving = false) ∧
    (let s : State := { (onP [(K.twinEnable, 1)] : State) with twin := { (onP [(K.twinEnable, 1)] : State).twin with link := 3, peerAt := some 0 } };
      let t : Tick := 0; let h : LinkHdr := { ident := 1, resync := false, lseq := 1, ack := 0, sendTime := 0 };
      let leaving : Bool := true; let caps : Nat := 0; let hold : Nat := PS.g on.running K.twinHoldMs;
      let loss : Nat := PS.g on.running K.twinHbLossUs; let dark : List Nat := []; let w := s.advance t; h.ident ≠ w.twinId ∧
      hold = w.p K.twinHoldMs ∧ loss = w.p K.twinHbLossUs ∧ w.Hears h ∧ leaving = true) ∧
    (let s : State := { (onP [(K.twinEnable, 1)] : State) with twin := { (onP [(K.twinEnable, 1)] : State).twin with link := 3, peerAt := some 0 } };
      let t : Tick := 0; let h : LinkHdr := { ident := 1, resync := false, lseq := 1, ack := 0, sendTime := 0 }; let w := s.advance t;
      let recs : List EventRec := [ev0]; w.Hears h ∧ w.InOrder h) ∧
    (let s : State := { (onP [(K.twinEnable, 1)] : State) with twin := { (onP [(K.twinEnable, 1)] : State).twin with link := 3, peerAt := some 0 } };
      let t : Tick := 0; let h : LinkHdr := { ident := 1, resync := false, lseq := 1, ack := 0, sendTime := 0 }; let w := s.advance t;
      let first : Nat := 0; let next : List Nat := [1]; w.Hears h ∧ w.InOrder h) ∧
    (let s : State := { (onP [(K.twinEnable, 1)] : State) with twin := { (onP [(K.twinEnable, 1)] : State).twin with link := 3, peerAt := some 0 } };
      let t : Tick := 0; let h : LinkHdr := { ident := 1, resync := false, lseq := 1, ack := 0, sendTime := 0 }; let w := s.advance t;
      let first : Nat := 0; let entries : List Nat := [1]; w.Hears h ∧ w.InOrder h) ∧
    (let s : State := { ({ (onP [(K.twinEnable, 1)] : State) with twin := { (onP [(K.twinEnable, 1)] : State).twin with link := 3, peerAt := some 0 } } : State) with zones := [(0, { desc := some { zd with owner := 0 }, paired := true })] };
      let t : Tick := 0; let h : LinkHdr := { ident := 1, resync := false, lseq := 1, ack := 0, sendTime := 0 }; let w := s.advance t;
      let v := w.heard h; let zone : Nat := 0; let next : Nat := 4; w.Hears h ∧ w.InOrder h ∧ v.twin.link = 3 ∧ v.ownsZone zone = true ∧
      (v.zone zone).paired = true) ∧
    (let s : State := { ({ (onP [(K.twinEnable, 1)] : State) with twin := { (onP [(K.twinEnable, 1)] : State).twin with link := 3, peerAt := some 0 } } : State) with zones := [(0, { desc := some { zd with owner := 0 }, handing := true })] };
      let t : Tick := 0; let h : LinkHdr := { ident := 1, resync := false, lseq := 1, ack := 0, sendTime := 0 }; let w := s.advance t;
      let v := w.heard h; let zone : Nat := 0; w.Hears h ∧ w.InOrder h ∧ (v.zone zone).handing = true) ∧
    (let s : State := { (onP [(K.twinEnable, 1)] : State) with twin := { (onP [(K.twinEnable, 1)] : State).twin with link := 3, peerAt := some 0 } };
      let t : Tick := 0; let h : LinkHdr := { ident := 1, resync := false, lseq := 1, ack := 0, sendTime := 0 }; let w := s.advance t;
      let v := w.heard h; w.Hears h ∧ w.InOrder h ∧ v.twin.link = 3) ∧
    (let s : State := { (onP [(K.twinEnable, 1)] : State) with twin := { (onP [(K.twinEnable, 1)] : State).twin with link := 2, peerAt := some 0 } };
      let t : Tick := 0; let h : LinkHdr := { ident := 1, resync := false, lseq := 1, ack := 0, sendTime := 0 }; let w := s.advance t;
      let v := w.heard h; w.Hears h ∧ w.InOrder h ∧ v.twin.link ≠ 3) ∧
    (let s : State := { (onP [(K.timePairsyncEn, 1), (K.twinEnable, 1)] : State) with twin := { (onP [(K.timePairsyncEn, 1), (K.twinEnable, 1)] : State).twin with link := 3, peerAt := some 0 } };
      let t : Tick := 0; let h : LinkHdr := { ident := 1, resync := false, lseq := 1, ack := 0, sendTime := 0 }; let sec : Nat := 0;
      let stamp : Nat := 7; let frac : Nat := 1; let w := s.advance t; let v := w.heardAny h; w.Hears h ∧ v.pairsync = true ∧
      v.dev % 1000000000 < 900000000 ∧ sec = v.dev / 1000000000) := by
  refine ⟨?_, ?_, ?_, ?_, ?_, ?_, ?_, ?_, ?_, ?_, ?_, ?_⟩
  · exact by (try dsimp only); (try delta State.Admits State.Hears State.InOrder); decide +kernel
  · exact by (try dsimp only); (try delta State.Admits State.Hears State.InOrder); decide +kernel
  · exact by (try dsimp only); (try delta State.Admits State.Hears State.InOrder); decide +kernel
  · exact by (try dsimp only); (try delta State.Admits State.Hears State.InOrder); decide +kernel
  · exact by (try dsimp only); (try delta State.Admits State.Hears State.InOrder); decide +kernel
  · exact by (try dsimp only); (try delta State.Admits State.Hears State.InOrder); decide +kernel
  · exact by (try dsimp only); (try delta State.Admits State.Hears State.InOrder); decide +kernel
  · exact by (try dsimp only); (try delta State.Admits State.Hears State.InOrder); decide +kernel
  · exact by (try dsimp only); (try delta State.Admits State.Hears State.InOrder); decide +kernel
  · exact by (try dsimp only); (try delta State.Admits State.Hears State.InOrder); decide +kernel
  · exact by (try dsimp only); (try delta State.Admits State.Hears State.InOrder); decide +kernel
  · exact by (try dsimp only); (try delta State.Admits State.Hears State.InOrder); decide +kernel

theorem witness_LinkTimersAndOwnershipComplete :
    (let s : State := onP [(K.twinEnable, 1)]; let t : Tick := 0; let w := s.advance t; w.lane = true) ∧
    (let s : State := { (onP [(K.twinEnable, 1)] : State) with twin := { (onP [(K.twinEnable, 1)] : State).twin with link := 1 } };
      let t : Tick := late; let w := s.advance t; w.lane = true ∧ w.twin.link ≠ 0 ∧ w.sys.resetDue = none ∧
      w.twin.hbSent + usT (w.p K.twinHbUs) ≤ w.now) ∧
    (let s : State := { (onP [(K.twinEnable, 1)] : State) with twin := { (onP [(K.twinEnable, 1)] : State).twin with link := 3, peerAt := some 0 } };
      let t : Tick := late; let w := s.advance t; let a := 0; w.twin.peerAt = some a ∧ 2 ≤ w.twin.link ∧
      a + usT (w.p K.twinHbLossUs) ≤ w.now) ∧
    (let s : State := { (onP [(K.twinEnable, 1)] : State) with twin := { (onP [(K.twinEnable, 1)] : State).twin with link := 2 } };
      let t : Tick := late; let w := s.advance t; w.twin.link = 2 ∧ w.twin.joinAt + msT 100 ≤ w.now) ∧
    (let s : State := { (onP [(K.twinEnable, 1)] : State) with twin := { (onP [(K.twinEnable, 1)] : State).twin with link := 3, peerAt := some 0, unacked := [{ lseq := 1, resync := false, msg := .handback 0 0, sentAt := 0, resends := 0 }] } };
      let t : Tick := usT 5000; let w := s.advance t; let due := fun (o : LinkOut) => decide (o.sentAt + usT (w.p K.twinRetxUs) ≤ w.now);
      let gone := (w.twin.unacked.filter (fun o => due o && w.p K.twinRetxMax ≤ o.resends)).length; 2 ≤ w.twin.link ∧ w.lane = true ∧
      gone = 0) ∧
    (let s : State := { (onP [(K.twinEnable, 1)] : State) with twin := { (onP [(K.twinEnable, 1)] : State).twin with link := 3, peerAt := some 0, unacked := [{ lseq := 1, resync := false, msg := .handback 0 0, sentAt := 0, resends := 10000 }] } };
      let t : Tick := late; let w := s.advance t; let due := fun (o : LinkOut) => decide (o.sentAt + usT (w.p K.twinRetxUs) ≤ w.now);
      let gone := (w.twin.unacked.filter (fun o => due o && w.p K.twinRetxMax ≤ o.resends)).length; 2 ≤ w.twin.link ∧ w.lane = true ∧
      gone ≠ 0) ∧
    (let s : State := on; let t : Tick := 0; let w := (s.advance t).refreshDark;
      let due := w.definedZones.filter fun z => match (w.zone z).lossAt with | some a => w.promotes a | none => false;
      let zs := due.filter (fun z => !w.isDark z); zs = []) ∧
    (let s : State := { (onP [(K.twinEnable, 1)] : State) with zones := [(0, { desc := some zd, lossAt := some 0 })] };
      let t : Tick := late; let w := (s.advance t).refreshDark;
      let due := w.definedZones.filter fun z => match (w.zone z).lossAt with | some a => w.promotes a | none => false;
      let zs := due.filter (fun z => !w.isDark z); zs ≠ []) ∧
    (let s : State := { (onP [(K.twinEnable, 1)] : State) with zones := [(0, { desc := some zd, dark := true })] }; let t : Tick := late;
      let zone : Nat := 0; let d : ZoneDesc := zd; let w := (s.advance t).refreshDark; (w.zone zone).desc = some d ∧
      (w.zone zone).dark = true ∧ w.darkCond d = false ∧ (w.zone zone).darkAt + secT (w.p K.twinReturnS) ≤ w.now) ∧
    (let s : State := { ({ (onP [(K.twinEnable, 1)] : State) with twin := { (onP [(K.twinEnable, 1)] : State).twin with link := 3, peerAt := some 0 } } : State) with zones := [(0, { desc := some zd, paired := true, taken := true })] };
      let t : Tick := 0; let zone : Nat := 0; let w := (s.advance t).refreshDark; let x := w.zone zone; w.twin.link = 3 ∧ x.paired = true ∧
      x.taken = true ∧ x.handing = false ∧ w.isDark zone = false ∧ w.twin.peerDark.contains zone = false) := by
  refine ⟨?_, ?_, ?_, ?_, ?_, ?_, ?_, ?_, ?_, ?_⟩
  · exact by (try dsimp only); (try delta State.Admits State.Hears State.InOrder); decide +kernel
  · exact by (try dsimp only); (try delta State.Admits State.Hears State.InOrder); decide +kernel
  · exact by (try dsimp only); (try delta State.Admits State.Hears State.InOrder); decide +kernel
  · exact by (try dsimp only); (try delta State.Admits State.Hears State.InOrder); decide +kernel
  · exact by (try dsimp only); (try delta State.Admits State.Hears State.InOrder); decide +kernel
  · exact by (try dsimp only); (try delta State.Admits State.Hears State.InOrder); decide +kernel
  · exact by (try dsimp only); (try delta State.Admits State.Hears State.InOrder); decide +kernel
  · exact by (try dsimp only); (try delta State.Admits State.Hears State.InOrder); decide +kernel
  · exact by (try dsimp only); (try delta State.Admits State.Hears State.InOrder); decide +kernel
  · exact by (try dsimp only); (try delta State.Admits State.Hears State.InOrder); decide +kernel

theorem witness_InstrumentCommandsComplete :
    (let s : State := { (onP [(K.instFallbackAuto, 1)] : State) with inst := { (onP [(K.instFallbackAuto, 1)] : State).inst with running := some { input := 0, req := 0, cfg := 2 ^ 22, startAt := 0, given := 0, reversed := false, fallback := false, result := none, flags := 0 } } };
      let t : Tick := 0; let code : Int := 5; let chop : Bool := true;
      let c : Conv := { input := 0, req := 0, cfg := 2 ^ 22, startAt := 0, given := 0, reversed := false, fallback := false, result := none, flags := 0 };
      let w := s.advance t; w.inst.running = some c ∧ c.given < cfgDwell c.cfg ∧ chop = true ∧ w.pB K.instFallbackAuto = true ∧
      cfgPath c.cfg = false ∧ c.fallback = false) ∧
    (let s : State := { (on : State) with inst := { (on : State).inst with running := some { input := 0, req := 0, cfg := 2 ^ 22, startAt := 0, given := 0, reversed := false, fallback := false, result := none, flags := 0 } } };
      let t : Tick := late; let code : Int := -5; let chop : Bool := false;
      let c : Conv := { input := 0, req := 0, cfg := 2 ^ 22, startAt := 0, given := 0, reversed := false, fallback := false, result := none, flags := 0 };
      let w := s.advance t; let pre := cfgPreset c.cfg; w.inst.running = some c ∧ c.given < cfgDwell c.cfg ∧
      (chop = false ∨ c.fallback = true) ∧ c.settleAt + usT (w.settleUs pre + c.outs * w.outputUs pre) ≤ w.now) ∧
    (let s : State := { (on : State) with inst := { (on : State).inst with running := some { input := 0, req := 0, cfg := 2 ^ 22 + 2 ^ 16 + 2 ^ 11, startAt := 0, given := 0, reversed := false, fallback := false, result := none, flags := 0 } } };
      let t : Tick := usT 420; let code : Int := -5; let chop : Bool := false;
      let c : Conv := { input := 0, req := 0, cfg := 2 ^ 22 + 2 ^ 16 + 2 ^ 11, startAt := 0, given := 0, reversed := false, fallback := false, result := none, flags := 0 };
      let w := s.advance t; let pre := cfgPreset c.cfg; w.inst.running = some c ∧ c.given < cfgDwell c.cfg ∧
      (chop = false ∨ c.fallback = true) ∧ c.outs = 0 ∧ cfgCoarse c.cfg = true ∧ c.settleAt + usT (400 + c.coarse * 100) ≤ w.now ∧
      w.now < c.settleAt + usT (w.settleUs pre) ∧ c.req % 5 = 0) ∧
    (let s : State := { (on : State) with inst := { (on : State).inst with running := some { input := 0, req := 0, cfg := 2 ^ 22, startAt := 0, given := 1, reversed := false, fallback := false, result := none, flags := 0 } } };
      let t : Tick := 0; let w := s.advance t;
      let c := { input := 0, req := 0, cfg := 2 ^ 22, startAt := 0, given := 1, reversed := false, fallback := false, result := none, flags := 0 };
      w.inst.running = some c ∧ cfgDwell c.cfg ≤ c.given) ∧
    (let s : State := { (on : State) with inst := { (on : State).inst with queue := [{ input := 0, req := 0, cfg := 2 ^ 22, startAt := 0, given := 0, reversed := false, fallback := false, result := none, flags := 0 }] } };
      let t : Tick := 0; let w := s.advance t; w.inst.running = none ∧ (w.inst.queue ≠ [] ∨ w.nextScan.isSome = true)) ∧
    (let s : State := { (on : State) with inst := { (on : State).inst with running := some { input := 0, req := 0, cfg := 2 ^ 22 + 2 ^ 17, startAt := 0, given := 0, reversed := false, fallback := false, result := none, flags := 0 } } };
      let t : Tick := 0; let kind : Nat := 0;
      let c : Conv := { input := 0, req := 0, cfg := 2 ^ 22 + 2 ^ 17, startAt := 0, given := 0, reversed := false, fallback := false, result := none, flags := 0 };
      let w := s.advance t; w.inst.running = some c ∧ c.given < cfgDwell c.cfg ∧ kind = 0 ∧ (cfgExc c.cfg ≠ 0 ∨ cfgBurnout c.cfg ≠ 0)) ∧
    (let s : State := { (on : State) with inst := { (on : State).inst with running := some { input := 0, req := 0, cfg := 2 ^ 22, startAt := 0, given := 0, reversed := false, fallback := false, result := none, flags := 0 } } };
      let t : Tick := 0; let kind : Nat := 1;
      let c : Conv := { input := 0, req := 0, cfg := 2 ^ 22, startAt := 0, given := 0, reversed := false, fallback := false, result := none, flags := 0 };
      let w := s.advance t; w.inst.running = some c ∧ c.given < cfgDwell c.cfg ∧ kind = 1) ∧
    (let s : State := { (on : State) with inst := { (on : State).inst with running := some { input := 0, req := 0, cfg := 2 ^ 22 + 2 ^ 17, startAt := 0, given := 0, reversed := false, fallback := false, result := none, flags := 0 } } };
      let t : Tick := 0; let kind : Nat := 2;
      let c : Conv := { input := 0, req := 0, cfg := 2 ^ 22 + 2 ^ 17, startAt := 0, given := 0, reversed := false, fallback := false, result := none, flags := 0 };
      let w := s.advance t; w.inst.running = some c ∧ c.given < cfgDwell c.cfg ∧ kind = 2 ∧ (cfgExc c.cfg ≠ 0 ∨ cfgBurnout c.cfg ≠ 0)) ∧
    (let s : State := { (on : State) with inst := { (on : State).inst with running := some { input := 0, req := 0, cfg := 2 ^ 22, startAt := 0, given := 0, reversed := false, fallback := false, result := none, flags := 0 } } };
      let t : Tick := 0; let kind : Nat := 2;
      let c : Conv := { input := 0, req := 0, cfg := 2 ^ 22, startAt := 0, given := 0, reversed := false, fallback := false, result := none, flags := 0 };
      let w := s.advance t; w.inst.running = some c ∧ c.given < cfgDwell c.cfg ∧ kind = 2 ∧ cfgExc c.cfg = 0 ∧ cfgBurnout c.cfg = 0) ∧
    (let s : State := onP [(K.instWinEnable, 1)]; let t : Tick := late; let left : Tick := 0; let n : Nat := 0; let above : Bool := true;
      let w := s.advance t; n < 4 ∧ 1 ≤ w.clk.mode ∧ bit (w.p K.instWinEnable) n = true ∧ nth false w.inst.outside n = false ∧
      max left (nth 0 w.inst.winSince n) + usT (w.p K.instWinFilterUs) ≤ w.now) ∧
    (let s : State := { (onP [(K.instWinEnable, 1)] : State) with inst := { (onP [(K.instWinEnable, 1)] : State).inst with outside := [true] } };
      let t : Tick := late; let n : Nat := 0; let w := s.advance t; n < 4 ∧ 1 ≤ w.clk.mode ∧ bit (w.p K.instWinEnable) n = true ∧
      nth false w.inst.outside n = true ∧ nth 0 w.inst.winSince n + usT (w.p K.instWinFilterUs) ≤ w.now) ∧
    (let s : State := onP [(K.instFqoMode + 3, 1)]; let t : Tick := 0; let n : Nat := 3; let w := s.advance t; let v := 0; n < 4 ∧
      2 ≤ w.clk.mode ∧ w.p (K.instFqoMode + n) ≠ 0 ∧ w.fqoValue n = some v) ∧
    (let s : State := onP [(K.instFqoMode + 3, 1), (K.instFqoSource + 3, 1)]; let t : Tick := 0; let n : Nat := 3; let w := s.advance t;
      n < 4 ∧ 2 ≤ w.clk.mode ∧ w.p (K.instFqoMode + n) ≠ 0 ∧ w.fqoValue n = none) ∧
    (let s : State := { (on : State) with inst := { (on : State).inst with fqos := [{}, {}, {}, { lastWrite := some 0 }] } };
      let t : Tick := late; let n : Nat := 3; let w := s.advance t; let a := 0; (nth {} w.inst.fqos n).lastWrite = some a ∧
      a + msT (w.p K.instFqoTimeoutMs) ≤ w.now) := by
  refine ⟨?_, ?_, ?_, ?_, ?_, ?_, ?_, ?_, ?_, ?_, ?_, ?_, ?_, ?_⟩
  · exact by (try dsimp only); (try delta State.Admits State.Hears State.InOrder); decide +kernel
  · exact by (try dsimp only); (try delta State.Admits State.Hears State.InOrder); decide +kernel
  · exact by (try dsimp only); (try delta State.Admits State.Hears State.InOrder); decide +kernel
  · exact by (try dsimp only); (try delta State.Admits State.Hears State.InOrder); decide +kernel
  · exact by (try dsimp only); (try delta State.Admits State.Hears State.InOrder); decide +kernel
  · exact by (try dsimp only); (try delta State.Admits State.Hears State.InOrder); decide +kernel
  · exact by (try dsimp only); (try delta State.Admits State.Hears State.InOrder); decide +kernel
  · exact by (try dsimp only); (try delta State.Admits State.Hears State.InOrder); decide +kernel
  · exact by (try dsimp only); (try delta State.Admits State.Hears State.InOrder); decide +kernel
  · exact by (try dsimp only); (try delta State.Admits State.Hears State.InOrder); decide +kernel
  · exact by (try dsimp only); (try delta State.Admits State.Hears State.InOrder); decide +kernel
  · exact by (try dsimp only); (try delta State.Admits State.Hears State.InOrder); decide +kernel
  · exact by (try dsimp only); (try delta State.Admits State.Hears State.InOrder); decide +kernel
  · exact by (try dsimp only); (try delta State.Admits State.Hears State.InOrder); decide +kernel

theorem witness_DisplayCommandsComplete :
    (let s : State := onP [(K.dispMode, 1)]; let t : Tick := 0; let underruns : List (Nat × Nat) := []; let w := s.advance t;
      w.scans 0 = true) ∧
    (let s : State := { (onP [(K.dispMode, 1)] : State) with disp := { (onP [(K.dispMode, 1)] : State).disp with inFrame := true } };
      let t : Tick := 0; let w := s.advance t; w.disp.inFrame = true ∧ w.scans 0 = true) ∧
    (let s : State := { (onP [(K.dispMode, 1)] : State) with disp := { (onP [(K.dispMode, 1)] : State).disp with layers := [{ desc := some ((1 : Byte) :: List.replicate 39 0) }] } };
      let t : Tick := late; let output : Nat := 0; let d : List Byte := (1 : Byte) :: List.replicate 39 0; let w := s.advance t;
      let n := 3 * output; let a := (w.layer n).rowAt; let b := a + usT (dRowUs d); (w.layer n).desc = some d ∧ output ≤ 1 ∧
      w.hasOutput output = true ∧ w.active = true ∧ dEnable d = true ∧ b ≤ w.now) := by
  refine ⟨?_, ?_, ?_⟩
  · exact by (try dsimp only); (try delta State.Admits State.Hears State.InOrder); decide +kernel
  · exact by (try dsimp only); (try delta State.Admits State.Hears State.InOrder); decide +kernel
  · exact by (try dsimp only); (try delta State.Admits State.Hears State.InOrder); decide +kernel

theorem witness_ClockCommandsComplete :
    (let s : State := on; let t : Tick := 0; let loop : Nat := 4; let w := s.advance t; w.loopLocked loop = true) ∧
    (let s : State := { (on : State) with clk := { (on : State).clk with locked := [false, false, false, false, false] } };
      let t : Tick := 0; let loop : Nat := 0; let w := s.advance t; w.loopLocked loop = false ∧ w.loopRuns loop = true ∧ w.clk.xa = true ∧
      loop = 0) ∧
    (let s : State := { (on : State) with clk := { (on : State).clk with locked := [false, false, false, false, false] } };
      let t : Tick := 0; let loop : Nat := 1; let w := s.advance t; w.loopLocked loop = false ∧ w.loopRuns loop = true ∧ w.clk.xa = true ∧
      loop = 1) ∧
    (let s : State := { (onP [(K.dispMode, 1)] : State) with clk := { (onP [(K.dispMode, 1)] : State).clk with locked := [false, false, false, false, false] } };
      let t : Tick := 0; let loop : Nat := 3; let w := s.advance t; w.loopLocked loop = false ∧ w.loopRuns loop = true ∧ w.clk.xa = true ∧
      loop = 3) ∧
    (let s : State := { (on : State) with clk := { (on : State).clk with locked := [false, false, false, false, false] } };
      let t : Tick := 0; let loop : Nat := 2; let w := s.advance t; w.loopLocked loop = false ∧ w.loopRuns loop = true ∧ w.clk.xa = true ∧
      (loop = 2 ∨ loop = 4)) ∧
    (let s : State := on; let t : Tick := 0; let w := s.advance t; w.clk.xa = true) ∧
    (let s : State := { (on : State) with clk := { (on : State).clk with xa := false } }; let t : Tick := 0; let w := s.advance t;
      w.clk.xa = false) ∧
    (let s : State := on; let t : Tick := 0; let w := s.advance t; w.clk.xb = true) ∧
    (let s : State := { (on : State) with clk := { (on : State).clk with xb := false } }; let t : Tick := 0; let w := s.advance t;
      w.clk.xb = false ∧ w.sys.powered = true) ∧
    (let s : State := on; let t : Tick := 0; let w := s.advance t; (w.time.onLfo = false ∨ w.clk.xb = true)) ∧
    (let s : State := on; let t : Tick := 0; let w := s.advance t; (w.clk.stwOnHfo = false ∨ w.loopLocked 1 = true)) ∧
    (let s : State := onP [(K.clkGateEn, 2 ^ 2)]; let t : Tick := 0; let d : Nat := 2; let w := s.advance t; 1 ≤ d ∧ d ≤ 11 ∧
      bit (w.p K.clkGateEn) d = true ∧ w.p K.clkClkoutSel ≠ d ∧ w.domainRuns d = true ∧ w.domainBusy d = false ∧ d = 2) ∧
    (let s : State := onP [(K.clkGateEn, 2 ^ 5)]; let t : Tick := 0; let d : Nat := 5; let w := s.advance t; 1 ≤ d ∧ d ≤ 11 ∧
      bit (w.p K.clkGateEn) d = true ∧ w.p K.clkClkoutSel ≠ d ∧ w.domainRuns d = true ∧ w.domainBusy d = false ∧ d ≠ 2) ∧
    (let s : State := { (on : State) with clk := { (on : State).clk with pcieStop := some 0 } }; let t : Tick := 0; let a : Tick := 0;
      let w := s.advance t; w.clk.pcieStop = some a ∧ a ≤ w.now) := by
  refine ⟨?_, ?_, ?_, ?_, ?_, ?_, ?_, ?_, ?_, ?_, ?_, ?_, ?_, ?_⟩
  · exact by (try dsimp only); (try delta State.Admits State.Hears State.InOrder); decide +kernel
  · exact by (try dsimp only); (try delta State.Admits State.Hears State.InOrder); decide +kernel
  · exact by (try dsimp only); (try delta State.Admits State.Hears State.InOrder); decide +kernel
  · exact by (try dsimp only); (try delta State.Admits State.Hears State.InOrder); decide +kernel
  · exact by (try dsimp only); (try delta State.Admits State.Hears State.InOrder); decide +kernel
  · exact by (try dsimp only); (try delta State.Admits State.Hears State.InOrder); decide +kernel
  · exact by (try dsimp only); (try delta State.Admits State.Hears State.InOrder); decide +kernel
  · exact by (try dsimp only); (try delta State.Admits State.Hears State.InOrder); decide +kernel
  · exact by (try dsimp only); (try delta State.Admits State.Hears State.InOrder); decide +kernel
  · exact by (try dsimp only); (try delta State.Admits State.Hears State.InOrder); decide +kernel
  · exact by (try dsimp only); (try delta State.Admits State.Hears State.InOrder); decide +kernel
  · exact by (try dsimp only); (try delta State.Admits State.Hears State.InOrder); decide +kernel
  · exact by (try dsimp only); (try delta State.Admits State.Hears State.InOrder); decide +kernel
  · exact by (try dsimp only); (try delta State.Admits State.Hears State.InOrder); decide +kernel

theorem witness_PowerCommandsComplete :
    (let s : State := { (on : State) with clk := { (on : State).clk with mode := 2 } }; let t : Tick := late; let fall : Tick := 0;
      let rise : Option Tick := none; let w := s.advance t; let due := fall + usT (w.p K.clkPwrFailFilterUs);
      let v := (w.modClk fun k => { k with pwrLow := true, pwrRise := rise }).transAborted; due ≤ w.now ∧ (∀ r ∈ rise, due ≤ r) ∧
      v.clk.mode < 3) ∧
    (let s : State := on; let t : Tick := late; let fall : Tick := 0; let rise : Option Tick := none; let w := s.advance t;
      let due := fall + usT (w.p K.clkPwrFailFilterUs);
      let v := (w.modClk fun k => { k with pwrLow := true, pwrRise := rise }).transAborted; due ≤ w.now ∧ (∀ r ∈ rise, due ≤ r) ∧
      3 ≤ v.clk.mode) ∧
    (let s : State := on; let t : Tick := late; let fall : Tick := 0; let rise : Option Tick := some 1; let w := s.advance t;
      let due := fall + usT (w.p K.clkPwrFailFilterUs); (w.now < due ∨ (∃ r ∈ rise, r < due))) ∧
    (let s : State := { (onP [(K.clkPwrAutoResume, 1)] : State) with clk := { (onP [(K.clkPwrAutoResume, 1)] : State).clk with mode := 2, leftMode := some 4, pwrRise := some 0 } };
      let t : Tick := late; let r : Tick := 0; let m : Nat := 4; let w := s.advance t; w.clk.leftMode = some m ∧ w.clk.pwrRise = some r ∧
      w.p K.clkPwrAutoResume ≠ 0 ∧ w.clk.mode = 2 ∧ w.clk.trip = false ∧ w.clk.trans = none ∧ w.pwrIsLow = false ∧
      r + secT (w.p K.clkPwrResumeS) ≤ w.now) ∧
    (let s : State := { (on : State) with clk := { (on : State).clk with mode := 2, trans := some { who := none, source := 2, target := 4, cause := 0, thenRun := false } } };
      let t : Tick := 0; let tr : Sys2Proof.Machine.Transition := { who := none, source := 2, target := 4, cause := 0, thenRun := false };
      let w := s.advance t; w.clk.trans = some tr ∧ tr.source < tr.target) ∧
    (let s : State := { (on : State) with clk := { (on : State).clk with mode := 4, trans := some { who := none, source := 4, target := 1, cause := 0, thenRun := false } } };
      let t : Tick := 0; let tr : Sys2Proof.Machine.Transition := { who := none, source := 4, target := 1, cause := 0, thenRun := false };
      let w := s.advance t; w.clk.trans = some tr ∧ tr.target = 1 ∧ 1 ≤ tr.source) ∧
    (let s : State := { (on : State) with clk := { (on : State).clk with mode := 1, trans := some { who := none, source := 1, target := 2, cause := 0, thenRun := false } } };
      let t : Tick := 0; let tr : Sys2Proof.Machine.Transition := { who := none, source := 1, target := 2, cause := 0, thenRun := false };
      let w := s.advance t; w.clk.trans = some tr ∧ tr.source = 1 ∧ tr.target = 2) ∧
    (let s : State := { (on : State) with clk := { (on : State).clk with mode := 2, trans := some { who := none, source := 2, target := 3, cause := 0, thenRun := false } } };
      let t : Tick := 0; let tr : Sys2Proof.Machine.Transition := { who := none, source := 2, target := 3, cause := 0, thenRun := false };
      let w := s.advance t; w.clk.trans = some tr ∧ tr.source < 3 ∧ 3 ≤ tr.target) ∧
    (let s : State := { (on : State) with clk := { (on : State).clk with mode := 4, trans := some { who := none, source := 4, target := 3, cause := 0, thenRun := false } } };
      let t : Tick := 0; let tr : Sys2Proof.Machine.Transition := { who := none, source := 4, target := 3, cause := 0, thenRun := false };
      let w := s.advance t; let v := w.runEnds false; w.clk.trans = some tr ∧ tr.source = 4 ∧ tr.target = 3 ∧ v.run.state = 0) ∧
    (let s : State := { ({ (on : State) with clk := { (on : State).clk with mode := 4, trans := some { who := none, source := 4, target := 3, cause := 0, thenRun := false } } } : State) with run := { on.run with state := 2 } };
      let t : Tick := 0; let tr : Sys2Proof.Machine.Transition := { who := none, source := 4, target := 3, cause := 0, thenRun := false };
      let w := s.advance t; let v := w.runEnds false; w.clk.trans = some tr ∧ tr.source = 4 ∧ tr.target = 3 ∧ v.run.state ≠ 0) ∧
    (let s : State := { (on : State) with clk := { (on : State).clk with mode := 3, trans := some { who := none, source := 3, target := 4, cause := 0, thenRun := false } } };
      let t : Tick := 0; let tr : Sys2Proof.Machine.Transition := { who := none, source := 3, target := 4, cause := 0, thenRun := false };
      let w := s.advance t; w.clk.trans = some tr ∧ tr.source = 3 ∧ tr.target = 4) ∧
    (let s : State := on; let t : Tick := 0; let m : MonSample := { temps := [1250000], volts := [], procs := [] }; let w := s.advance t;
      let hot := idxWhere (fun (x : Int) => decide (1250000 ≤ x)) (m.temps.take 8); w.clk.mode ≠ 0 ∧
      w.spaced w.clk.monAt (msT (if w.clk.mode == 1 then 100 else 1)) = true ∧ hot ≠ []) ∧
    (let s : State := on; let t : Tick := 0; let m : MonSample := { temps := [1249999], volts := [], procs := [] }; let w := s.advance t;
      let hot := idxWhere (fun (x : Int) => decide (1250000 ≤ x)) (m.temps.take 8); w.clk.mode ≠ 0 ∧
      w.spaced w.clk.monAt (msT (if w.clk.mode == 1 then 100 else 1)) = true ∧ hot = []) := by
  refine ⟨?_, ?_, ?_, ?_, ?_, ?_, ?_, ?_, ?_, ?_, ?_, ?_, ?_⟩
  · exact by (try dsimp only); (try delta State.Admits State.Hears State.InOrder); decide +kernel
  · exact by (try dsimp only); (try delta State.Admits State.Hears State.InOrder); decide +kernel
  · exact by (try dsimp only); (try delta State.Admits State.Hears State.InOrder); decide +kernel
  · exact by (try dsimp only); (try delta State.Admits State.Hears State.InOrder); decide +kernel
  · exact by (try dsimp only); (try delta State.Admits State.Hears State.InOrder); decide +kernel
  · exact by (try dsimp only); (try delta State.Admits State.Hears State.InOrder); decide +kernel
  · exact by (try dsimp only); (try delta State.Admits State.Hears State.InOrder); decide +kernel
  · exact by (try dsimp only); (try delta State.Admits State.Hears State.InOrder); decide +kernel
  · exact by (try dsimp only); (try delta State.Admits State.Hears State.InOrder); decide +kernel
  · exact by (try dsimp only); (try delta State.Admits State.Hears State.InOrder); decide +kernel
  · exact by (try dsimp only); (try delta State.Admits State.Hears State.InOrder); decide +kernel
  · exact by (try dsimp only); (try delta State.Admits State.Hears State.InOrder); decide +kernel
  · exact by (try dsimp only); (try delta State.Admits State.Hears State.InOrder); decide +kernel

theorem witness_StartUpCommandsComplete :
    (let s : State := State.reset; let t : Tick := 0;
      let env : BootEnv := { flash0 := [], flash1 := [], xaRuns := true, loopsLock := true, mr8Ok := true, trainRates := [], bandImageOk := true, shiftImageOk := true };
      let w := s.advance t; w.sys.powered = false) ∧
    (let s : State := on; let t : Tick := 0; let ns : Nat := 1000; let w := s.advance t; w.sys.powered = true ∧ 1000 ≤ ns) ∧
    (let s : State := on; let t : Tick := 0; let ns : Nat := 199; ns < 200) ∧
    (let s : State := on; let t : Tick := 0; let ns : Nat := 500; let w := s.advance t; w.sys.powered = true) ∧
    (let s : State := on; let t : Tick := 0; let ns : Nat := 500; let w := s.advance t; w.sys.powered = true) ∧
    (let s : State := { (on : State) with sys := { (on : State).sys with resetDue := some (0, 0) } }; let t : Tick := 0; let a : Tick := 0;
      let kind : Nat := 0; let w := s.advance t; w.sys.resetDue = some (kind, a) ∧ a ≤ w.now ∧ kind = 0) ∧
    (let s : State := { (on : State) with sys := { (on : State).sys with resetDue := some (1, 0) } }; let t : Tick := 0; let a : Tick := 0;
      let kind : Nat := 1; let w := s.advance t; w.sys.resetDue = some (kind, a) ∧ a ≤ w.now ∧ kind ≠ 0) ∧
    (let s : State := on; let t : Tick := 0; let w := s.advance t; w.sys.powered = true) ∧
    (let s : State := { (on : State) with sys := { (on : State).sys with bootStage := 12, mbReady := false } }; let t : Tick := 0;
      let w := s.advance t; w.sys.bootStage = 12 ∧ w.sys.mbReady = false ∧ w.sys.halted = false ∧ w.sys.cfgWait = none ∧ w.sys.cfg = []) ∧
    (let s : State := { (on : State) with sys := { (on : State).sys with bootStage := 12, mbReady := false, cfg := [bts [1]] } };
      let t : Tick := 0; let w := s.advance t; let bs := bts [1]; let rest := []; w.sys.bootStage = 12 ∧ w.sys.mbReady = false ∧
      w.sys.halted = false ∧ w.sys.cfgWait = none ∧ w.sys.cfg = bs :: rest) ∧
    (let s : State := { (on : State) with sys := { (on : State).sys with retryAt := some 0 } }; let t : Tick := 0; let a : Tick := 0;
      let w := s.advance t; w.sys.retryAt = some a ∧ a ≤ w.now) ∧
    (let s : State := { (on : State) with sys := { (on : State).sys with waitXa := true } }; let t : Tick := 0; let w := s.advance t;
      w.sys.waitXa = true) ∧
    (let s : State := { (on : State) with sys := { (on : State).sys with warmAt := some 0, mbReady := false } }; let t : Tick := late;
      let a : Tick := 0; let w := s.advance t; w.sys.warmAt = some a ∧ w.sys.mbReady = false ∧ a + msT 800 ≤ w.now) ∧
    (let s : State := on; let t : Tick := 0; let w := s.advance t; w.sys.powered = true) ∧
    (let s : State := on; let t : Tick := 0; let w := s.advance t; w.sys.powered = true) ∧
    (let s : State := on; let t : Tick := 0; let w := s.advance t; w.sys.powered = true ∧ w.prot.debug = false) ∧
    (let s : State := { (on : State) with prot := { (on : State).prot with debug := true } }; let t : Tick := 0; let w := s.advance t;
      w.sys.powered = true ∧ w.prot.debug = true) := by
  refine ⟨?_, ?_, ?_, ?_, ?_, ?_, ?_, ?_, ?_, ?_, ?_, ?_, ?_, ?_, ?_, ?_, ?_⟩
  · exact by (try dsimp only); (try delta State.Admits State.Hears State.InOrder); decide +kernel
  · exact by (try dsimp only); (try delta State.Admits State.Hears State.InOrder); decide +kernel
  · exact by (try dsimp only); (try delta State.Admits State.Hears State.InOrder); decide +kernel
  · exact by (try dsimp only); (try delta State.Admits State.Hears State.InOrder); decide +kernel
  · exact by (try dsimp only); (try delta State.Admits State.Hears State.InOrder); decide +kernel
  · exact by (try dsimp only); (try delta State.Admits State.Hears State.InOrder); decide +kernel
  · exact by (try dsimp only); (try delta State.Admits State.Hears State.InOrder); decide +kernel
  · exact by (try dsimp only); (try delta State.Admits State.Hears State.InOrder); decide +kernel
  · exact by (try dsimp only); (try delta State.Admits State.Hears State.InOrder); decide +kernel
  · exact by (try dsimp only); (try delta State.Admits State.Hears State.InOrder); decide +kernel
  · exact by (try dsimp only); (try delta State.Admits State.Hears State.InOrder); decide +kernel
  · exact by (try dsimp only); (try delta State.Admits State.Hears State.InOrder); decide +kernel
  · exact by (try dsimp only); (try delta State.Admits State.Hears State.InOrder); decide +kernel
  · exact by (try dsimp only); (try delta State.Admits State.Hears State.InOrder); decide +kernel
  · exact by (try dsimp only); (try delta State.Admits State.Hears State.InOrder); decide +kernel
  · exact by (try dsimp only); (try delta State.Admits State.Hears State.InOrder); decide +kernel
  · exact by (try dsimp only); (try delta State.Admits State.Hears State.InOrder); decide +kernel

theorem witness_StepRunsFront :
    (({ on with pending := [.ident 0 (rq 0 [])] } : State).pending = .ident 0 (rq 0 []) :: []) ∧
    (on.pending = []) := by
  refine ⟨?_, ?_⟩
  · exact rfl
  · exact rfl

theorem witness_RequestRefusals :
    (let w := ({ on with prot := { on.prot with classes := [] } } : State).advance 0;
      w.need (.start 0 (rq 0 [])) = some (0, rq 0 [], 0x0010, cOperate, true) ∧ w.sys.mbReady = true ∧ (rq 0 []).mb ≤ 19 ∧ w.clk.mode ≠ 0 ∧
      w.repeatOf (rq 0 []) = none ∧ w.holds 0 cOperate = false) ∧
    (let w := ({ on with prot := { on.prot with perfUser := false, perfSlice := false, sliceLoadHost := false } } : State).advance 0;
      w.need (.sliceLoad 0 (rq 0 [])) = some (0, rq 0 [], 0x0070, cConfigure, false) ∧ w.sys.mbReady = true ∧ (rq 0 []).mb ≤ 19 ∧
      w.clk.mode ≠ 0 ∧ w.repeatOf (rq 0 []) = none ∧ (rq 0 []).mb ≠ 19) ∧
    (let w := ({ on with mboxes := modAt (fun b => { b with inflight := [1] }) on.mboxes 0 } : State).advance 0;
      w.need (.start 0 (rq 0 [])) = some (0, rq 0 [], 0x0010, cOperate, true) ∧ w.sys.mbReady = true ∧ (rq 0 []).mb ≤ 19 ∧ w.clk.mode ≠ 0 ∧
      w.holds 0 cOperate = true ∧ (w.mbox 0).inflight.contains 1 = true) ∧
    (let w := ({ on with mboxes := modAt (fun b => { b with inflight := (List.range 64).map (· + 2) }) on.mboxes 0 } : State).advance 0;
      w.need (.start 0 (rq 0 [])) = some (0, rq 0 [], 0x0010, cOperate, true) ∧ w.sys.mbReady = true ∧ (rq 0 []).mb ≤ 19 ∧ w.clk.mode ≠ 0 ∧
      w.holds 0 cOperate = true ∧ (w.mbox 0).inflight.contains 1 = false ∧ 64 ≤ (w.mbox 0).inflight.length) := by
  refine ⟨?_, ?_, ?_, ?_⟩
  · exact by (try dsimp only); (try delta State.Admits State.Hears State.InOrder); decide +kernel
  · exact by (try dsimp only); (try delta State.Admits State.Hears State.InOrder); decide +kernel
  · exact by (try dsimp only); (try delta State.Admits State.Hears State.InOrder); decide +kernel
  · exact by (try dsimp only); (try delta State.Admits State.Hears State.InOrder); decide +kernel

theorem witness_LatchClearsOnlyWhileHigh :
    (({ on with ilk := { latched := true } } : State).ilk.latched = true ∧
      ∃ u, exec (.ilkClear 0 (rq 0 [])) ({ on with ilk := { latched := true } } : State) = .next u ∧ u.ilk.latched = false) ∧
    (({ on with ilk := { latched := true } } : State).ilk.latched = true ∧
      ∃ u, exec (.ilkClear 0 (rq 0 [])) ({ on with ilk := { latched := true } } : State) = .next u ∧ u.ilk.latched = false) ∧
    (({ on with ilk := { latched := true, highAt := none } } : State).Admits (rq 0 []) cOperate true ∧ (rq 0 []).mb ≠ 19 ∧
      payLen (rq 0 []) = 0 ∧ ({ on with ilk := { latched := true, highAt := none } } : State).ilk.latched = true ∧
      ∀ h, ({ on with ilk := { latched := true, highAt := none } } : State).ilk.highAt = some h → max on.now 0 < h) ∧
    (({ on with ilk := { latched := true, highAt := none } } : State).Admits (rq 0 []) cOperate true ∧ (rq 0 []).mb ≠ 19 ∧
      payLen (rq 0 []) = 0 ∧ ({ on with ilk := { latched := true, highAt := none } } : State).ilk.latched = true ∧
      ∀ h, ({ on with ilk := { latched := true, highAt := none } } : State).ilk.highAt = some h → max on.now 0 < h) ∧
    (on.Admits (rq 0 []) cOperate true ∧ (rq 0 []).mb ≠ 19 ∧ payLen (rq 0 []) = 0 ∧ on.ilk.latched = false) := by
  refine ⟨?_, ?_, ?_, ?_, ?_⟩
  · exact ⟨rfl, _, rfl, by decide +kernel⟩
  · exact ⟨rfl, _, rfl, by decide +kernel⟩
  · exact ⟨by delta State.Admits; decide +kernel, by decide, rfl, rfl, by intro h e; cases e⟩
  · exact ⟨by delta State.Admits; decide +kernel, by decide, rfl, rfl, by intro h e; cases e⟩
  · exact ⟨by delta State.Admits; decide +kernel, by decide, rfl, rfl⟩

theorem witness_InterlockDarkKept :
    (({ State.reset with pending := [.emitUpdate 0] } : State).IlkDark ∧
      ∃ u, step { State.reset with pending := [.emitUpdate 0] } = .next u) := by
  skip
  · exact ⟨by unfold State.IlkDark EmitCh.still; decide +kernel, _, rfl⟩

theorem witness_ProtectionMapLocked :
    ((∃ u, exec (.ident 0 (rq 0 [])) on = .next u) ∧ bootsDevice (.ident 0 (rq 0 [])) = false) := by
  skip
  · exact ⟨⟨_, rfl⟩, rfl⟩

end Sys2Proof.Tests
end

section
/-!
PROOFS. What the passing of time leaves for an access through BAR0, and each register access in a form without its guard.
-/
namespace Sys2Proof.Machine

section
variable (s : State) (t : Tick)

@[simp] theorem State.advance_sys : (s.advance t).sys = s.sys := by
  obtain ⟨ps, h⟩ := s.advance_eq t
  rw [h]

@[simp] theorem State.advance_prot : (s.advance t).prot = s.prot := by
  obtain ⟨ps, h⟩ := s.advance_eq t
  rw [h]

@[simp] theorem State.advance_pcie : (s.advance t).clk.pcie = s.clk.pcie := by
  obtain ⟨ps, h⟩ := s.advance_eq t
  rw [h]

@[simp] theorem State.advance_mode : (s.advance t).clk.mode = s.clk.mode := by
  obtain ⟨ps, h⟩ := s.advance_eq t
  rw [h]

end

/-- BAR0 answers through the passing of time (R32). -/
theorem State.bar_advance {s : State} (hp : s.clk.pcie = true) (hm : s.clk.mode ≠ 0) (t : Tick) :
    (s.advance t).bar = true := by
  simp [State.bar, hp, hm]

theorem execRegisterWrite_bar {s : State} (hp : s.clk.pcie = true) (hm : s.clk.mode ≠ 0) (t : Tick) (off : Nat) (v : Word) :
    execRegisterWrite t off v s = .next ((s.advance t).regWrite off v) := by
  simp only [execRegisterWrite, State.bar_advance hp hm, if_true]

theorem execRegisterReadClear_bar {s : State} (hp : s.clk.pcie = true) (hm : s.clk.mode ≠ 0) (t : Tick) (off : Nat) :
    execRegisterReadClear t off s = .next
      (((s.advance t).modSys fun y => { y with readData := BitVec.ofNat 32 ((s.advance t).regRead off) }).regClear off) := by
  simp only [execRegisterReadClear, State.bar_advance hp hm, if_true]

theorem execFaultConsWrite_bar {s : State} (hp : s.clk.pcie = true) (hm : s.clk.mode ≠ 0) (t : Tick) (v : Word) :
    execFaultConsWrite t v s = .next ((s.advance t).faultConsWrite v) := by
  simp only [execFaultConsWrite, State.bar_advance hp hm, if_true]

/-- SNAP with bit 0, from a host that may use the performance counters, copies them (R468). -/
theorem State.snapWrite_granted {w : State} {v : Word} (hp : w.clk.pcie = true) (hu : w.prot.perfUser = true)
    (hv : bit v.toNat 0 = true) :
    w.snapWrite v =
      w.modClk fun k => { k with snapped := k.perf, snapFlags := k.perf.map w.perfFlags, snapTime := w.dev } := by
  simp only [State.snapWrite, hp, hu, hv, Bool.and_self, if_true]

/-- A FAULT_CONS that does not run ahead of FAULT_PROD keeps at most 4,096 records unread and counts the rest lost (R485). -/
theorem State.faultConsWrite_behind {w : State} {v : Word} (hv : serialLt 32 w.sys.faultProd.toNat v.toNat = false) :
    w.faultConsWrite v =
      w.faultsLost (v + BitVec.ofNat 32 ((w.sys.faultProd - v).toNat - 4096)) ((w.sys.faultProd - v).toNat - 4096) := by
  simp only [State.faultConsWrite, hv, Bool.false_eq_true, if_false]

end Sys2Proof.Machine

namespace Sys2Proof
open Machine

/-- Settles O16: BAR0 still answers once time has passed, and each access is then its meaning without the guard. -/
theorem registerAccessComplete : Obligations.RegisterAccessComplete := by
  unfold Obligations.RegisterAccessComplete
  refine ⟨?write, ?readClear, ?snap, ?cons⟩
  case write =>
    intro s t off v hp hm
    exact execRegisterWrite_bar hp hm t off v
  case readClear =>
    intro s t off hp hm
    exact execRegisterReadClear_bar hp hm t off
  case snap =>
    intro s t v hp hu hv
    exact congrArg Host.Outcome.next (State.snapWrite_granted (by simp [hp]) (by simp [hu]) hv)
  case cons =>
    intro s t v hp hm hv
    have hb : (s.advance t).faultConsWrite v = _ := State.faultConsWrite_behind (by simpa using hv)
    simp only [State.advance_sys] at hb
    exact (execFaultConsWrite_bar hp hm t v).trans (congrArg Host.Outcome.next hb)

end Sys2Proof
end

section
/-!
PROOFS. Each command answers a next state that leaves its part of the core as it was when time had passed. Most leave the whole
core; those that move emitter channels leave the base; those that may set or clear the interlock latch leave the queue, the
instant and the protection map; resets and boots leave the queue and the instant.
-/
namespace Sys2Proof.Machine

/-- How much of the core a command leaves alone, most first. -/
inductive CorePart where
  /-- all of it -/
  | whole
  /-- all but the emitter channels -/
  | base
  /-- all but the emitter channels and the interlock latch -/
  | kept
  /-- the queue and the instant -/
  | line

/-- Two cores agree on this part. -/
def CorePart.same : CorePart → Core → Core → Prop
  | .whole, c, d => c = d
  | .base, c, d => c.base = d.base
  | .kept, c, d => c.kept = d.kept
  | .line, c, d => c.line = d.line

/-- Whatever the part, it holds the queue and the instant. -/
theorem CorePart.same.line {p : CorePart} {c d : Core} (h : p.same c d) : c.line = d.line := by
  cases p with
  | whole => exact congrArg Core.line h
  | base => exact line_of_base h
  | kept => exact line_of_kept h
  | line => exact h

/-- The outcome is a next state whose core has this part as it was when time had passed to the command's instant. -/
def Answers (p : CorePart) (s : State) (t : Tick) (o : Host.Outcome State Fault Refusal) : Prop :=
  ∃ u, o = .next u ∧ p.same u.core (s.advance t).core

section
variable {s : State} {t : Tick}

theorem Answers.whole {u : State} (h : u.core = (s.advance t).core) : Answers .whole s t (.next u) := ⟨u, rfl, h⟩

theorem Answers.base {u : State} (h : u.core.base = (s.advance t).core.base) : Answers .base s t (.next u) := ⟨u, rfl, h⟩

theorem Answers.kept {u : State} (h : u.core.kept = (s.advance t).core.kept) : Answers .kept s t (.next u) := ⟨u, rfl, h⟩

theorem Answers.line {u : State} (h : u.core.line = (s.advance t).core.line) : Answers .line s t (.next u) := ⟨u, rfl, h⟩

/-- A plain slice instruction, whatever it computes. -/
theorem Answers.of_plain {i op n : Nat} {f : Word → Slice → SliceRes} : Answers .whole s t (.next (s.plain t i op n f)) :=
  .whole ((State.plain_core s t i op n f).trans (State.advance_core s t).symm)

/-- A branch, taken or not. -/
theorem Answers.of_branch {i op : Nat} {taken : Word → Word → Bool} :
    Answers .whole s t (.next (s.branch t i op taken)) :=
  .whole ((State.branch_core s t i op taken).trans (State.advance_core s t).symm)

/-- A move from or to a special register, where its effect leaves the core alone. -/
theorem Answers.of_special {i op : Nat} {sel : Nat → Bool} {body : State → Word → State}
    (h : ∀ u w, (body u w).core = u.core) : Answers .whole s t (.next (s.special t i op sel body)) :=
  .whole ((State.special_core s t i op sel body h).trans (State.advance_core s t).symm)

end

/-- The end of a boot changes no protection map. -/
@[simp] theorem State.bootOn_kept (s : State) : s.bootOn.core.kept = s.core.kept := by
  unfold State.bootOn
  split
  · rw [State.bootDone_kept, State.stage_core]
  · rfl

section
variable (s : State) (t : Tick)

/-! Emitter drive (R100 to R122). -/

theorem execEmitUpdate_answers : Answers .base s t (execEmitUpdate t s) :=
  .base (by simp only [State.releaseRamps_base, State.updateCode_base, implies_true, base_foldl])

theorem execRampEnd_answers (ch : Nat) : Answers .base s t (execRampEnd t ch s) := by
  refine .base ?_
  split
  · simp only [core_ite, base_ite, State.releaseRamps_base, State.modCh_base, ite_self]
  · rfl

theorem execPowerLoop_answers (mpd : List Nat) : Answers .base s t (execPowerLoop t mpd s) :=
  .base (by simp only [State.loopRun_base, implies_true, base_foldl, State.modEmit_core])

theorem execLoopClose_answers (ch : Nat) : Answers .base s t (execLoopClose t ch s) := by
  refine .base ?_
  split
  · simp only [core_ite, base_ite, State.modCh_base, ite_self]
  · rfl

theorem execPowerClamp_answers (ch : Nat) : Answers .base s t (execPowerClamp t ch s) := by
  refine .base ?_
  split
  · simp only [core_ite, State.emitter_core, base_ite, State.modCh_base, ite_self]
  · rfl

theorem execPowerLost_answers (ch : Nat) : Answers .base s t (execPowerLost t ch s) := by
  refine .base ?_
  split
  · simp only [core_ite, State.emitter_core, base_ite, State.modCh_base, ite_self]
  · rfl

theorem execPumpThRequest_answers : Answers .whole s t (execPumpThRequest t s) :=
  .whole (by simp only [core_ite, State.inject_core, ite_self])

theorem execThermistorFault_answers : Answers .base s t (execThermistorFault t s) :=
  .base (by simp only [core_ite, base_ite, State.pumpFail_base, ite_self])

theorem execPumpReturn_answers : Answers .base s t (execPumpReturn t s) := by
  refine .base ?_
  split
  · simp only [core_ite, base_ite, State.rampSet_base, State.modEmit_core, ite_self]
  · rfl

theorem execWlLoop_answers (wla wlb : Nat) : Answers .whole s t (execWlLoop t wla wlb s) := by
  refine .whole ?_
  split
  · exact State.wlDrop_core _
  · extract_lets r top w1 duty w2 w3
    have h : w3.core = (s.advance t).core := by
      simp only [w3, w2, w1]
      rw [State.tookFree_core, State.modEmit_core _ _ rfl, State.tookFree_core, State.tookFree_core]
    clear_value w3
    rw [← h]
    split
    · exact State.modEmit_core _ _ rfl
    · exact State.wlDrop_core _

theorem execWlLock_answers : Answers .whole s t (execWlLock t s) := by
  refine .whole ?_
  split
  · simp only [core_ite, State.emitter_core, State.modEmit_core, ite_self]
  · rfl

/-! Reception and calibration (R126 to R144). -/

theorem execApdBiasUpdate_answers : Answers .whole s t (execApdBiasUpdate t s) :=
  .whole (by simp only [core_ite, State.inject_core, State.apdApply_core, State.modEmit_core, ite_self])

theorem execApdBiasCut_answers : Answers .whole s t (execApdBiasCut t s) :=
  .whole (by simp only [core_ite, State.apdDrop_core, ite_self])

theorem execTrackerUpdate_answers (rx : List (List (Int × Int))) (tx : Int × Int) (found : Nat) :
    Answers .whole s t (execTrackerUpdate t rx tx found s) := by
  refine .whole ?_
  split
  · rfl
  · dsimp only
    split
    · simp only [State.modRecv_core]
    · split
      · simp only [State.calCause_core, State.modRecv_core]
      · split
        · simp only [core_ite, State.modRecv_core, State.corrEffect_core, ite_self]
        · split
          · simp only [State.modRecv_core]
          · simp only [State.corrEffect_core, State.modRecv_core]

theorem execPilotLost_answers (boundary : Nat) : Answers .whole s t (execPilotLost t boundary s) := by
  refine .whole ?_
  split
  · simp only [core_ite, State.calCause_core, State.health_core, State.modRecv_core, ite_self]
  · rfl

theorem execCalTempCheck_answers (temp : Int) : Answers .whole s t (execCalTempCheck t temp s) :=
  .whole (by simp only [core_ite, State.calCause_core, State.modRecv_core, ite_self])

theorem execCalRetry_answers : Answers .whole s t (execCalRetry t s) := by
  refine .whole ?_
  split
  · simp only [core_ite, State.calCause_core, State.modRecv_core, ite_self]
  · rfl

theorem execCalStep_answers (level : List Int) : Answers .whole s t (execCalStep t level s) := by
  refine .whole ?_
  split
  · rfl
  · extract_lets fail step
    have hstep : ∀ c, (step c).core = (s.advance t).core := fun c => by
      simp only [step]
      rw [State.perfEvent_core, State.modRecv_core]
    split
    · simp only [core_ite, hstep, ite_self]
    · simp only [core_ite, hstep, ite_self]

theorem execCalRunEnd_answers (resid : CalResid) : Answers .whole s t (execCalRunEnd t resid s) := by
  refine .whole ?_
  split
  · rfl
  · simp only [core_ite, State.calFinish_core, ite_self]

theorem execRefdivTimeout_answers : Answers .whole s t (execRefdivTimeout t s) := by
  refine .whole ?_
  split
  · rfl
  · split
    · simp only [core_ite, State.calFinish_core, ite_self]
    · rfl

theorem execBlotterStep_answers (m : Blotter) : Answers .whole s t (execBlotterStep t m s) := by
  refine .whole ?_
  split
  · rfl
  · split
    · rfl
    · extract_lets last step
      have hstep : ∀ x, (step x).core = (s.advance t).core := fun x => by
        simp only [step, core_ite, State.apdApply_core, State.perfEvent_core, State.modRecv_core, ite_self]
      split
      · simp only [core_ite, hstep, ite_self]
      · simp only [core_ite, hstep, ite_self]

theorem execSelftestEnd_answers : Answers .whole s t (execSelftestEnd t s) := by
  refine .whole ?_
  split
  · simp only [core_ite, State.testFinish_core, ite_self]
  · rfl

/-! Pulse compression (R155 to R183). -/

theorem execPceBlockProcessed_answers (slot start : Nat) (codes : List LaneCodes) :
    Answers .whole s t (execPceBlockProcessed t slot start codes s) := by
  refine .whole ?_
  split
  · simp only [State.takeCodes_core]
  · simp only [core_ite, State.pceBlock_core, State.takeCodes_core, ite_self]

/-! Tiles (R211 to R231). -/

theorem execRowWrite_answers : Answers .whole s t (execRowWrite t s) := by
  refine .whole ?_
  split
  · rfl
  · simp only [core_ite, State.closeTile_core, implies_true, core_foldl, State.putRow_core, State.modSill_core,
      State.openTile_core, ite_self]

theorem execTileClose_answers (group : Nat) : Answers .whole s t (execTileClose t group s) := by
  refine .whole ?_
  split
  · simp only [State.closeTile_core]
  · rfl

theorem execTileRead_answers (engine : Nat) : Answers .whole s t (execTileRead t engine s) := by
  refine .whole ?_
  split
  · split
    · rfl
    · split
      next y _ =>
        rw [State.modClosed_core, State.modEng_core]
        exact State.deliverTile_core _ y
      · rfl
  · rfl

theorem execBankFadeEnd_answers : Answers .whole s t (execBankFadeEnd t s) :=
  .whole (by simp only [core_ite, State.bankRequest_core, State.modSill_core, ite_self])

/-! Temperatures and the accord (R188 to R205). -/

theorem execRamanLaunch_answers (rma rms : List Int) : Answers .whole s t (execRamanLaunch t rma rms s) :=
  .whole (by simp only [core_ite, State.ramanTake_core, State.modRun_core, State.modTherm_core, State.ramanAbort_core,
    State.perfEvent_core, ite_self])

theorem execCoilRead_answers : Answers .whole s t (execCoilRead t s) :=
  .whole (by simp only [core_ite, State.coilAsk_core, State.modTherm_core, ite_self])

theorem execCoilHoldExpired_answers : Answers .whole s t (execCoilHoldExpired t s) := by
  refine .whole ?_
  split
  · simp only [core_ite, State.health_core, State.modTherm_core, ite_self]
  · rfl

theorem execRamanAccumulationComplete_answers : Answers .whole s t (execRamanAccumulationComplete t s) :=
  .whole (by simp only [core_ite, State.ramanTake_core, State.ramanAbort_core, State.modTherm_core, ite_self])

theorem execRamanRatioDone_answers : Answers .whole s t (execRamanRatioDone t s) := by
  refine .whole ?_
  split
  · rfl
  · extract_lets ps first dk dark dA dS gA gS coilM lc lost w1 w overdue dc2 avg marked one
    have hw : w.core = (s.advance t).core := by
      simp only [w, w1]
      rw [State.modTherm_core]
      rfl
    clear_value w
    refine (core_foldl _ (fun u sec => ?_) _ _).trans hw
    simp only [one]
    split
    · exact State.modTherm_core _ _
    · split
      · rw [State.modTherm_core]
        rfl
      · rfl

theorem execAccordUpdate_answers : Answers .whole s t (execAccordUpdate t s) := by
  refine .whole ?_
  extract_lets ps S one used w
  clear_value S
  have hw : w.core = (s.advance t).core := core_foldl _ (fun u sec => State.modTherm_core _ _) _ _
  clear_value w
  split
  · rfl
  · rw [State.modTherm_core, hw]

theorem execAccordFrameComplete_answers : Answers .whole s t (execAccordFrameComplete t s) :=
  .whole (by simp only [core_ite, State.refreshDark_core, State.tempAll_core, State.modTherm_core,
    State.objectOut_core, State.baseWrite_core, implies_true, core_foldl, ite_self])

theorem execHoldoffExpired_answers (zone crit : Nat) : Answers .whole s t (execHoldoffExpired t zone crit s) := by
  refine .whole ?_
  split
  · simp only [core_ite, State.modCrit_core, ite_self]
  · rfl

/-! Sessions, frames and ports (R314 to R335). -/

theorem execEventFrameSend_answers (session : Nat) : Answers .whole s t (execEventFrameSend t session s) := by
  refine .whole ?_
  split
  · simp only [core_ite, State.modAtom_core, State.modRing_core, ite_self]
  · split
    · rfl
    · simp only [core_ite, State.emitFrame_core, State.modSession_core, ite_self]

theorem execStreamFrameSend_answers (session kind : Nat) :
    Answers .whole s t (execStreamFrameSend t session kind s) := by
  refine .whole ?_
  split
  · rfl
  · split
    · rfl
    · split
      · simp only [State.objectSend_core]
      · split
        · rfl
        · simp only [core_ite, State.emitStream_core, State.modSession_core, ite_self]

theorem execRingInterruptHoldoffEnd_answers (ring : Nat) :
    Answers .whole s t (execRingInterruptHoldoffEnd t ring s) :=
  .whole (by simp only [core_ite, State.ringVector_core, ite_self])

theorem execRingEnable_answers (ring : Nat) (v : Word) : Answers .whole s t (execRingEnable t ring v s) :=
  .whole (by simp only [core_ite, State.ringEnableWrite_core, ite_self])

theorem execFrameTransmit_answers (path : Nat) : Answers .whole s t (execFrameTransmit t path s) := by
  refine .whole ?_
  split
  · simp only [core_ite, State.ringWrite_core, ite_self]
  · split
    · rfl
    · split
      · simp only [core_ite, State.perfEvent_core, State.modAtom_core, ite_self, State.portSend_core]
      · simp only [State.portSend_core]

theorem execKeepalive_answers (session : Nat) : Answers .whole s t (execKeepalive t session s) := by
  refine .whole ?_
  split
  · rfl
  · simp only [core_ite, State.modSession_core, State.toPaths_core, ite_self]

theorem execNetLinkChange_answers (port : Nat) (up : Bool) : Answers .whole s t (execNetLinkChange t port up s) :=
  .whole (by simp only [State.modPort_core])

theorem execNetworkRequest_answers (port kind addr src : Nat) (rct : Option (Nat × Nat × Nat)) :
    Answers .whole s t (execNetworkRequest t port kind addr src rct s) := by
  refine .whole ?_
  split
  · split
    · simp only [core_ite, State.prpReceive_core, State.perfEvent_core, State.modAtom_core, ite_self]
    · simp only [core_ite, State.perfEvent_core, State.modAtom_core, ite_self]
  · simp only [core_ite, State.perfEvent_core, State.modAtom_core, ite_self]

theorem execPrpSupervision_answers : Answers .whole s t (execPrpSupervision t s) :=
  .whole (by simp only [List.foldl_cons, List.foldl_nil, core_ite, State.perfEvent_core, State.modAtom_core,
    ite_self])

/-! Base records (R229). -/

theorem execBaseRecordsDelivered_answers (set : Nat) : Answers .whole s t (execBaseRecordsDelivered t set s) := by
  refine .whole ?_
  split
  · rfl
  · split
    · rfl
    · split
      · rfl
      · extract_lets w recs write v
        have hv : v.1.core = (s.advance t).core := by
          refine (core_foldl_fst _ (fun p r => ?_) _ _).trans (State.modSlc_core _ _ _)
          simp only [write]
          split
          · rfl
          · split
            · rw [State.sliceFault_core, State.protFault_core]
            · exact State.baseWrite_core _ _ _ _ _ _ _ _
        rw [State.deliverReds_core, State.followBase_core, hv]

/-! Captures (R285 to R300). -/

theorem execTrigEdge_answers (n : Nat) (falling : Bool) (edge : Tick) (frac : Nat) :
    Answers .whole s t (execTrigEdge t n falling edge frac s) :=
  .whole (by simp only [core_ite, State.triggerAll_core, ite_self])

theorem execStarEdge_answers (edge : Tick) (frac : Nat) : Answers .whole s t (execStarEdge t edge frac s) :=
  .whole (by simp only [core_ite, State.triggerAll_core, ite_self])

theorem execStarPulseEnd_answers : Answers .whole s t (execStarPulseEnd t s) := by
  refine .whole ?_
  split
  · split <;> rfl
  · rfl

theorem execCaptureWindowEnd_answers (slot : Nat) : Answers .whole s t (execCaptureWindowEnd t slot s) :=
  .whole (by simp only [core_ite, State.enterSealing_core, ite_self])

theorem execCaptureSeal_answers (slot : Nat) : Answers .whole s t (execCaptureSeal t slot s) :=
  .whole (by simp only [core_ite, State.sealed_core, ite_self])

/-! Display (R429 to R438). -/

theorem execWaterfallRow_answers (output : Nat) : Answers .whole s t (execWaterfallRow t output s) := by
  refine .whole ?_
  split
  · rfl
  · simp only [core_ite, State.modLayer_core, ite_self]

theorem execDispFrameStart_answers (underruns : List (Nat × Nat)) :
    Answers .whole s t (execDispFrameStart t underruns s) :=
  .whole (by simp only [core_ite, State.underrun_core, ite_self, implies_true, core_foldl, State.fetchCheck_core,
    State.pulse_core, State.modDisp_core])

theorem execDispFrameEnd_answers : Answers .whole s t (execDispFrameEnd t s) :=
  .whole (by simp only [core_ite, State.modDisp_core, State.checkEnd_core, implies_true, core_foldl, ite_self])

/-! Instrumentation (R405 to R427). -/

theorem execConversionResult_answers (code : Int) (chopFault : Bool) :
    Answers .base s t (execConversionResult t code chopFault s) := by
  refine .base ?_
  split
  · rfl
  · simp only [core_ite, State.convResult_core, State.chopperGood_core, ite_self, base_ite, State.endConv_base,
      State.chopperFault_core]

theorem execConversionComplete_answers : Answers .base s t (execConversionComplete t s) := by
  refine .base ?_
  split
  · simp only [core_ite, State.nextConv_core, ite_self]
  · simp only [core_ite, base_ite, State.endConv_base, ite_self]

theorem execInputFault_answers (kind : Nat) : Answers .base s t (execInputFault t kind s) := by
  refine .base ?_
  split
  · rfl
  · simp only [core_ite, base_ite, State.endConv_base, State.bump_core, State.modInst_core, State.convFlag_core,
      ite_self]

theorem execFallbackRetry_answers (input : Nat) : Answers .whole s t (execFallbackRetry t input s) :=
  .whole (by simp only [State.modInst_core])

theorem execInstWindow_answers (n : Nat) (above : Bool) (leftAt : Tick) :
    Answers .whole s t (execInstWindow t n above leftAt s) :=
  .whole (by simp only [core_ite, State.deviceRecordAt_core, State.winGo_core, ite_self])

theorem execWindowReturn_answers (n : Nat) : Answers .whole s t (execWindowReturn t n s) :=
  .whole (by simp only [core_ite, State.winGo_core, ite_self])

theorem execFqoUpdate_answers (n : Nat) : Answers .whole s t (execFqoUpdate t n s) := by
  refine .whole ?_
  split
  · rfl
  · split
    · simp only [State.modInst_core]
    · simp only [State.fqoFail_core]

theorem execFqoTimeout_answers (n : Nat) : Answers .whole s t (execFqoTimeout t n s) := by
  refine .whole ?_
  split
  · simp only [core_ite, State.fqoFail_core, ite_self]
  · rfl

/-! Flacon engines (R301 to R311). -/

theorem execFlushTimeExpiry_answers : Answers .whole s t (execFlushTimeExpiry t s) := .whole rfl

theorem execFlaconJobStart_answers (engine : Nat) : Answers .whole s t (execFlaconJobStart t engine s) := by
  refine .whole ?_
  extract_lets e
  have hw : ((s.advance t).woken [6]).core = (s.advance t).core := State.woken_core _ _
  split
  · exact hw
  · split
    · split
      · exact hw
      · split
        · exact hw
        · rw [State.modEng_core, State.count_core, hw]
    · split
      · rw [State.modEng_core, hw]
      · exact hw

theorem execFlaconOutputDrain_answers (engine : Nat) : Answers .whole s t (execFlaconOutputDrain t engine s) :=
  .whole (by simp only [core_ite, State.count_core, State.tookFree_core, ite_self])

theorem execFlaconCommit_answers (engine : Nat) (stream : List Byte) :
    Answers .whole s t (execFlaconCommit t engine stream s) := by
  refine .whole ?_
  split
  · split
    · simp only [State.flaconStore_core]
    · dsimp only
      split
      · simp only [State.flaconStore_core]
      · rfl
  · rfl

theorem execDecompressionDone_answers (engine : Nat) : Answers .whole s t (execDecompressionDone t engine s) := by
  refine .whole ?_
  split
  · extract_lets w
    have hw : w.core = (s.advance t).core := State.engineDone_core _ _
    clear_value w
    split
    · rw [State.restored_core, hw]
    next seg off mb tag _ _ f _ =>
      have hr := (State.masterRead_core w mFlacon (w.flaconAddr seg off) f.len).trans hw
      generalize w.masterRead mFlacon (w.flaconAddr seg off) f.len = r at hr ⊢
      rw [core_ite, State.restored_core, State.bump_core, hr]
      refine ite_eq_left_iff.mpr fun _ => ?_
      split
      · rw [State.restored_core, hr]
      · rw [State.restored_core, State.health_core, State.bump_core, hr]
  · rfl

/-! Memory controller (R343 to R363). -/

theorem execMemReadComplete_answers (master addr len : Nat) (errs : List WordErr) :
    Answers .whole s t (execMemReadComplete t master addr len errs s) := by
  unfold execMemReadComplete
  extract_lets w v
  have hw : w.core = (s.advance t).core := State.woken_core _ _
  split
  · exact .whole hw
  · split
    · have hv : v.core = w.core := (State.readDone_core _ _ _).trans (State.protFault_core _ _ _)
      refine .whole ?_
      simp only [core_ite, State.fetchFails_core, hv, hw, ite_self]
    · exact .whole (by rw [State.readResult_core, State.issued_core, hw])

theorem execMemReread_answers (errs : List WordErr) (upperExpired : Bool) :
    Answers .whole s t (execMemReread t errs upperExpired s) := by
  refine .whole ?_
  split
  · rfl
  · simp only [core_ite, State.uncorrectable_core, State.modMemc_core, ite_self, State.lateOnce_core, State.bump_core,
      State.rereadGood_core]

theorem execScrubRead_answers (errs : List WordErr) : Answers .whole s t (execScrubRead t errs s) := by
  refine .whole ?_
  split
  · rw [State.woken_core]
  · extract_lets a w
    have hw : w.core = (s.advance t).core := by
      simp only [w]
      rw [State.modMemc_core, State.issued_core, State.woken_core]
    clear_value w
    split
    · exact hw
    · rw [State.corrected_core, hw]
    · rw [← hw]
      split
      · exact State.uncorrectable_core _ _ _ _
      · exact State.modMemc_core _ _

theorem execRefresh_answers (sc rank bank : Nat) (waiting : Bool) :
    Answers .whole s t (execRefresh t sc rank bank waiting s) :=
  .whole (by simp only [core_ite, State.modMemc_core, ite_self])

theorem execMr4Poll_answers (codes : List Nat) : Answers .whole s t (execMr4Poll t codes s) :=
  .whole (by simp only [core_ite, State.health_core, implies_true, core_foldl, State.modMemc_core, ite_self])

theorem execDqsTrack_answers (drift : List Int) : Answers .whole s t (execDqsTrack t drift s) :=
  .whole (by simp only [core_ite, State.health_core, implies_true, core_foldl, State.modMemc_core, ite_self])

theorem execCeHealthHour_answers : Answers .whole s t (execCeHealthHour t s) :=
  .whole (by simp only [core_ite, State.modMemc_core, ite_self])

theorem execAgePromotion_answers : Answers .whole s t (execAgePromotion t s) :=
  .whole (by simp only [State.count_core, State.modMemc_core])

theorem execPanic_answers (port level : Nat) : Answers .whole s t (execPanic t port level s) :=
  .whole (by simp only [core_ite, State.modMemc_core, State.count_core, ite_self])

theorem execFill_answers : Answers .whole s t (execFill t s) := by
  refine .whole ?_
  split
  · rfl
  · simp only [core_ite, State.modMemc_core, State.dramZero_core, State.issueOlder_core, ite_self]

/-! Slice instructions (R232 to R239). -/

theorem execAccx_answers (sl : Nat) : Answers .whole s t (execAccx t sl s) :=
  .whole (by simp only [State.through_core, State.tookFree_core, implies_true, State.issue_core])

theorem execAcci_answers (sl : Nat) : Answers .whole s t (execAcci t sl s) :=
  .whole (by simp only [State.through_core, State.tookFree_core, implies_true, State.issue_core])

theorem execCall_answers (sl : Nat) : Answers .whole s t (execCall t sl s) :=
  .whole (by simp only [State.sliceGoto_core, State.sliceCycles_core, State.modSlc_core, implies_true,
    State.issue_core])

theorem execRet_answers (sl : Nat) : Answers .whole s t (execRet t sl s) :=
  .whole (by simp only [State.sliceGoto_core, State.sliceCycles_core, implies_true, State.issue_core])

theorem execRep_answers (sl : Nat) : Answers .whole s t (execRep t sl s) := by
  refine .whole (State.issue_core _ _ _ _ fun u w => ?_)
  extract_lets x n
  split
  · exact State.sliceFault_core _ _ _
  · split
    · exact State.sliceFault_core _ _ _
    · rw [State.sliceGoto_core, State.perfEvent_core, State.modSlc_core, State.sliceCycles_core, State.modSlc_core]
      rfl

/-! Slice transfers and special registers (R240 to R253). -/

theorem execTileDma_answers (sl : Nat) : Answers .whole s t (execTileDma t sl s) := by
  refine .whole ?_
  extract_lets x
  have hw : ((s.advance t).woken [5, 6]).core = (s.advance t).core := State.woken_core _ _
  split
  · split
    · exact hw
    · split
      · exact hw
      · split
        · rw [State.dmaColumns_core, hw]
        · split
          · exact hw
          · simp only [core_ite, State.dmaColumns_core, State.modTileAt_core, State.modSlc_core, hw, ite_self]
  · exact hw

theorem execMfs_answers (sl : Nat) : Answers .whole s t (execMfs t sl s) := .of_special fun _ _ => rfl

theorem execCycleLo_answers (sl : Nat) : Answers .whole s t (execCycleLo t sl s) := .of_special fun _ _ => rfl

theorem execPerfLo_answers (sl : Nat) : Answers .whole s t (execPerfLo t sl s) := .of_special fun _ _ => rfl

theorem execMts_answers (sl : Nat) : Answers .whole s t (execMts t sl s) := .of_special fun _ _ => rfl

theorem execColFree_answers (sl : Nat) : Answers .whole s t (execColFree t sl s) := .of_special fun _ _ => rfl

theorem execTileDone_answers (sl : Nat) : Answers .whole s t (execTileDone t sl s) :=
  .whole (by simp only [core_ite, State.tileComplete_core, State.advance_core, ite_self, implies_true,
    State.special_core])

theorem execOutPush_answers (sl : Nat) : Answers .whole s t (execOutPush t sl s) :=
  .whole (by simp only [core_ite, State.sliceFault_core, State.bump_core, State.modSlc_core, ite_self, implies_true,
    State.special_core, State.advance_core])

theorem execEvt_answers (sl : Nat) : Answers .whole s t (execEvt t sl s) :=
  .whole (by simp only [core_ite, State.sliceFault_core, State.modSlc_core, State.bump_core, ite_self, implies_true,
    State.special_core, State.advance_core])

theorem execWaitt_answers (sl : Nat) : Answers .whole s t (execWaitt t sl s) :=
  .whole (by simp only [core_ite, State.sliceGoto_core, State.sliceCycles_core, State.modSlc_core, ite_self,
    implies_true, State.issue_core])

theorem execWaitc_answers (sl : Nat) : Answers .whole s t (execWaitc t sl s) :=
  .whole (by simp only [core_ite, State.sliceGoto_core, State.sliceCycles_core, State.modSlc_core, ite_self,
    implies_true, State.issue_core])

theorem execOutputDmaComplete_answers (sl : Nat) : Answers .whole s t (execOutputDmaComplete t sl s) := by
  refine .whole ?_
  split
  · rfl
  · split
    · rfl
    · extract_lets d addr count kind ch len w data stop v r
      have hw : w.core = (s.advance t).core := State.modSlc_core _ _ _
      have hv : v.core = (s.advance t).core := by
        simp only [v]
        split
        · exact hw
        · rw [State.follow_core, hw]
      have hr : r.1.core = (s.advance t).core := (State.sliceHeart_core _ _ _ _ _).trans hv
      clear_value r v stop data w len ch kind
      split
      · rw [State.sliceFault_core, hw]
      · split
        · split
          · rw [State.sliceFault_core, hr]
          · exact hr
        · rw [State.pushRecords_core, hv]
        · exact (core_foldl _ (fun u e => State.modTherm_core _ _) _ _).trans hv
        · exact hv

theorem execClassRecordMade_answers : Answers .whole s t (execClassRecordMade t s) := by
  refine .whole ?_
  split
  · rfl
  · split
    · rfl
    · simp only [State.zoneRecord_core, State.bump_core, State.modSlc_core, State.stitchEval_core,
        State.profilesAll_core]

/-! Time and intervals (R364 to R384). -/

theorem execAgeingStep_answers : Answers .whole s t (execAgeingStep t s) :=
  .whole (by simp only [core_ite, State.modTime_core, State.settle_core, ite_self])

theorem execPtpAnnounce_answers (port domain : Nat) (ipv6 : Bool) (master quality : Nat) (utcOffset : Int) :
    Answers .whole s t (execPtpAnnounce t port domain ipv6 master quality utcOffset s) := by
  refine .whole ?_
  split
  · rfl
  · dsimp only
    split
    · simp only [State.modTime_core]
    · simp only [core_ite, State.modTime_core, State.ptpGo_core, ite_self]

theorem execPtpSync_answers (port master : Nat) (offPs : Int) (intervalNs : Nat) :
    Answers .whole s t (execPtpSync t port master offPs intervalNs s) := by
  refine .whole ?_
  split
  · rfl
  · simp only [core_ite, State.ptpAct_core, State.ptpHeard_core, ite_self]

theorem execPtpHoldover_answers : Answers .whole s t (execPtpHoldover t s) :=
  .whole (by simp only [core_ite, State.ptpGo_core, State.setRate_core, ite_self])

theorem execTiuArm_answers : Answers .whole s t (execTiuArm t s) := by
  refine .whole ?_
  split
  · rfl
  · simp only [core_ite, State.modTime_core, ite_self]

theorem execTiuInputEdge_answers (source : Nat) (rising : Bool) :
    Answers .whole s t (execTiuInputEdge t source rising s) :=
  .whole (by simp only [core_ite, State.tiuEdge_core, State.modTime_core, ite_self, State.tiuBuffered_core])

theorem execTiuTimeout_answers : Answers .whole s t (execTiuTimeout t s) := by
  refine .whole ?_
  split
  · split
    · simp only [core_ite, State.tiuEnd_core, State.tiuTake_core, ite_self]
    · simp only [State.tiuTake_core]
  · simp only [State.tiuTake_core]

theorem execTiuCodeDensityTest_answers (temp : Int) : Answers .whole s t (execTiuCodeDensityTest t temp s) :=
  .whole (by simp only [core_ite, State.modTime_core, ite_self])

theorem execPairsyncDrive_answers : Answers .whole s t (execPairsyncDrive t s) :=
  .whole (by simp only [core_ite, State.modTime_core, State.psSecond_core, ite_self])

theorem execPairsyncPulse_answers : Answers .whole s t (execPairsyncPulse t s) :=
  .whole (by simp only [core_ite, State.psTry_core, State.linkWire_core, State.modTime_core, State.psSecond_core,
    State.tiuEdge_core, ite_self])

theorem execPairsyncResultDeadline_answers : Answers .whole s t (execPairsyncResultDeadline t s) :=
  .whole (by simp only [core_ite, State.modTime_core, State.health_core, ite_self])

/-! Twin link (R385 to R404). -/

theorem execHeartbeat_answers (h : LinkHdr) (leaving : Bool) (caps holdMs hbLossUs : Nat) (dark : List Nat) :
    Answers .whole s t (execHeartbeat t h leaving caps holdMs hbLossUs dark s) :=
  .whole (by simp only [core_ite, State.twinRecord_core, State.modTwin_core, ite_self, State.join_core,
    State.linkDown_core, State.ownership_core, State.tryPair_core, implies_true, State.linkIn_core])

theorem execConfirm_answers (h : LinkHdr) (recs : List EventRec) : Answers .whole s t (execConfirm t h recs s) :=
  .whole (by simp only [State.tryPair_core, State.resyncIn_core, State.matchHeld_core, core_ite, State.modZone_core,
    State.modTwin_core, ite_self, implies_true, core_foldl, State.linkIn_core])

theorem execSeqTable_answers (h : LinkHdr) (firstZone : Nat) (next : List Nat) :
    Answers .whole s t (execSeqTable t h firstZone next s) :=
  .whole (by simp only [State.tryPair_core, State.donePhase_core, State.resyncIn_core, State.modTwin_core, core_ite,
    State.adopt_core, State.modZone_core, ite_self, implies_true, core_foldl, State.linkIn_core])

theorem execDigest_answers (h : LinkHdr) (firstZone : Nat) (entries : List Nat) :
    Answers .whole s t (execDigest t h firstZone entries s) :=
  .whole (by simp only [State.tryPair_core, State.donePhase_core, State.seqPhase_core, State.resyncIn_core, core_ite,
    State.repair_core, implies_true, core_foldl, State.modTwin_core, ite_self, State.linkIn_core])

theorem execHandback_answers (h : LinkHdr) (zone next : Nat) : Answers .whole s t (execHandback t h zone next s) :=
  .whole (by simp only [State.tryPair_core, State.resyncIn_core, core_ite, State.linkSend_core, State.sendHeldOf_core,
    State.modZone_core, ite_self, implies_true, State.linkIn_core])

theorem execHandbackAck_answers (h : LinkHdr) (zone : Nat) : Answers .whole s t (execHandbackAck t h zone s) :=
  .whole (by simp only [State.tryPair_core, State.resyncIn_core, core_ite, State.twinRecord_core, State.modZone_core,
    ite_self, implies_true, State.linkIn_core])

theorem execPairsyncFrame_answers (h : LinkHdr) (sec stamp frac : Nat) :
    Answers .whole s t (execPairsyncFrame t h sec stamp frac s) :=
  .whole (by simp only [core_ite, State.psTry_core, State.modTime_core, State.psSecond_core, ite_self, implies_true,
    State.linkIn_core])

theorem execRejoinDone_answers (h : LinkHdr) : Answers .whole s t (execRejoinDone t h s) :=
  .whole (by simp only [State.tryPair_core, State.resyncIn_core, core_ite, State.linkSend_core, State.modTwin_core,
    ite_self, implies_true, State.linkIn_core])

theorem execTwinFrameCrcError_answers : Answers .whole s t (execTwinFrameCrcError t s) :=
  .whole (by simp only [core_ite, State.bump_core, ite_self])

theorem execHeartbeatSend_answers : Answers .whole s t (execHeartbeatSend t s) :=
  .whole (by simp only [core_ite, State.modTwin_core, State.heartbeatOut_core, State.ownership_core,
    State.refreshDark_core, ite_self])

theorem execHeartbeatLoss_answers : Answers .whole s t (execHeartbeatLoss t s) := by
  refine .whole ?_
  split
  · simp only [core_ite, State.linkDown_core, ite_self]
  · rfl

theorem execTwinRetx_answers : Answers .whole s t (execTwinRetx t s) :=
  .whole (by simp only [core_ite, State.modTwin_core, State.linkWire_core, implies_true, core_foldl,
    State.exchange_core, State.linkDrain_core, State.count_core, ite_self])

theorem execRejoinTimeout_answers : Answers .whole s t (execRejoinTimeout t s) :=
  .whole (by simp only [core_ite, State.linkDown_core, ite_self])

theorem execConfirmKeepExpiry_answers : Answers .whole s t (execConfirmKeepExpiry t s) :=
  .whole (by simp only [State.modTwin_core])

theorem execPromotion_answers : Answers .whole s t (execPromotion t s) :=
  .whole (by simp only [core_ite, State.repair_core, State.modZone_core, implies_true, core_foldl,
    State.refreshDark_core, State.twinRecord_core, State.promote_core, ite_self])

theorem execDarkReturn_answers (zone : Nat) : Answers .whole s t (execDarkReturn t zone s) := by
  refine .whole ?_
  split
  · simp only [core_ite, State.modZone_core, State.refreshDark_core, ite_self]
  · simp only [State.refreshDark_core]

theorem execHandbackInitiate_answers (zone : Nat) : Answers .whole s t (execHandbackInitiate t zone s) :=
  .whole (by simp only [core_ite, State.linkSend_core, State.modZone_core, State.refreshDark_core, ite_self])

/-! Run and COMMIT (R59 and R77 to R98). -/

theorem execCommitLoadComplete_answers : Answers .whole s t (execCommitLoadComplete t s) := by
  refine .whole ?_
  split
  · rfl
  · split
    · rfl
    · simp only [core_ite, State.commitEffect_core, core_mk, core_eta, ite_self]

theorem execRunFirstGroup_answers : Answers .whole s t (execRunFirstGroup t s) := by
  refine .whole ?_
  split
  · split
    · rfl
    · extract_lets req w1 w2 w3 w4 w5
      have h : w5.core = (s.advance t).core := by
        simp only [w5, w4, w3, w2, w1]
        rw [State.refreshDark_core, State.placeSteps_core, State.planModes_core, State.shiftReset_core,
          State.chainResetAll_core, State.modSill_core, State.modPce_core, State.modRun_core, State.ivlRestart_core,
          State.modRun_core, State.refreshDark_core, State.woken_core]
      clear_value w5 req
      split
      · rw [State.final_core, h]
      · exact h
  · rfl

theorem execShotGroupBoundary_answers : Answers .whole s t (execShotGroupBoundary t s) := by
  refine .whole ?_
  split
  · rfl
  · rw [State.placeSteps_core, State.corrEffect_core, State.calEffect_core, State.commitAtBoundary_core,
      State.overrangeHealth_core, State.modRun_core]

theorem execToneLaunch_answers (slot : Nat) : Answers .whole s t (execToneLaunch t slot s) := by
  refine .whole ?_
  split
  · rfl
  · simp only [core_ite, State.endLaunches_core, State.modSlot_core, State.modPce_core, State.perfEvent_core,
      State.modRun_core, State.count_core, ite_self, State.tiuEdge_core]

theorem execLaunchMonCrossing_answers : Answers .whole s t (execLaunchMonCrossing t s) := by
  refine .whole ((core_foldl _ (fun u k => ?_) _ _).trans (State.tiuEdge_core _ _ _))
  split
  · simp only [core_ite, State.modSlot_core, ite_self]
  · rfl

theorem execLaunchWindowEnd_answers (slot : Nat) : Answers .whole s t (execLaunchWindowEnd t slot s) := by
  refine .whole ?_
  split
  · rfl
  · split
    · simp only [State.setOrigin_core, State.modRun_core, State.modSlot_core]
    · simp only [core_ite, State.health_core, State.modSlot_core, State.setOrigin_core, State.bump_core, ite_self]

theorem execRunProcessingDone_answers : Answers .whole s t (execRunProcessingDone t s) :=
  .whole (by simp only [core_ite, State.runOver_core, ite_self])

/-! Optical modules (R115 to R121). -/

theorem execModuleRemoved_answers (pos : Nat) : Answers .kept s t (execModuleRemoved t pos s) :=
  .kept (by simp only [core_ite, State.modModule_core, kept_ite, State.moduleGone_kept, State.ilkFirst_kept,
    ite_self])

theorem execModuleInserted_answers (pos : Nat) : Answers .whole s t (execModuleInserted t pos s) :=
  .whole (by simp only [core_ite, State.modModule_core, ite_self])

theorem execModuleRecordRead_answers (pos : Nat) (one two : Option (List Byte)) :
    Answers .base s t (execModuleRecordRead t pos one two s) := by
  refine .base ?_
  split
  · rfl
  · split
    · simp only [State.moduleJudged_base]
    · simp only [State.moduleJudged_base]

theorem execI2cSclTimeout_answers (bus : Nat) : Answers .base s t (execI2cSclTimeout t bus s) := by
  refine .base ?_
  split
  · exact State.moduleJudged_base _ _ _ _
  · rfl

/-! Retrieval (R338 to R342). -/

theorem execRetrieveObject_answers (job : Nat) (overwritten : Bool) :
    Answers .whole s t (execRetrieveObject t job overwritten s) := by
  refine .whole ?_
  split
  · split
    · rfl
    · split
      · exact State.jobQueue_core _ _
      · split
        · rfl
        · rw [State.modAtom_core, State.jobStep_core]
  · rfl

theorem execRetrieveEnd_answers (job : Nat) : Answers .whole s t (execRetrieveEnd t job s) := by
  refine .whole ?_
  split
  · rfl
  · simp only [core_ite, State.final_core, State.modAtom_core, State.ringWrite_core, State.ringFrame_core, ite_self,
      State.emitFrame_core]

/-! Clocks and power (R440 to R462). -/

theorem execLoopLockLoss_answers (loop : Nat) : Answers .whole s t (execLoopLockLoss t loop s) :=
  .whole (by simp only [core_ite, State.loopLost_core, ite_self])

theorem execLoopLock_answers (loop : Nat) : Answers .whole s t (execLoopLock t loop s) := by
  refine .whole ?_
  split
  · rfl
  · split
    · simp only [State.calTry_core, State.pulse_core, State.setLock_core]
    · simp only [State.modClk_core, State.pulse_core, State.setLock_core]
    · simp only [State.modDisp_core, State.woken_core, State.pulse_core, State.setLock_core]
    · simp only [State.pulse_core, State.setLock_core]

theorem execXaLost_answers : Answers .whole s t (execXaLost t s) :=
  .whole (by simp only [core_ite, State.health_core, State.loopLost_core, ite_self, implies_true, core_foldl,
    State.modClk_core, State.modTime_core, State.settle_core])

theorem execXaReturn_answers : Answers .whole s t (execXaReturn t s) :=
  .whole (by simp only [core_ite, State.modClk_core, State.modTime_core, State.settle_core, ite_self])

theorem execXbLost_answers : Answers .whole s t (execXbLost t s) :=
  .whole (by simp only [core_ite, State.forcedSwitch_core, State.modClk_core, State.modTime_core, State.settle_core,
    ite_self])

theorem execXbStart_answers : Answers .whole s t (execXbStart t s) :=
  .whole (by simp only [core_ite, State.modClk_core, State.modTime_core, State.settle_core, ite_self])

theorem execClockSwitchForced_answers (mux : Nat) : Answers .whole s t (execClockSwitchForced t mux s) := by
  refine .whole ?_
  split
  · simp only [core_ite, State.forcedSwitch_core, State.modTime_core, State.settle_core, ite_self]
  · simp only [core_ite, State.forcedSwitch_core, State.modClk_core, ite_self]
  · simp only [State.forcedSwitch_core, State.modClk_core]
  · simp only [State.forcedSwitch_core]
  · rfl

theorem execClockGate_answers (domain : Nat) : Answers .whole s t (execClockGate t domain s) :=
  .whole (by simp only [core_ite, State.trackStop_core, State.modClk_core, ite_self])

theorem execClockWake_answers (domain : Nat) : Answers .whole s t (execClockWake t domain s) :=
  .whole (by simp only [State.pulse_core, State.woken_core])

theorem execDrainTimeout_answers (accesses : List (Nat × Nat)) : Answers .whole s t (execDrainTimeout t accesses s) :=
  .whole (by simp only [State.healthFull_core, State.bump_core, implies_true, core_foldl])

theorem execPcieEndpointStop_answers : Answers .whole s t (execPcieEndpointStop t s) := by
  refine .whole ?_
  split
  · simp only [core_ite, State.modClk_core, ite_self]
  · rfl

theorem execPowerTransitionDone_answers (ok : Bool) : Answers .base s t (execPowerTransitionDone t ok s) := by
  refine .base ?_
  split
  · rfl
  · extract_lets up low left ended
    have hlow : low.core = (s.advance t).core := by
      simp only [low, core_ite, State.memoryLost_core, State.modMemc_core, ite_self]
    have hended : ended.core = (s.advance t).core := State.runEnds_core _ _
    split
    · rw [State.transFailed_core]
    · split
      · rw [State.transReached_core, State.standbyEnter_base]
      · split
        · rw [State.transReached_core, State.refreshDark_core, State.convGo_core, State.riseAll_base,
            State.apdApply_core, State.loopsForMode_core, State.modClk_core, State.standbyLeave_core, hlow]
        · split
          · rw [State.transReached_core, State.wakeTo_base]
          · simp only [core_ite, State.transReached_core, State.refreshDark_core, State.modClk_core, hended, ite_self]

theorem execPwrFailQualified_answers (fallAt : Tick) (rise : Option Tick) :
    Answers .base s t (execPwrFailQualified t fallAt rise s) :=
  .base (by simp only [core_ite, State.transAborted_core, State.modClk_core, base_ite, State.vigilEnter_base,
    ite_self])

theorem execPwrAutoResume_answers : Answers .base s t (execPwrAutoResume t s) := by
  refine .base ?_
  split
  · simp only [core_ite, base_ite, State.transBegin_base, ite_self]
  · rfl

theorem execMonitorSample_answers (m : MonSample) : Answers .base s t (execMonitorSample t m s) := by
  refine .base ?_
  extract_lets w1 w2 w3 w4 hot
  have h2 : w2.core = (s.advance t).core := by
    simp only [w2, w1, State.monGroup_core, State.modClk_core]
  have h3 : w3.core = (s.advance t).core := by
    simp only [w3]
    split
    · rw [State.modRecv_core, h2]
    · exact h2
  have h4 : w4.core = (s.advance t).core := by
    simp only [w4, core_ite, State.modClk_core, State.monGroup_core, h3, ite_self]
  simp only [core_ite, base_ite, State.modClk_core, State.thermalTrip_base, implies_true, base_foldl, h4, ite_self]

/-! Mailboxes and registers (R32 to R66). -/

theorem execInProdWrite_answers (m : Nat) (v : Word) : Answers .kept s t (execInProdWrite t m v s) :=
  .kept (by simp only [core_ite, kept_ite, State.inProdWrite_kept, ite_self])

theorem execOutConsWrite_answers (m : Nat) (v : Word) : Answers .whole s t (execOutConsWrite t m v s) :=
  .whole (by simp only [core_ite, State.outConsWrite_core, ite_self])

theorem execResponseRelease_answers (m : Nat) : Answers .whole s t (execResponseRelease t m s) :=
  .whole (by simp only [core_ite, State.pump_core, ite_self])

theorem execFlush_answers (m : Nat) (v : Word) : Answers .whole s t (execFlush t m v s) :=
  .whole (by simp only [core_ite, State.flushMbox_core, ite_self])

theorem execSessionCloseComplete_answers (session : Nat) : Answers .kept s t (execSessionCloseComplete t session s) := by
  refine .kept ?_
  split
  · rfl
  · split
    · simp only [core_ite, kept_ite, State.finished_kept, State.final_core, State.modAtom_core, ite_self]
    · rfl

theorem execMgmtDatagram_answers (dst peer : Peer) (bytes : List Byte) :
    Answers .kept s t (execMgmtDatagram t dst peer bytes s) := by
  refine .kept ?_
  split
  · rfl
  · split
    · simp only [State.datagram_kept]
    · rfl

theorem execMgmtBindRelease_answers (mb : Nat) : Answers .whole s t (execMgmtBindRelease t mb s) :=
  .whole (by simp only [core_ite, State.modMbox_core, ite_self])

theorem execSpiWriteMessage_answers (bytes : List Byte) : Answers .kept s t (execSpiWriteMessage t bytes s) :=
  .kept (by simp only [core_ite, State.refusedMbox_core, State.flagMbox_core, State.protoError_core, kept_ite,
    State.takeOrWait_kept, ite_self])

theorem execSpiReadResponse_answers (n : Nat) : Answers .whole s t (execSpiReadResponse t n s) := by
  refine .whole ?_
  split
  · simp only [State.modSys_core]
  · simp only [core_ite, State.modMbox_core, State.modSys_core, ite_self]

theorem execSpiReadStatus_answers : Answers .whole s t (execSpiReadStatus t s) :=
  .whole (by simp only [State.modSys_core])

theorem execFaultConsWrite_answers (v : Word) : Answers .whole s t (execFaultConsWrite t v s) :=
  .whole (by simp only [core_ite, State.faultConsWrite_core, ite_self])

theorem execRegisterWrite_answers (off : Nat) (v : Word) : Answers .kept s t (execRegisterWrite t off v s) :=
  .kept (by simp only [core_ite, kept_ite, State.regWrite_kept, ite_self])

theorem execRegisterReadClear_answers (off : Nat) : Answers .whole s t (execRegisterReadClear t off s) :=
  .whole (by simp only [core_ite, State.regClear_core, State.modSys_core, ite_self])

/-! Start-up and reset (R471 to R480 and R508). -/

theorem execPowerUp_answers (env : BootEnv) : Answers .line s t (execPowerUp t env s) := by
  refine .line ?_
  split
  · rfl
  · simp only [State.fullBoot_line, State.modSys_core]

theorem execSupplyLoss_answers : Answers .line s t (execSupplyLoss t s) :=
  .line (by simp only [core_mk, line_mk, line_eta])

theorem execResetN_answers (ns : Nat) : Answers .line s t (execResetN t ns s) := by
  refine .line ?_
  split
  · rfl
  · split
    · simp only [State.fullBoot_line]
    · dsimp only
      split
      · simp only [State.fullBoot_line, State.tookFree_core]
      · simp only [State.tookFree_core]

theorem execWatchdogExpiry_answers : Answers .line s t (execWatchdogExpiry t s) := by
  refine .line ?_
  split
  · simp only [State.stewardReset_line]
  · rfl

theorem execLockstepMismatch_answers : Answers .line s t (execLockstepMismatch t s) := by
  refine .line ?_
  split
  · simp only [State.stewardReset_line]
  · rfl

theorem execWarmCountExpiry_answers : Answers .whole s t (execWarmCountExpiry t s) :=
  .whole (by simp only [State.modSys_core])

theorem execResetExecute_answers : Answers .line s t (execResetExecute t s) := by
  refine .line ?_
  split
  · split
    · rfl
    · split
      · simp only [State.warmStart_line, State.sendLeaving_core]
      · simp only [State.fullBoot_line, State.sendLeaving_core]
  · rfl

theorem execPerstN_answers : Answers .whole s t (execPerstN t s) := by
  refine .whole ?_
  split
  · rfl
  · refine (core_foldl _ (fun u m => State.flushMbox_core u m) _ _).trans ?_
    simp only [State.modSys_core, State.modAtom_core, State.count_core]

theorem execXaCheckRetry_answers (runs : Bool) : Answers .line s t (execXaCheckRetry t runs s) := by
  refine .line ?_
  split
  · rfl
  · simp only [State.bootOn_line, State.boot_line, State.modSys_core]

theorem execBootRetry_answers : Answers .line s t (execBootRetry t s) := by
  refine .line ?_
  split
  · split
    · rfl
    · simp only [State.bootOn_line, State.boot_line, State.modSys_core, State.tookFree_core]
  · rfl

theorem execWarmBootTimeout_answers : Answers .line s t (execWarmBootTimeout t s) := by
  refine .line ?_
  split
  · split
    · simp only [State.fullBoot_line]
    · rfl
  · rfl

theorem execConfigMessage_answers : Answers .kept s t (execConfigMessage t s) := by
  refine .kept ?_
  split
  · rfl
  · split
    · exact State.bootOn_kept _
    · rw [State.bootOn_kept, State.configTake_kept, State.modSys_core]

theorem execJtagAccess_answers (ir : Nat) : Answers .whole s t (execJtagAccess t ir s) := by
  refine .whole ?_
  split
  · rfl
  · split
    · simp only [State.modSys_core]
    · simp only [State.modSys_core]
    · simp only [core_ite, State.modSys_core, State.tookFree_core, ite_self]
    · rfl

end

/-- The part of the core that a command leaves alone. -/
def partOf : Instr → CorePart
  -- emitter channels ramp, go dark or close a loop
  | .setParam _ _ | .powerMode _ _ | .emitUpdate _ | .rampEnd _ _ | .powerLoop _ _ | .loopClose _ _ | .powerClamp _ _
  | .powerLost _ _ | .thermistorFault _ | .pumpReturn _ | .moduleRecordRead _ _ _ _ | .i2cSclTimeout _ _
  | .conversionResult _ _ _ | .conversionComplete _ | .inputFault _ _ | .pwrFailQualified _ _ _ | .pwrAutoResume _
  | .powerTransitionDone _ _ | .monitorSample _ _ => .base
  -- the latch is set, or a message is taken, which may be ILK_CLEAR
  | .ilkClear _ _ | .inProdWrite _ _ _ | .registerWrite _ _ _ | .mgmtDatagram _ _ _ _ | .spiWriteMessage _ _
  | .ilkNFall _ _ | .moduleRemoved _ _ | .sessionCloseComplete _ _ | .configMessage _ => .kept
  -- a reset or a boot runs
  | .powerUp _ _ | .resetN _ _ | .watchdogExpiry _ | .lockstepMismatch _ | .bootRetry _ | .xaCheckRetry _ _
  | .warmBootTimeout _ | .resetExecute _ | .supplyLoss _ => .line
  | _ => .whole

/-- The dispatch of exec, arm by arm: every command answers, and leaves its part of the core alone. -/
theorem exec_answers (s : State) : ∀ c : Instr, Answers (partOf c) s (instantOf c) (exec c s)
  | .ident _ _ => .whole (State.ident_core ..)
  | .getParam _ _ => .whole (State.getParam_core ..)
  | .setParam _ _ => .base (State.setParam_base ..)
  | .commit _ _ => .whole (State.commit_core ..)
  | .start _ _ => .whole (State.start_core ..)
  | .stop _ _ => .whole (State.stop_core ..)
  | .calRequest _ _ => .whole (State.calRequest_core ..)
  | .calStatus _ _ => .whole (State.calStatus_core ..)
  | .selftest _ _ => .whole (State.selftest_core ..)
  | .captureArm _ _ => .whole (State.captureArm_core ..)
  | .captureStatus _ _ => .whole (State.captureStatus_core ..)
  | .captureRelease _ _ => .whole (State.captureRelease_core ..)
  | .retrieve _ _ => .whole (State.retrieve_core ..)
  | .retrieveCancel _ _ => .whole (State.retrieveCancel_core ..)
  | .sessionOpen _ _ => .whole (State.sessionOpen_core ..)
  | .sessionClose _ _ => .whole (State.sessionClose_core ..)
  | .sessionModify _ _ => .whole (State.sessionModify_core ..)
  | .zoneLoad _ _ => .whole (State.zoneLoad_core ..)
  | .zoneRead _ _ => .whole (State.zoneRead_core ..)
  | .sliceLoad _ _ => .whole (State.sliceLoad_core ..)
  | .sliceStart _ _ => .whole (State.sliceStart_core ..)
  | .instRead _ _ => .whole (State.instRead_core ..)
  | .instInject _ _ => .whole (State.instInject_core ..)
  | .tiuMeasure _ _ => .whole (State.tiuMeasure_core ..)
  | .timeSet _ _ => .whole (State.timeSet_core ..)
  | .twinStatus _ _ => .whole (State.twinStatus_core ..)
  | .twinControl _ _ => .whole (State.twinControl_core ..)
  | .dispLayer _ _ => .whole (State.dispLayer_core ..)
  | .dispCheck _ _ => .whole (State.dispCheck_core ..)
  | .monRead _ _ => .whole (State.monRead_core ..)
  | .perfConfig _ _ => .whole (State.perfConfig_core ..)
  | .perfRead _ _ => .whole (State.perfRead_core ..)
  | .moduleRead _ _ => .whole (State.moduleRead_core ..)
  | .ilkClear _ _ => .kept (State.ilkClear_kept ..)
  | .powerMode _ _ => .base (State.powerMode_base ..)
  | .reset _ _ => .whole (State.resetReq_core ..)
  | .inProdWrite t m v => execInProdWrite_answers s t m v
  | .outConsWrite t m v => execOutConsWrite_answers s t m v
  | .responseRelease t m => execResponseRelease_answers s t m
  | .flush t m v => execFlush_answers s t m v
  | .registerWrite t off v => execRegisterWrite_answers s t off v
  | .registerReadClear t off => execRegisterReadClear_answers s t off
  | .mgmtDatagram t dst peer bytes => execMgmtDatagram_answers s t dst peer bytes
  | .mgmtBindRelease t mb => execMgmtBindRelease_answers s t mb
  | .spiWriteMessage t bytes => execSpiWriteMessage_answers s t bytes
  | .spiReadResponse t n => execSpiReadResponse_answers s t n
  | .spiReadStatus t => execSpiReadStatus_answers s t
  | .commitLoadComplete t => execCommitLoadComplete_answers s t
  | .shotGroupBoundary t => execShotGroupBoundary_answers s t
  | .toneLaunch t slot => execToneLaunch_answers s t slot
  | .launchMonCrossing t => execLaunchMonCrossing_answers s t
  | .launchWindowEnd t slot => execLaunchWindowEnd_answers s t slot
  | .ramanLaunch t rma rms => execRamanLaunch_answers s t rma rms
  | .ramanAccumulationComplete t => execRamanAccumulationComplete_answers s t
  | .ramanRatioDone t => execRamanRatioDone_answers s t
  | .runFirstGroup t => execRunFirstGroup_answers s t
  | .runProcessingDone t => execRunProcessingDone_answers s t
  | .ilkNFall _ _ => .kept (State.ilkFall_kept ..)
  | .emitUpdate t => execEmitUpdate_answers s t
  | .rampEnd t ch => execRampEnd_answers s t ch
  | .powerLoop t mpd => execPowerLoop_answers s t mpd
  | .loopClose t ch => execLoopClose_answers s t ch
  | .powerClamp t ch => execPowerClamp_answers s t ch
  | .powerLost t ch => execPowerLost_answers s t ch
  | .pumpThRequest t => execPumpThRequest_answers s t
  | .thermistorFault t => execThermistorFault_answers s t
  | .pumpReturn t => execPumpReturn_answers s t
  | .wlLoop t wla wlb => execWlLoop_answers s t wla wlb
  | .wlLock t => execWlLock_answers s t
  | .moduleRemoved t pos => execModuleRemoved_answers s t pos
  | .moduleInserted t pos => execModuleInserted_answers s t pos
  | .moduleRecordRead t pos one two => execModuleRecordRead_answers s t pos one two
  | .i2cSclTimeout t bus => execI2cSclTimeout_answers s t bus
  | .apdBiasUpdate t => execApdBiasUpdate_answers s t
  | .apdBiasCut t => execApdBiasCut_answers s t
  | .trackerUpdate t rx tx found => execTrackerUpdate_answers s t rx tx found
  | .pilotLost t boundary => execPilotLost_answers s t boundary
  | .calTempCheck t temp => execCalTempCheck_answers s t temp
  | .calRetry t => execCalRetry_answers s t
  | .calStep t level => execCalStep_answers s t level
  | .calRunEnd t resid => execCalRunEnd_answers s t resid
  | .refdivTimeout t => execRefdivTimeout_answers s t
  | .blotterStep t m => execBlotterStep_answers s t m
  | .selftestEnd t => execSelftestEnd_answers s t
  | .pceBlockProcessed t slot start codes => execPceBlockProcessed_answers s t slot start codes
  | .stitchEvaluation _ => .whole (State.stitchEval_core ..)
  | .amplitudeProfileComplete _ => .whole (State.profileNext_core ..)
  | .rowWrite t => execRowWrite_answers s t
  | .tileClose t group => execTileClose_answers s t group
  | .tileRead t engine => execTileRead_answers s t engine
  | .tileDma t sl => execTileDma_answers s t sl
  | .bankFadeEnd t => execBankFadeEnd_answers s t
  | .baseRecordsDelivered t set => execBaseRecordsDelivered_answers s t set
  | .outputDmaComplete t sl => execOutputDmaComplete_answers s t sl
  | .classRecordMade t => execClassRecordMade_answers s t
  | .nop _ _ => .of_plain
  | .add _ _ => .of_plain
  | .sub _ _ => .of_plain
  | .and _ _ => .of_plain
  | .or _ _ => .of_plain
  | .xor _ _ => .of_plain
  | .shl _ _ => .of_plain
  | .shr _ _ => .of_plain
  | .sra _ _ => .of_plain
  | .mul _ _ => .of_plain
  | .addi _ _ => .of_plain
  | .lui _ _ => .of_plain
  | .slt _ _ => .of_plain
  | .ld _ _ => .of_plain
  | .ldh _ _ => .of_plain
  | .st _ _ => .of_plain
  | .sth _ _ => .of_plain
  | .macn _ _ => .of_plain
  | .macw _ _ => .of_plain
  | .accst _ _ => .of_plain
  | .accx t sl => execAccx_answers s t sl
  | .acci t sl => execAcci_answers s t sl
  | .beq _ _ => .of_branch
  | .bne _ _ => .of_branch
  | .blt _ _ => .of_branch
  | .bge _ _ => .of_branch
  | .jmp _ _ => .of_branch
  | .call t sl => execCall_answers s t sl
  | .ret t sl => execRet_answers s t sl
  | .rep t sl => execRep_answers s t sl
  | .mfs t sl => execMfs_answers s t sl
  | .mts t sl => execMts_answers s t sl
  | .waitt t sl => execWaitt_answers s t sl
  | .waitc t sl => execWaitc_answers s t sl
  | .colFree t sl => execColFree_answers s t sl
  | .tileDone t sl => execTileDone_answers s t sl
  | .outPush t sl => execOutPush_answers s t sl
  | .evt t sl => execEvt_answers s t sl
  | .cycleLo t sl => execCycleLo_answers s t sl
  | .perfLo t sl => execPerfLo_answers s t sl
  | .accordUpdate t => execAccordUpdate_answers s t
  | .accordFrameComplete t => execAccordFrameComplete_answers s t
  | .holdoffExpired t zone crit => execHoldoffExpired_answers s t zone crit
  | .coilRead t => execCoilRead_answers s t
  | .coilHoldExpired t => execCoilHoldExpired_answers s t
  | .trigEdge t n falling edge frac => execTrigEdge_answers s t n falling edge frac
  | .starEdge t edge frac => execStarEdge_answers s t edge frac
  | .starPulseEnd t => execStarPulseEnd_answers s t
  | .captureWindowEnd t slot => execCaptureWindowEnd_answers s t slot
  | .captureSeal t slot => execCaptureSeal_answers s t slot
  | .flushTimeExpiry t => execFlushTimeExpiry_answers s t
  | .flaconJobStart t engine => execFlaconJobStart_answers s t engine
  | .flaconOutputDrain t engine => execFlaconOutputDrain_answers s t engine
  | .flaconCommit t engine stream => execFlaconCommit_answers s t engine stream
  | .decompressionDone t engine => execDecompressionDone_answers s t engine
  | .eventFrameSend t session => execEventFrameSend_answers s t session
  | .streamFrameSend t session kind => execStreamFrameSend_answers s t session kind
  | .frameTransmit t path => execFrameTransmit_answers s t path
  | .keepalive t session => execKeepalive_answers s t session
  | .sessionCloseComplete t session => execSessionCloseComplete_answers s t session
  | .retrieveObject t job overwritten => execRetrieveObject_answers s t job overwritten
  | .retrieveEnd t job => execRetrieveEnd_answers s t job
  | .ringEnable t ring v => execRingEnable_answers s t ring v
  | .netLinkChange t port up => execNetLinkChange_answers s t port up
  | .networkRequest t port kind addr src rct => execNetworkRequest_answers s t port kind addr src rct
  | .prpSupervision t => execPrpSupervision_answers s t
  | .ptpSync t port master offPs intervalNs => execPtpSync_answers s t port master offPs intervalNs
  | .ptpHoldover t => execPtpHoldover_answers s t
  | .memReadComplete t master addr len errs => execMemReadComplete_answers s t master addr len errs
  | .memReread t errs upperExpired => execMemReread_answers s t errs upperExpired
  | .scrubRead t errs => execScrubRead_answers s t errs
  | .refresh t sc rank bank waiting => execRefresh_answers s t sc rank bank waiting
  | .mr4Poll t codes => execMr4Poll_answers s t codes
  | .dqsTrack t drift => execDqsTrack_answers s t drift
  | .ceHealthHour t => execCeHealthHour_answers s t
  | .agePromotion t => execAgePromotion_answers s t
  | .panic t port level => execPanic_answers s t port level
  | .fill t => execFill_answers s t
  | .ageingStep t => execAgeingStep_answers s t
  | .tiuInputEdge t source rising => execTiuInputEdge_answers s t source rising
  | .tiuArm t => execTiuArm_answers s t
  | .tiuMeasurementDone _ => .whole (State.tiuTake_core ..)
  | .tiuTimeout t => execTiuTimeout_answers s t
  | .tiuCodeDensityTest t temp => execTiuCodeDensityTest_answers s t temp
  | .pairsyncDrive t => execPairsyncDrive_answers s t
  | .pairsyncPulse t => execPairsyncPulse_answers s t
  | .pairsyncResultDeadline t => execPairsyncResultDeadline_answers s t
  | .heartbeat t h leaving caps holdMs hbLossUs dark => execHeartbeat_answers s t h leaving caps holdMs hbLossUs dark
  | .confirm t h recs => execConfirm_answers s t h recs
  | .seqTable t h firstZone next => execSeqTable_answers s t h firstZone next
  | .digest t h firstZone entries => execDigest_answers s t h firstZone entries
  | .handback t h zone next => execHandback_answers s t h zone next
  | .handbackAck t h zone => execHandbackAck_answers s t h zone
  | .pairsyncFrame t h sec stamp frac => execPairsyncFrame_answers s t h sec stamp frac
  | .rejoinDone t h => execRejoinDone_answers s t h
  | .heartbeatSend t => execHeartbeatSend_answers s t
  | .heartbeatLoss t => execHeartbeatLoss_answers s t
  | .twinRetx t => execTwinRetx_answers s t
  | .rejoinTimeout t => execRejoinTimeout_answers s t
  | .heldRecordExpiry _ => .whole (State.dropHeld_core ..)
  | .confirmKeepExpiry t => execConfirmKeepExpiry_answers s t
  | .promotion t => execPromotion_answers s t
  | .darkReturn t zone => execDarkReturn_answers s t zone
  | .handbackInitiate t zone => execHandbackInitiate_answers s t zone
  | .conversionResult t code chopFault => execConversionResult_answers s t code chopFault
  | .conversionComplete t => execConversionComplete_answers s t
  | .inputFault t kind => execInputFault_answers s t kind
  | .fallbackRetry t input => execFallbackRetry_answers s t input
  | .instWindow t n above leftAt => execInstWindow_answers s t n above leftAt
  | .windowReturn t n => execWindowReturn_answers s t n
  | .fqoUpdate t n => execFqoUpdate_answers s t n
  | .fqoTimeout t n => execFqoTimeout_answers s t n
  | .dispFrameStart t underruns => execDispFrameStart_answers s t underruns
  | .dispFrameEnd t => execDispFrameEnd_answers s t
  | .waterfallRow t output => execWaterfallRow_answers s t output
  | .loopLockLoss t loop => execLoopLockLoss_answers s t loop
  | .loopLock t loop => execLoopLock_answers s t loop
  | .xaLost t => execXaLost_answers s t
  | .xaReturn t => execXaReturn_answers s t
  | .xbLost t => execXbLost_answers s t
  | .clockSwitchForced t mux => execClockSwitchForced_answers s t mux
  | .clockGate t domain => execClockGate_answers s t domain
  | .clockWake t domain => execClockWake_answers s t domain
  | .drainTimeout t accesses => execDrainTimeout_answers s t accesses
  | .pwrFailQualified t fallAt rise => execPwrFailQualified_answers s t fallAt rise
  | .pwrAutoResume t => execPwrAutoResume_answers s t
  | .powerTransitionDone t ok => execPowerTransitionDone_answers s t ok
  | .monitorSample t m => execMonitorSample_answers s t m
  | .snap _ _ => .whole (State.snapWrite_core ..)
  | .faultConsWrite t v => execFaultConsWrite_answers s t v
  | .powerUp t env => execPowerUp_answers s t env
  | .resetN t ns => execResetN_answers s t ns
  | .watchdogExpiry t => execWatchdogExpiry_answers s t
  | .lockstepMismatch t => execLockstepMismatch_answers s t
  | .perstN t => execPerstN_answers s t
  | .configMessage t => execConfigMessage_answers s t
  | .bootRetry t => execBootRetry_answers s t
  | .xaCheckRetry t runs => execXaCheckRetry_answers s t runs
  | .warmBootTimeout t => execWarmBootTimeout_answers s t
  | .jtagAccess t ir => execJtagAccess_answers s t ir
  | .resetExecute t => execResetExecute_answers s t
  | .pcieEndpointStop t => execPcieEndpointStop_answers s t
  | .supplyLoss t => execSupplyLoss_answers s t
  | .xbStart t => execXbStart_answers s t
  | .ptpAnnounce t port domain ipv6 master quality utcOffset =>
    execPtpAnnounce_answers s t port domain ipv6 master quality utcOffset
  | .ringInterruptHoldoffEnd t ring => execRingInterruptHoldoffEnd_answers s t ring
  | .twinFrameCrcError t => execTwinFrameCrcError_answers s t
  | .warmCountExpiry t => execWarmCountExpiry_answers s t

theorem State.advance_line (s : State) (t : Tick) : (s.advance t).core.line = (s.pending, max s.now t) := by
  rw [State.advance_core]
  rfl

end Sys2Proof.Machine

namespace Sys2Proof
open Machine

/-- Settles O56: whatever part of the core a command leaves alone, the queue and the instant are in it (log 1 and log 5). -/
theorem commandsKeepQueueAndInstant : Obligations.CommandsKeepQueueAndInstant := by
  unfold Obligations.CommandsKeepQueueAndInstant
  intro s c
  obtain ⟨u, answered, same⟩ := exec_answers s c
  have line : (u.pending, u.now) = (s.pending, max s.now (instantOf c)) :=
    same.line.trans (State.advance_line s (instantOf c))
  obtain ⟨pending, now⟩ := Prod.mk.inj line
  exact ⟨u, answered, pending, now⟩

end Sys2Proof
end

section
/-!
PROOFS. POWER_MODE and RESET where their checks pass (R52, R454, R455).
-/
namespace Sys2Proof.Machine

@[simp] theorem State.advance_trans (s : State) (t : Tick) : (s.advance t).clk.trans = s.clk.trans := by
  obtain ⟨ps, h⟩ := s.advance_eq t
  rw [h]

@[simp] theorem State.opened_trans (s : State) (t : Tick) (q : Req) : (s.opened t q).clk.trans = s.clk.trans :=
  s.advance_trans t

/-- A POWER_MODE whose conditions hold answers at once where the device is in that mode, and else begins the transition
(R454). Giving up the mode that auto-resume remembers is log 37. -/
theorem State.powerMode_admitted {s w : State} {t : Tick} {q : Req} (hw : s.opened t q = w)
    (ha : s.Admits q cOperate true) (hmb : q.mb ≠ 19) (hlen : payLen q = 4) (hlo : 1 ≤ payU q 0 1) (hhi : payU q 0 1 ≤ 4)
    (hres : payU q 1 3 = 0) (htrans : s.clk.trans = none)
    (hup : payU q 0 1 < 3 ∨ w.clk.trip = false ∧ w.pwrIsLow = false) :
    (s.advance t).powerMode q =
      let v := w.takes (reqId q 0x00F0)
      if payU q 0 1 = w.clk.mode then v.final (reqId q 0x00F0) .ok w.modePayload
      else (v.modClk fun k => { k with leftMode := none, leftRun := false }).transBegin
        { who := some (reqId q 0x00F0), source := v.clk.mode, target := payU q 0 1, cause := 1, thenRun := false } := by
  have hidle : w.clk.trans = none := by rw [← hw, State.opened_trans, htrans]
  have htarget : (payU q 0 1 == 0 || decide (4 < payU q 0 1)) = false := by simp; omega
  have hpower : (decide (3 ≤ payU q 0 1) && (w.clk.trip || w.pwrIsLow)) = false := by
    rcases hup with hlow | ⟨htrip, hpwr⟩
    · simp [hlow]
    · simp [htrip, hpwr]
  rw [State.powerMode, State.gate_opened ha, hw]
  simp [hmb, hlen, htarget, hres, hidle, hpower]

end Sys2Proof.Machine

namespace Sys2Proof
open Machine

/-- Settles O4: past its checks POWER_MODE turns on the mode held alone, and RESET has one way. (That POWER_MODE clears the
auto-resume memory is log 37; that a second RESET keeps the first one's due time is log 39.) -/
theorem powerModeAndResetComplete : Obligations.PowerModeAndResetComplete := by
  unfold Obligations.PowerModeAndResetComplete
  refine ⟨?powerMode, ?reset⟩
  case powerMode =>
    intro s t q ha hmb hlen hlo hhi hres htrans w id hup
    have admitted := State.powerMode_admitted rfl ha hmb hlen hlo hhi hres htrans hup
    constructor
    · intro held
      exact congrArg Host.Outcome.next (admitted.trans (if_pos held))
    · intro other
      exact congrArg Host.Outcome.next (admitted.trans (if_neg other))
  case reset =>
    intro s t q ha hmb hlen hkind hres
    have operable : ¬ (q.mb == 19) = true := by simp [hmb]
    have wellFormed : ¬ (payLen q != 4 || decide (1 < payU q 0 1) || payU q 1 3 != 0) = true := by simp [hlen, hkind, hres]
    exact congrArg Host.Outcome.next
      ((State.gate_opened ha t 0x00FE _).trans ((if_neg operable).trans (if_neg wellFormed)))

end Sys2Proof
end

section
/-!
PROOFS. COMMIT loading, shot-group boundaries, the first group and the end of a run, each where the guard of its command passes
(R18 to R20, R59, R60, R89, R90, R92).
-/
namespace Sys2Proof
open Machine

/-- Settles O18: the guard of each command on the state w that time has passed to, and then its meaning. -/
theorem groupBoundariesComplete : Obligations.GroupBoundariesComplete := by
  unfold Obligations.GroupBoundariesComplete
  refine ⟨?load, ?boundary, ?first, ?finished⟩
  case load =>
    intro s t c rest w oldest unloaded
    have meaning : exec (.commitLoadComplete t) s = execCommitLoadComplete t s := rfl
    have passed : s.advance t = w := rfl
    simp only [meaning, execCommitLoadComplete, passed, oldest, unloaded, Bool.false_eq_true, if_false, Bool.or_eq_true,
      beq_iff_eq]
  case boundary =>
    intro s t w b running unstopped launched due
    have reached : ¬ (w.run.state != 1 || w.run.stopMode.isSome || !w.allLaunched || decide (w.now < b)) = true := by
      simp [running, unstopped, launched, due]
    exact congrArg Host.Outcome.next (if_neg reached)
  case first =>
    intro s t t0 q w waiting first due request
    have meaning : exec (.runFirstGroup t) s = execRunFirstGroup t s := rfl
    have passed : s.advance t = w := rfl
    simp only [meaning, execRunFirstGroup, passed, waiting, first, request, Nat.not_lt.mpr due, beq_self_eq_true, if_false]
  case finished =>
    intro s t w stopping processed
    have ended : ¬ (w.run.state != 2 || !(w.pce.jobs.all List.isEmpty || decide (w.processBound ≤ w.now))) = true := by
      rw [stopping, (Bool.or_eq_true _ _).mpr (processed.imp_right decide_eq_true)]
      decide
    exact congrArg Host.Outcome.next (if_neg ended)

end Sys2Proof
end

section
/-!
PROOFS. Power failure, auto-resume, the end of a transition and monitor samples, by the guards of their commands (R29, R454 to
R461).
-/
namespace Sys2Proof.Machine

/-- A low that has lasted its filter time aborts a transition, and ends MAINTAIN and FULL (R29, R456). -/
theorem execPwrFailQualified_eq {s w : State} {t fall due : Tick} {rise : Option Tick} (hw : s.advance t = w)
    (hdue : fall + usT (w.p K.clkPwrFailFilterUs) = due) :
    execPwrFailQualified t fall rise s = .next
      (if w.now < due ∨ ∃ r ∈ rise, r < due then w
       else
        let v := (w.modClk fun k => { k with pwrLow := true, pwrRise := rise }).transAborted
        if v.clk.mode < 3 then v
        else (v.modClk fun k => { k with leftMode := some v.clk.mode, leftRun := v.run.state == 1 || v.run.state == 3,
                                         pcie := false, pcieStop := none }).vigilEnter 2) := by
  cases rise <;> simp [execPwrFailQualified, hw, hdue]

end Sys2Proof.Machine

namespace Sys2Proof
open Machine

/-- Settles O52: whether a low has lasted, whether an auto-resume is ready, which modes a transition joins and whether a sample
is due decide each command. -/
theorem powerCommandsComplete : Obligations.PowerCommandsComplete := by
  unfold Obligations.PowerCommandsComplete
  refine ⟨?qualified, ?unqualified, ?resume, ?transition, ?sample⟩
  case qualified =>
    intro s t fall rise w due v elapsed unbroken
    have meaning : exec (.pwrFailQualified t fall rise) s = _ := execPwrFailQualified_eq (w := w) rfl rfl
    have lasted : ¬ (w.now < due ∨ ∃ r ∈ rise, r < due) := by
      rintro (early | ⟨r, hr, short⟩)
      · exact Nat.not_lt.mpr elapsed early
      · exact Nat.not_lt.mpr (unbroken r hr) short
    refine ⟨fun low => ?_, fun high => ?_⟩
    · exact meaning.trans (congrArg Host.Outcome.next ((if_neg lasted).trans (if_pos low)))
    · exact meaning.trans (congrArg Host.Outcome.next ((if_neg lasted).trans (if_neg (Nat.not_lt.mpr high))))
  case unqualified =>
    intro s t fall rise w due brief
    exact (execPwrFailQualified_eq (w := w) rfl rfl).trans (congrArg Host.Outcome.next (if_pos brief))
  case resume =>
    intro s t r m w left rose enabled vigil untripped still high waited
    have meaning : exec (.pwrAutoResume t) s = execPwrAutoResume t s := rfl
    have passed : s.advance t = w := rfl
    have ready : (w.p K.clkPwrAutoResume == 0 || w.clk.mode != 2 || w.clk.trip || w.clk.trans.isSome || w.pwrIsLow ||
        decide (w.now < r + secT (w.p K.clkPwrResumeS))) = false := by
      simp [enabled, vigil, untripped, still, high, waited]
    simp only [meaning, execPwrAutoResume, passed, left, rose, ready, Bool.false_eq_true, if_false]
  case transition =>
    intro s t tr w under
    have meaning (ok : Bool) : exec (.powerTransitionDone t ok) s = execPowerTransitionDone t ok s := rfl
    have passed : s.advance t = w := rfl
    simp only [meaning, execPowerTransitionDone, passed, under, Bool.not_true, Bool.and_false, Bool.not_false, Bool.and_true,
      Bool.false_eq_true, if_false]
    refine ⟨fun rises => ?failed, fun standby _ => ?standby, fun source target => ?vigil, fun below above => ?wakes,
      fun source target => ?maintain, fun source target => ?full⟩
    case failed => rw [if_pos (decide_eq_true rises)]
    case standby => rw [if_pos (beq_iff_eq.mpr standby)]
    case vigil => rw [source, target]; rfl
    case wakes =>
      have notStandby : ¬ (tr.target == 1) = true := by simp; omega
      have notVigil : ¬ (tr.source == 1 && tr.target == 2) = true := by simp; omega
      rw [if_neg notStandby, if_neg notVigil, if_pos (by simp [below, above])]
    case maintain =>
      rw [source, target]
      exact ⟨fun stopped => by simp [stopped], fun running => by simp [running]⟩
    case full => rw [source, target]; rfl
  case sample =>
    intro s t m w v y u hot powered due
    have taken : ¬ (w.clk.mode == 0 || !w.spaced w.clk.monAt (msT (if w.clk.mode == 1 then 100 else 1))) = true := by
      rw [beq_eq_false_iff_ne.mpr powered, due]
      decide
    refine ⟨fun tripped => ?_, fun cool => ?_⟩
    · exact congrArg Host.Outcome.next ((if_neg taken).trans (if_neg (mt List.isEmpty_iff.mp tripped)))
    · exact congrArg Host.Outcome.next ((if_neg taken).trans (if_pos (List.isEmpty_iff.mpr cool)))

end Sys2Proof
end

section
/-!
PROOFS. Only a command in which a reset or a boot runs reaches the protection map (R68).
-/
namespace Sys2Proof.Machine

/-- Every part but the queue and the instant holds the protection map. -/
theorem CorePart.same.prot {p : CorePart} {c d : Core} (h : p.same c d) (hp : p ≠ .line) : c.prot = d.prot := by
  cases p with
  | whole => exact congrArg Core.prot h
  | base => exact congrArg Base.prot h
  | kept => exact congrArg Kept.prot h
  | line => exact absurd rfl hp

/-- The commands that leave no more than the queue and the instant alone are those in which a reset or a boot runs. -/
theorem bootsDevice_of_partOf_line {c : Instr} : partOf c = .line → bootsDevice c = true := by
  unfold partOf
  split <;> simp [bootsDevice]

end Sys2Proof.Machine

namespace Sys2Proof
open Machine

/-- Settles O60: the part of the core that a command other than a reset or a boot leaves alone holds the protection map. -/
theorem protectionMapLocked : Obligations.ProtectionMapLocked := by
  unfold Obligations.ProtectionMapLocked
  intro s u c ran unbooted
  obtain ⟨v, answered, same⟩ := exec_answers s c
  obtain rfl : u = v := Host.Outcome.next.inj (ran.symm.trans answered)
  have kept : u.prot = (s.advance (instantOf c)).prot :=
    same.prot fun line => Bool.false_ne_true (unbooted.symm.trans (bootsDevice_of_partOf_line line))
  exact kept.trans (State.advance_prot s (instantOf c))

end Sys2Proof
end

section
/-!
PROOFS. A word of the mailbox buffers, written and read through BAR0 (R32, R34).
-/
namespace Sys2Proof.Machine

/-- A write at a word of the buffers changes its four bytes. -/
theorem State.regWrite_buffer {s : State} {off : Nat} (haligned : off % 4 = 0) (hlo : 0x20000 ≤ off) (hhi : off < 0x40000) (v : Word) :
    s.regWrite off v = { s with bufs := Memory.writeBytes s.bufs (off - 0x20000) (leBytes 4 v.toNat) } := by
  have outside : ¬ off < 0x2000 := by omega
  simp [State.regWrite, haligned, hlo, hhi, outside]

/-- A read at a word of the buffers gives its four bytes. -/
theorem State.regRead_buffer {s : State} {off : Nat} (haligned : off % 4 = 0) (hlo : 0x20000 ≤ off) (hhi : off < 0x40000) :
    s.regRead off = leNat (Memory.readBytes s.bufs (off - 0x20000) 4) := by
  have status : ¬ off < 0x1000 := by omega
  have mailbox : ¬ off < 0x2000 := by omega
  have perf : ¬ off < 0x3000 := by omega
  simp [State.regRead, haligned, hlo, hhi, status, mailbox, perf]

/-- A word written to a memory reads back. -/
theorem Memory.read_word (m : Memory) (a : Nat) (v : Word) :
    leNat ((Memory.writeBytes m a (leBytes 4 v.toNat)).readBytes a 4) = v.toNat := by
  have bytes := Memory.readBytes_writeBytes m a (leBytes 4 v.toNat)
  rw [leBytes_length] at bytes
  rw [bytes, leNat_leBytes 4 _ v.isLt]

end Sys2Proof.Machine

namespace Sys2Proof
open Machine

/-- Settles O17: the write is one of four bytes to the buffers, and the passing of time before it changes the instant and the
performance counters alone. -/
theorem bufferWordReadsBack : Obligations.BufferWordReadsBack := by
  unfold Obligations.BufferWordReadsBack
  intro s t off v hp hm haligned hlo hhi
  have written := (execRegisterWrite_bar hp hm t off v).trans
    (congrArg Host.Outcome.next (State.regWrite_buffer haligned hlo hhi v))
  obtain ⟨ps, passed⟩ := s.advance_eq t
  rw [passed] at written
  refine ⟨_, written, ?back, fun a ha => ?others, Memory.wf_writeBytes _ _, rfl⟩
  case back => exact (State.regRead_buffer haligned hlo hhi).trans (Memory.read_word _ _ v)
  case others => exact Memory.read_writeBytes_of_out _ _ _ _ (by simpa using ha)

end Sys2Proof
end

section
/-!
PROOFS. Steps 3 and 4 of R46: every request command is a gate on the state in which time has passed, and the gate's refusals.
-/
namespace Sys2Proof.Machine

/-- What a request command asks to pass is what its gate checks. -/
theorem exec_need {s : State} {c : Instr} {t : Tick} {q : Req} {op cls : Nat} {grant : Bool}
    (h : (s.advance t).need c = some (t, q, op, cls, grant)) :
    ∃ body, exec c s = .next ((s.advance t).gate q op cls grant body) := by
  unfold State.need at h
  split at h <;> cases h <;> exact ⟨_, rfl⟩

/-- The mailbox of a request is served: it is ready, or the configuration section's, and the device is up. -/
def State.Serves (s : State) (q : Req) : Prop := (s.sys.mbReady = true ∨ q.mb = 19) ∧ q.mb ≤ 19 ∧ s.clk.mode ≠ 0

section
variable {s : State} {q : Req} {op cls : Nat} {grant : Bool} {body : State → ReqId → State}

/-- Before MB_READY a host's request is not served (R40; assumption 6). -/
theorem State.gate_unready (hready : s.sys.mbReady = false) (hmb : q.mb ≠ 19) : s.gate q op cls grant body = s := by
  simp [State.gate, hready, hmb]

section
variable (served : s.Serves q)
include served

/-- The device is up and the mailbox served, so that no request is passed over (R40). -/
theorem State.Serves.passed : ¬ ((!s.sys.mbReady && q.mb != 19) || decide (19 < q.mb) || s.clk.mode == 0) = true := by
  obtain ⟨hready, hmb, hmode⟩ := served
  rcases hready with h | h <;> simp [h, hmb, hmode]

/-- A request that repeats a remembered sequence is answered again (R45). -/
theorem State.gate_repeats {e : Remembered} (hrep : s.repeatOf q = some e) :
    s.gate q op cls grant body = s.resend q op e := by
  rw [State.gate, if_neg served.passed, hrep]

variable (fresh : s.repeatOf q = none)
include fresh

/-- A new request goes through the checks of class, grant, tag and number in flight (R44, R46, R51, R67). -/
theorem State.gate_fresh : s.gate q op cls grant body =
    if !s.holds q.mb cls || !(grant || q.mb == 19) then s.refuse (reqId q op) .denied false
    else if (s.mbox q.mb).inflight.contains q.tag then s.refuse (reqId q op) .busy true
    else if 64 ≤ (s.mbox q.mb).inflight.length then s.refuse (reqId q op) .busy false
    else body (s.modMbox q.mb fun b => { b with inflight := q.tag :: b.inflight }) (reqId q op) := by
  rw [State.gate, if_neg served.passed, fresh]

/-- A mailbox without the class, or without the further grant, is denied (R51, R67). -/
theorem State.gate_denied (h : s.holds q.mb cls = false ∨ grant = false ∧ q.mb ≠ 19) :
    s.gate q op cls grant body = s.refuse (reqId q op) .denied false := by
  have lacking : (!s.holds q.mb cls || !(grant || q.mb == 19)) = true := by
    rcases h with h | ⟨hg, hm⟩
    · simp [h]
    · simp [hg, hm]
  rw [State.gate_fresh served fresh, if_pos lacking]

/-- With class and grant, a tag in flight and a 65th command are refused with BUSY (R44). -/
theorem State.gate_granted (hclass : s.holds q.mb cls = true) (hgrant : grant = true ∨ q.mb = 19) :
    s.gate q op cls grant body =
      if (s.mbox q.mb).inflight.contains q.tag then s.refuse (reqId q op) .busy true
      else if 64 ≤ (s.mbox q.mb).inflight.length then s.refuse (reqId q op) .busy false
      else body (s.modMbox q.mb fun b => { b with inflight := q.tag :: b.inflight }) (reqId q op) := by
  have further : (grant || q.mb == 19) = true := by rcases hgrant with h | h <;> simp [h]
  rw [State.gate_fresh served fresh, if_neg (by simp [hclass, further])]

end

end

end Sys2Proof.Machine

namespace Sys2Proof
open Machine

/-- Settles O57: each command's gate, on the state in which time has passed. -/
theorem requestRefusals : Obligations.RequestRefusals := by
  unfold Obligations.RequestRefusals
  intro s c t q op cls grant w need ready known up fresh
  have served : w.Serves q := ⟨ready, known, up⟩
  obtain ⟨body, gated⟩ := exec_need need
  refine ⟨fun classless => ?_, fun ungranted host => ?_, fun held granted => ?_⟩
  · exact gated.trans (congrArg Host.Outcome.next (State.gate_denied served fresh (.inl classless)))
  · exact gated.trans (congrArg Host.Outcome.next (State.gate_denied served fresh (.inr ⟨ungranted, host⟩)))
  · have checked := gated.trans (congrArg Host.Outcome.next (State.gate_granted served fresh held granted))
    refine ⟨fun flying => ?_, fun free full => ?_⟩
    · exact checked.trans (congrArg Host.Outcome.next (if_pos flying))
    · exact checked.trans (congrArg Host.Outcome.next ((if_neg (Bool.eq_false_iff.mp free)).trans (if_pos full)))

end Sys2Proof
end

section
/-!
PROOFS. What the passing of time and a request's place in flight leave, for the requests below.
-/
namespace Sys2Proof.Machine

section
variable (s : State) (t : Tick)

@[simp] theorem State.advance_now : (s.advance t).now = max s.now t := by
  obtain ⟨ps, h⟩ := s.advance_eq t
  rw [h]

@[simp] theorem State.advance_running : (s.advance t).running = s.running := by
  obtain ⟨ps, h⟩ := s.advance_eq t
  rw [h]

@[simp] theorem State.advance_mboxes : (s.advance t).mboxes = s.mboxes := by
  obtain ⟨ps, h⟩ := s.advance_eq t
  rw [h]

@[simp] theorem State.advance_mbox (m : Nat) : (s.advance t).mbox m = s.mbox m := by simp [State.mbox]

@[simp] theorem State.advance_atom : (s.advance t).atom = s.atom := by
  obtain ⟨ps, h⟩ := s.advance_eq t
  rw [h]

@[simp] theorem State.advance_commits : (s.advance t).commits = s.commits := by
  obtain ⟨ps, h⟩ := s.advance_eq t
  rw [h]

@[simp] theorem State.advance_memc : (s.advance t).memc = s.memc := by
  obtain ⟨ps, h⟩ := s.advance_eq t
  rw [h]

@[simp] theorem State.advance_p (k : Nat) : (s.advance t).p k = s.p k := by simp [State.p]

variable (q : Req)

@[simp] theorem State.opened_sys : (s.opened t q).sys = s.sys := s.advance_sys t

@[simp] theorem State.opened_prot : (s.opened t q).prot = s.prot := s.advance_prot t

@[simp] theorem State.opened_mode : (s.opened t q).clk.mode = s.clk.mode := s.advance_mode t

@[simp] theorem State.opened_running : (s.opened t q).running = s.running := s.advance_running t

@[simp] theorem State.opened_atom : (s.opened t q).atom = s.atom := s.advance_atom t

@[simp] theorem State.opened_commits : (s.opened t q).commits = s.commits := s.advance_commits t

@[simp] theorem State.opened_memc : (s.opened t q).memc = s.memc := s.advance_memc t

@[simp] theorem State.opened_p (k : Nat) : (s.opened t q).p k = s.p k := by simp [State.p]

@[simp] theorem State.opened_session (n : Nat) : (s.opened t q).session n = s.session n := by simp [State.session]

@[simp] theorem State.opened_ring (i : Nat) : (s.opened t q).ring i = s.ring i := by simp [State.ring]

@[simp] theorem State.opened_twinId : (s.opened t q).twinId = s.twinId := by simp [State.twinId, State.pB]

end

end Sys2Proof.Machine
end

section
/-!
PROOFS. IDENT, GET_PARAM, SET_PARAM and COMMIT past their gates (R46, R50, R54 to R60).
-/
namespace Sys2Proof.Machine

/-- The staged set is left by the passing of time. -/
@[simp] theorem State.opened_staged (s : State) (t : Tick) (q : Req) : (s.opened t q).staged = s.staged := by
  obtain ⟨ps, h⟩ := s.advance_eq t
  rw [State.opened, h]
  rfl

/-- A COMMIT that finds a place and whose conditions hold becomes pending, or answers where it is a dry run (R58 to R60). -/
theorem State.commit_admitted {s w : State} {t : Tick} {q : Req} (hw : s.opened t q = w) (ha : s.Admits q cConfigure true)
    (hlen : payLen q = 4) (hopt : payU q 0 4 ≤ 1) (hroom : w.commits.length < 2)
    (hstate : w.commitState w.commitBase (mergeSet w.running w.staged) = false)
    (hrange : w.commitRange w.commitBase (mergeSet w.running w.staged) = []) :
    (s.advance t).commit q =
      let v := w.takes (reqId q 0x0004)
      if payU q 0 4 = 1 then v.final (reqId q 0x0004) .ok (leBytes 4 noShot ++ leBytes 8 v.dev)
      else { v with commits := v.commits ++ [{ who := reqId q 0x0004, snap := v.staged, loaded := false, loadedAt := 0 }] } := by
  have wellFormed : ¬ (payLen q != 4 || decide (1 < payU q 0 4)) = true := by simp [hlen, hopt]
  rw [State.commit, State.gate_opened ha, hw]
  simp only [if_neg wellFormed, if_neg (Nat.not_le.mpr hroom), hstate, hrange, Bool.false_eq_true, if_false, beq_iff_eq]

end Sys2Proof.Machine

namespace Sys2Proof
open Machine

/-- Settles O1: past the gate IDENT turns on its empty payload alone, and GET_PARAM on its lengths and keys. -/
theorem identAndGetParamComplete : Obligations.IdentAndGetParamComplete := by
  unfold Obligations.IdentAndGetParamComplete
  refine ⟨?ident, ?getParam⟩
  case ident =>
    intro s t q admitted empty host w
    have opened := State.gate_opened admitted t 0x0001
    have meaning : exec (.ident t q) s = .next ((s.advance t).ident q) := rfl
    simp [meaning, State.ident, opened, empty, host, w]
  case getParam =>
    intro s t q n out admitted hlo hhi number source length w keys found
    have opened := State.gate_opened admitted t 0x0002
    have meaning : exec (.getParam t q) s = .next ((s.advance t).getParam q) := rfl
    have wellFormed : ¬ (decide (payLen q < 4) || decide (n < 1) || decide (256 < n) || decide (1 < payU q 2 2) ||
        payLen q != 4 + 2 * n) = true := by
      simp [length]; omega
    simp only [meaning, State.getParam, opened, number, if_neg wellFormed]
    rw [found]

/-- Settles O2: past the checks of the payload, SET_PARAM turns on the trial of all entries, and COMMIT on its option. -/
theorem setParamAndCommitComplete : Obligations.SetParamAndCommitComplete := by
  unfold Obligations.SetParamAndCommitComplete
  refine ⟨?setParam, ?commit⟩
  case setParam =>
    intro s t q es admitted hlen hlo hhi zero parsed w keys
    have opened := State.gate_opened admitted t 0x0003
    have meaning : exec (.setParam t q) s = .next ((s.advance t).setParam q) := rfl
    have wellFormed : ¬ (decide (payLen q < 4) || decide (payU q 0 2 < 1) || decide (256 < payU q 0 2) || payU q 2 2 != 0) =
        true := by
      simp [zero]; omega
    simp only [meaning, State.setParam, opened, if_neg wellFormed, parsed]
    refine ⟨fun z passed => ?_, fun st i failed => ?_⟩
    · rw [passed]
    · rw [failed]
  case commit =>
    intro s t q admitted hlen room w state range
    have admits (hopt : payU q 0 4 ≤ 1) := State.commit_admitted rfl admitted hlen hopt (by simpa using room)
      (by simpa [w] using state) (by simpa [w] using range)
    refine ⟨fun real => ?_, fun dry => ?_⟩
    · exact congrArg Host.Outcome.next ((admits (by omega)).trans (if_neg (by simp [real])))
    · exact congrArg Host.Outcome.next ((admits (by omega)).trans (if_pos dry))

end Sys2Proof
end

section
/-!
PROOFS. RETRIEVE and RETRIEVE_CANCEL past their gates (R53, R338, R339).
-/
namespace Sys2Proof.Machine

/-- Restorations queued for a command leave the engines' queues, and nothing else does. -/
theorem State.dropRestores_eq (s : State) (q : ReqId) :
    s.dropRestores q = { s with engines := s.engines.map fun (e : Engine) => { e with queue := e.queue.filter fun j =>
      match j with
      | .restore _ _ mb tag => !(mb == q.mb && tag == q.tag)
      | .archive _ _ => true } } := by
  have keep (j : FlaconJob) :
      (!(match j with
        | .restore _ _ mb tag => mb == q.mb && tag == q.tag
        | .archive _ _ => false)) =
      match j with
      | .restore _ _ mb tag => !(mb == q.mb && tag == q.tag)
      | .archive _ _ => true := by cases j <;> rfl
  simp only [← keep]
  rfl

end Sys2Proof.Machine

namespace Sys2Proof
open Machine

/-- Settles O7: RETRIEVE's checks of its payload, its target and the number of jobs, and whether RETRIEVE_CANCEL finds its job. -/
theorem retrievalRequestsComplete : Obligations.RetrievalRequestsComplete := by
  unfold Obligations.RetrievalRequestsComplete
  refine ⟨?retrieve, ?cancel⟩
  case retrieve =>
    intro s t q admitted length tier target form plain zero order channels session host vigil room id v j
    have opened := State.gate_opened admitted t 0x0040
    have meaning : exec (.retrieve t q) s = .next ((s.advance t).retrieve q) := rfl
    rw [meaning, State.retrieve, opened]
    refine congrArg Host.Outcome.next ((if_neg ?wellFormed).trans ((if_neg ?ready).trans (if_neg ?place)))
    case wellFormed =>
      simpa [length, zero, tier, target, form, order, channels] using plain
    case ready =>
      obtain toRing | toSession : payU q 1 1 = 0 ∨ payU q 1 1 = 1 := by omega
      · obtain ⟨enabled, up⟩ := host toRing
        simpa [toRing, enabled, State.active, up] using vigil
      · obtain ⟨x, found, going⟩ := session toSession
        rw [Option.mem_def] at found
        simpa [toSession, found, going] using vigil
    case place => simpa using room
  case cancel =>
    intro s t q admitted length zero w mine
    have opened := State.gate_opened admitted t 0x0041
    have meaning : exec (.retrieveCancel t q) s = .next ((s.advance t).retrieveCancel q) := rfl
    have wellFormed : ¬ (payLen q != 4 || payU q 2 2 != 0) = true := by simp [length, zero]
    rw [meaning, State.retrieveCancel, opened]
    refine ⟨fun found => ?found, fun missing => ?missing⟩
    case found =>
      refine congrArg Host.Outcome.next ((if_neg wellFormed).trans ((if_pos ?_).trans ?_))
      · obtain ⟨j, listed, hit, running⟩ := found
        have wanted : (mine j && !j.cancelled) = true := by simp [hit, running]
        exact List.any_eq_true.mpr ⟨j, by simpa using listed, wanted⟩
      · dsimp only
        rw [State.dropRestores_eq]
        rfl
    case missing =>
      refine congrArg Host.Outcome.next ((if_neg wellFormed).trans (if_neg ?_))
      intro found
      obtain ⟨j, listed, wanted⟩ := List.any_eq_true.mp found
      obtain ⟨hit, running⟩ : mine j = true ∧ (!j.cancelled) = true := by simpa [mine] using wanted
      simp [missing j (by simpa using listed) hit] at running

end Sys2Proof
end

section
/-!
PROOFS. The registers of the mailboxes (R34, R36 to R40, R514), each access where BAR0 answers.
-/
namespace Sys2Proof.Machine

section
variable {s : State} (hp : s.clk.pcie = true) (hm : s.clk.mode ≠ 0) {m : Nat} (known : m < 16) (t : Tick) (v : Word)
include hp hm known

theorem execInProdWrite_bar : execInProdWrite t m v s = .next ((s.advance t).inProdWrite m v) := by
  simp [execInProdWrite, State.bar_advance hp hm, known]

theorem execOutConsWrite_bar : execOutConsWrite t m v s = .next ((s.advance t).outConsWrite m v) := by
  simp [execOutConsWrite, State.bar_advance hp hm, known]

theorem execFlush_bar (flush : bit v.toNat 0 = true) : execFlush t m v s = .next ((s.advance t).flushMbox m) := by
  simp [execFlush, State.bar_advance hp hm, known, flush]

end

section
variable {s : State} {m : Nat} {v : Word}

/-- A doorbell that goes forward by no more than the ring holds is taken (R36). -/
theorem State.inProdWrite_taken (order : serialLt 32 v.toNat (s.mbox m).inProd.toNat = false)
    (fits : (v - (s.mbox m).inCons).toNat ≤ 256) :
    s.inProdWrite m v = ((s.modMbox m fun b => { b with inProd := v }).pulse 0 m 8 1).serve m := by
  refine if_neg ?_
  rw [order, Bool.false_or, decide_eq_true_eq]
  exact Nat.not_lt.mpr fits

/-- Any other sets OVERRUN (R36). -/
theorem State.inProdWrite_overrun (h : serialLt 32 v.toNat (s.mbox m).inProd.toNat = true ∨ 256 < (v - (s.mbox m).inCons).toNat) :
    s.inProdWrite m v = s.flagMbox m 0 fun b => { b with overrun := true } :=
  if_pos (by simpa using h)

end

@[simp] theorem State.pulse_sys (s : State) (g c a b : Nat) : (s.pulse g c a b).sys = s.sys := by
  obtain ⟨ps, co, h⟩ := s.pulse_eq g c a b
  rw [h]

end Sys2Proof.Machine

namespace Sys2Proof
open Machine

/-- Settles O14: each register access without its guard, the two ways a doorbell and a write of OUT_CONS can go, and the gate of a
request that is not new or comes before MB_READY. -/
theorem mailboxRegistersComplete : Obligations.MailboxRegistersComplete := by
  unfold Obligations.MailboxRegistersComplete
  refine ⟨?inProd, ?outCons, ?release, ?flush, ?notNew⟩
  case inProd =>
    intro s t m v hp hm known w bell
    have meaning := execInProdWrite_bar hp hm known t v
    refine ⟨fun order fits unready => ?_, fun order fits ready => ?_, fun refused => ?_⟩
    · have unserved : bell.serve m = bell := if_neg (by simp [bell, w, unready])
      exact meaning.trans (congrArg Host.Outcome.next ((State.inProdWrite_taken order fits).trans unserved))
    · have served : bell.serve m = (bell.copyUnits m).takeStaged m 520 := if_pos (by simp [bell, w, ready])
      exact meaning.trans (congrArg Host.Outcome.next ((State.inProdWrite_taken order fits).trans served))
    · exact meaning.trans (congrArg Host.Outcome.next (State.inProdWrite_overrun refused))
  case outCons =>
    intro s t m v hp hm known w bad
    have meaning := execOutConsWrite_bar hp hm known t v
    refine ⟨fun good => ?_, fun wrong => ?_⟩
    · exact meaning.trans (congrArg Host.Outcome.next (if_neg (Bool.eq_false_iff.mp good)))
    · exact meaning.trans (congrArg Host.Outcome.next (if_pos wrong))
  case release =>
    intro s t m known
    exact congrArg Host.Outcome.next (if_pos known)
  case flush =>
    intro s t m v hp hm known flush w
    exact execFlush_bar hp hm known t v flush
  case notNew =>
    intro s c t q op cls grant w need
    obtain ⟨body, gated⟩ := exec_need need
    refine ⟨fun unready host => ?_, fun e ready known up repeats => ?_⟩
    · exact gated.trans (congrArg Host.Outcome.next (State.gate_unready unready host))
    · exact gated.trans (congrArg Host.Outcome.next (State.gate_repeats ⟨ready, known, up⟩ repeats))

end Sys2Proof
end

section
/-!
PROOFS. The UDP mailboxes (R62, R63) and the SPI mailbox (R65).
-/
namespace Sys2Proof.Machine

section
variable {s : State} {mb : Nat} {peer : Peer} {bytes : List Byte}

/-- A whole datagram of the bound source, or of the first, binds its mailbox and is taken or waits (R62, R63). -/
theorem State.datagram_whole (source : (s.mbox mb).bound = none ∨ (s.mbox mb).bound = some peer) (head : 16 ≤ bytes.length)
    (good : headBad bytes = false) (whole : bytes.length = 16 + msgLen bytes ∨ bytes.length = msgSize bytes)
    (crc : crcGood bytes = true) :
    s.datagram mb peer bytes =
      (s.modMbox mb fun b => { b with bound := some peer, boundAt := s.now }).takeOrWait mb peer bytes := by
  have fits : (bytes.length != 16 + msgLen bytes && bytes.length != msgSize bytes) = false := by
    rcases whole with h | h <;> simp [h]
  rcases source with h | h <;> simp [State.datagram, h, Nat.not_lt.mpr head, good, fits, crc]

/-- One of another source is discarded and counted (R63). -/
theorem State.datagram_other {p : Peer} (bound : (s.mbox mb).bound = some p) (other : p ≠ peer) :
    s.datagram mb peer bytes = s.refusedMbox mb := by
  simp [State.datagram, State.datagramDrop, bound, other]

/-- A datagram to a UDP mailbox's port reaches the mailbox (R62). -/
theorem execMgmtDatagram_heard {t : Tick} {dst : Peer} (listens : (s.advance t).mgmtMbox dst = some mb)
    (ready : s.sys.mbReady = true) (up : s.clk.mode ≠ 0) :
    execMgmtDatagram t dst peer bytes s = .next ((s.advance t).datagram mb peer bytes) := by
  simp [execMgmtDatagram, listens, ready, up]

/-- A message whose CRC holds runs its command, once no immediate command there is unfinished (R43, R49). -/
theorem State.takeOrWait_finished (idle : s.unfinished mb = false) (crc : crcGood bytes = true) :
    s.takeOrWait mb peer bytes = s.dispatch (fld bytes 0 2) (reqOf mb peer bytes) := by
  simp [State.takeOrWait, State.takeMessage, idle, crc]

/-- Until then it waits (R49). -/
theorem State.takeOrWait_unfinished (busy : s.unfinished mb = true) :
    s.takeOrWait mb peer bytes = s.modMbox mb fun b => { b with later := b.later ++ [(peer, bytes)] } := if_pos busy

end

end Sys2Proof.Machine

namespace Sys2Proof
open Machine

/-- Settles O15: a datagram's source decides whether it is taken, an unfinished command whether it waits; the SPI commands turn on
what is held and what waits there. (Room while no message waits is log 94; the end of flight at the last clocked byte is log 96.) -/
theorem udpAndSpiComplete : Obligations.UdpAndSpiComplete := by
  unfold Obligations.UdpAndSpiComplete
  refine ⟨?datagram, ?other, ?release, ?spiWrite, ?spiRead, ?spiStatus⟩
  case datagram =>
    intro s t mb dst peer bytes listens ready up source head good whole crc w u
    have taken : exec (.mgmtDatagram t dst peer bytes) s = .next (u.takeOrWait mb peer bytes) :=
      (execMgmtDatagram_heard listens ready up).trans (congrArg Host.Outcome.next
        ((State.datagram_whole (by simpa using source) head good whole crc).trans (by rw [State.advance_now]; rfl)))
    exact ⟨fun idle => taken.trans (congrArg Host.Outcome.next (State.takeOrWait_finished idle crc)),
      fun busy => taken.trans (congrArg Host.Outcome.next (State.takeOrWait_unfinished busy))⟩
  case other =>
    intro s t mb p dst peer bytes listens ready up bound other w
    exact (execMgmtDatagram_heard listens ready up).trans
      (congrArg Host.Outcome.next (State.datagram_other (by simpa using bound) other))
  case release =>
    intro s t mb p udp bound idle w
    have known : (mb == 16 || mb == 17) = true := by simpa using udp
    exact congrArg Host.Outcome.next (if_pos (by simp [known, bound, idle]))
  case spiWrite =>
    intro s t bytes ready up room head good whole crc idle
    have meaning : exec (.spiWriteMessage t bytes) s = execSpiWriteMessage t bytes s := rfl
    have taken : (s.advance t).takeOrWait 18 noPeer bytes = _ := State.takeOrWait_finished idle crc
    simp [meaning, execSpiWriteMessage, State.spiRoom, ready, up, room, good, Nat.not_lt.mpr head, Nat.not_lt.mpr whole, taken]
  case spiRead =>
    intro s t n w
    have meaning : exec (.spiReadResponse t n) s = execSpiReadResponse t n s := rfl
    refine ⟨fun none => ?_, fun r rest held => ?_⟩
    · simp [meaning, execSpiReadResponse, none, State.modSys, w]
    · simp [meaning, execSpiReadResponse, held, State.modSys, w]
  case spiStatus =>
    intro s t w
    have meaning : exec (.spiReadStatus t) s = execSpiReadStatus t s := rfl
    simp [meaning, execSpiReadStatus, State.spiRoom, State.modSys, w]

end Sys2Proof
end

section
/-!
PROOFS. The memory controller's commands, by their guards (R69, R345, R346, R349 to R363).
-/
namespace Sys2Proof
open Machine

/-- Settles O46: whether its domain runs, what it found and how often it was tried decide each read; the power state and the
spacing decide the periodic commands. (A read at an address that is not usable is log 5; that a refresh with nothing waiting takes
the postponed ones is log 43; the fewer errors of the hour and the drift told once are log 28.) -/
theorem memoryCommandsComplete : Obligations.MemoryCommandsComplete := by
  unfold Obligations.MemoryCommandsComplete
  refine ⟨?read, ?reread, ?scrub, ?fill, ?refresh, ?mr4, ?drift, ?hour, ?age, ?panic⟩
  case read =>
    intro s t master addr len errs w z runs known nonempty
    have begins : ¬ (!w.domainRuns 6 || decide (6 < master) || len == 0) = true := by simp [runs, known, nonempty]
    have meaning : exec (.memReadComplete t master addr len errs) s = _ := if_neg begins
    have barred (h : w.usable addr len = false ∨ w.protOk master addr len false = false) :
        (!w.usable addr len || !w.protOk master addr len false) = true := by simpa using h
    refine ⟨fun usable allowed => ?_, fun refused other => ?_, fun refused display => ?_⟩
    · have granted : ¬ (!w.usable addr len || !w.protOk master addr len false) = true := by simp [usable, allowed]
      exact meaning.trans (if_neg granted)
    · exact meaning.trans ((if_pos (barred refused)).trans (congrArg Host.Outcome.next (if_neg (by simpa using other))))
    · exact meaning.trans ((if_pos (barred refused)).trans (congrArg Host.Outcome.next (if_pos (by simpa using display))))
  case reread =>
    intro s t errs late master a len left rest w v r oldest
    have meaning (late : Bool) : exec (.memReread t errs late) s = execMemReread t errs late s := rfl
    have passed : s.advance t = w := rfl
    simp only [meaning, execMemReread, passed, oldest]
    refine ⟨fun bad last => ?_, fun bad again => ?_, fun good overtaken => ?_, fun good inTime => ?_⟩
    · exact congrArg Host.Outcome.next ((if_pos (by simpa using bad)).trans (if_pos last))
    · exact congrArg Host.Outcome.next ((if_pos (by simpa using bad)).trans (if_neg (Nat.not_le.mpr again)))
    · exact congrArg Host.Outcome.next ((if_neg (by simpa using good)).trans (if_pos overtaken))
    · exact congrArg Host.Outcome.next ((if_neg (by simpa using good)).trans (if_neg (by simp [inTime])))
  case scrub =>
    intro s t errs w a v r runs filled fitted
    have begins : ¬ (!w.domainRuns 6 || !w.memc.fillLeft.isEmpty || w.usableMib == 0) = true := by simp [runs, filled, fitted]
    have meaning : exec (.scrubRead t errs) s = execScrubRead t errs s := rfl
    have passed : (s.advance t).woken [6] = w := rfl
    have found : readFinds w.memc.scrubAt 8 errs = r := rfl
    simp only [meaning, execScrubRead, passed, if_neg begins, found]
    refine ⟨fun clean => ?_, fun single => ?_, fun bad once => ?_, fun bad again => ?_⟩
    · rw [clean]
    · rw [single]
    · rw [bad]
      exact congrArg Host.Outcome.next (if_pos (by simpa using once))
    · rw [bad]
      exact congrArg Host.Outcome.next (if_neg (by simpa using again))
  case fill =>
    intro s t lo hi rest w left runs
    have meaning : exec (.fill t) s = execFill t s := rfl
    have passed : s.advance t = w := rfl
    simp only [meaning, execFill, passed, left, runs, Bool.not_true, Bool.false_eq_true, if_false]
  case refresh =>
    intro s t sc rank bank w k n powered channel ranked banked
    have due : ¬ (w.memc.power != 1 || decide (3 < sc) || decide (w.memc.ranks ≤ rank) || decide (7 < bank)) = true := by
      simp [powered]; omega
    have meaning (waiting : Bool) : exec (.refresh t sc rank bank waiting) s = _ := congrArg Host.Outcome.next (if_neg due)
    refine ⟨fun room => ?_, fun full => ?_, ?_⟩
    · have postpones : (true && decide (n < 8)) = true := by simpa using room
      exact (meaning true).trans (congrArg Host.Outcome.next (if_pos postpones))
    · have ninth : ¬ (true && decide (n < 8)) = true := by simpa using full
      exact (meaning true).trans (congrArg Host.Outcome.next ((if_neg ninth).trans (if_pos rfl)))
    · exact (meaning false).trans (congrArg Host.Outcome.next ((if_neg (by simp)).trans (if_neg (by simp))))
  case mr4 =>
    intro s t codes w powered given due
    have polled : ¬ (w.memc.power != 1 || codes.isEmpty || !w.spaced w.memc.mr4At (msT 16)) = true := by
      simp [powered, given, due]
    exact congrArg Host.Outcome.next (if_neg polled)
  case drift =>
    intro s t drift w drifted powered up due
    have tracked : ¬ (w.memc.power != 1 || decide (w.clk.mode < 3) || !w.spaced w.memc.trackAt (msT (w.p K.memcTrackMs))) =
        true := by
      simpa [powered, due] using up
    exact congrArg Host.Outcome.next (if_neg tracked)
  case hour =>
    intro s t w due
    have passed : ¬ (!w.spaced w.memc.ceHourAt (secT 3600)) = true := by simp [due]
    exact congrArg Host.Outcome.next (if_neg passed)
  case age => exact fun s t => rfl
  case panic => exact fun s t level => ⟨rfl, rfl⟩

end Sys2Proof
end

section
/-!
PROOFS. Power, the resets, boots that wait, PERST_N and JTAG (R70, R471 to R480, R508, R509).
-/
namespace Sys2Proof
open Machine

/-- Settles O53: what is powered, due or waiting decides each command. (FAULT_PROD and FAULT_CONS at power-up are log 41; the
form of BOOT_RETRY is log 39, and what start-up hardware does then log 4.) -/
theorem startUpCommandsComplete : Obligations.StartUpCommandsComplete := by
  unfold Obligations.StartUpCommandsComplete
  refine ⟨?powerUp, ?supplyLoss, ?resets, ?due, ?perst, ?config, ?retry, ?xa, ?timeout, ?jtag⟩
  case powerUp =>
    intro s t env w unpowered
    have off : ¬ w.sys.powered = true := Bool.eq_false_iff.mp unpowered
    exact congrArg Host.Outcome.next (if_neg off)
  case supplyLoss => exact fun s t => rfl
  case resets =>
    intro s t ns w
    refine ⟨fun powered long => ?_, fun short => ?_, fun powered => ?_, fun powered => ?_, rfl⟩
    · have low : ¬ (!w.sys.powered || decide (ns < 200)) = true := by simp [powered]; omega
      exact congrArg Host.Outcome.next ((if_neg low).trans (if_pos long))
    · have ignored : (!w.sys.powered || decide (ns < 200)) = true := by simp [short]
      exact congrArg Host.Outcome.next (if_pos ignored)
    · exact congrArg Host.Outcome.next (if_pos powered)
    · exact congrArg Host.Outcome.next (if_pos powered)
  case due =>
    intro s t a kind w scheduled reached
    have meaning : exec (.resetExecute t) s = execResetExecute t s := rfl
    have passed : s.advance t = w := rfl
    simp only [meaning, execResetExecute, passed, scheduled, if_neg (Nat.not_lt.mpr reached)]
    refine ⟨fun warm => ?_, fun full => ?_⟩
    · exact congrArg Host.Outcome.next (if_pos (beq_iff_eq.mpr warm))
    · exact congrArg Host.Outcome.next (if_neg (mt beq_iff_eq.mp full))
  case perst =>
    intro s t w powered
    have on : ¬ (!w.sys.powered) = true := by simp [powered]
    exact congrArg Host.Outcome.next (if_neg on)
  case config =>
    intro s t w stage unready running answered
    have meaning : exec (.configMessage t) s = execConfigMessage t s := rfl
    have passed : s.advance t = w := rfl
    have goesOn : ¬ (w.sys.bootStage != 12 || w.sys.mbReady || w.sys.halted || w.sys.cfgWait.isSome) = true := by
      simp [stage, unready, running, answered]
    simp only [meaning, execConfigMessage, passed, if_neg goesOn]
    refine ⟨fun last => ?_, fun bs rest next => ?_⟩
    · rw [last]
    · rw [next]
  case retry =>
    intro s t a w scheduled reached
    have meaning : exec (.bootRetry t) s = execBootRetry t s := rfl
    have passed : s.advance t = w := rfl
    simp only [meaning, execBootRetry, passed, scheduled, if_neg (Nat.not_lt.mpr reached)]
    exact ⟨w.freeNat, rfl⟩
  case xa =>
    intro s t w waits
    have runs : ¬ (!w.sys.waitXa || !true) = true := by simp [waits]
    exact congrArg Host.Outcome.next (if_neg runs)
  case timeout =>
    intro s t a w begun unready late
    have meaning : exec (.warmBootTimeout t) s = execWarmBootTimeout t s := rfl
    have passed : s.advance t = w := rfl
    have overdue : (!w.sys.mbReady && decide (a + msT 800 ≤ w.now)) = true := by simp [unready, late]
    simp only [meaning, execWarmBootTimeout, passed, begun, if_pos overdue]
  case jtag =>
    intro s t w gives powered
    have on : ¬ (!w.sys.powered) = true := by simp [powered]
    have meaning (ir : Nat) : exec (.jtagAccess t ir) s = execJtagAccess t ir s := rfl
    have passed : s.advance t = w := rfl
    simp only [meaning, execJtagAccess, passed, if_neg on]
    refine ⟨rfl, rfl, fun locked => ?_, fun granted => ?_⟩
    · exact congrArg Host.Outcome.next (if_neg (Bool.eq_false_iff.mp locked))
    · exact congrArg Host.Outcome.next (if_pos granted)

end Sys2Proof
end

section
/-!
PROOFS. The state after reset (R55, R96, R471; its form: assumption 14).
-/
namespace Sys2Proof.Machine

/-- A channel at its reset value is still. -/
theorem EmitCh.still_default : ({} : EmitCh).still := ⟨rfl, rfl, rfl, rfl, rfl, rfl⟩

/-- The six emitter channels are still at reset. -/
theorem State.reset_ilkDark : State.reset.IlkDark :=
  ⟨rfl, fun _ _ listed => List.eq_of_mem_replicate listed ▸ EmitCh.still_default⟩

end Sys2Proof.Machine

namespace Sys2Proof
open Machine

/-- Settles O55: each field at its default, and the channels and counters alike. -/
theorem resetState : Obligations.ResetState := by
  unfold Obligations.ResetState
  have counters : ∀ x ∈ State.reset.clk.perf, x.val = 0 := fun _ listed => List.eq_of_mem_replicate listed ▸ rfl
  exact ⟨rfl, rfl, rfl, rfl, rfl, rfl, rfl, rfl, rfl, State.reset_ilkDark, counters, rfl, rfl, rfl⟩

end Sys2Proof
end

section
/-!
PROOFS. The emitter drive under a set latch: every operation on the channels keeps six of them, and each still while the latch is
set (R96, R102, R114).
-/
namespace Sys2Proof.Machine

/-- IlkDark, of the core alone. -/
def Core.Dark (c : Core) : Prop := c.chans.length = 6 ∧ (c.latched = true → ∀ x ∈ c.chans, x.still)

theorem State.ilkDark_iff (s : State) : s.IlkDark ↔ s.core.Dark := Iff.rfl

@[simp] theorem dark_ite (p : Prop) [Decidable p] (a b : Core) :
    (if p then a else b).Dark ↔ if p then a.Dark else b.Dark := by
  split <;> rfl

@[simp] theorem dark_now (c : Core) (t : Tick) : ({ c with now := t } : Core).Dark ↔ c.Dark := Iff.rfl

/-- Operations that leave the core alone keep a dark device dark. -/
theorem Core.Dark.same {u s : State} (h : s.core.Dark) (e : u.core = s.core) : u.core.Dark := e ▸ h

/-- Operations that keep the base keep the latch. -/
theorem State.latched_of_base {u s : State} (h : u.core.base = s.core.base) : u.ilk.latched = s.ilk.latched :=
  congrArg Base.latched h

/-- A pass of steps that each keep a dark device dark. -/
theorem Core.Dark.foldl {α : Type} {g : State → α → State} {s : State} (h : s.core.Dark) (l : List α)
    (step : ∀ u a, u.core.Dark → (g u a).core.Dark) : (l.foldl g s).core.Dark :=
  List.foldlRecOn l g h fun u dark a _ => step u a dark

/-! One channel. -/

/-- A channel of a dark device is still while the latch is set. -/
theorem Core.Dark.ch_still {s : State} (h : s.core.Dark) (latched : s.ilk.latched = true) (c : Nat) : (s.ch c).still := by
  unfold State.ch nth
  by_cases listed : c < s.emit.chans.length
  · rw [List.getD_eq_getElem _ _ listed]
    exact h.2 latched _ (List.getElem_mem listed)
  · rw [List.getD_eq_default _ _ (Nat.le_of_not_lt listed)]
    exact EmitCh.still_default

/-- An update of one channel keeps the device dark where it keeps a still channel still, or the latch is clear. -/
theorem Core.Dark.modCh {s : State} (h : s.core.Dark) (c : Nat) {f : EmitCh → EmitCh}
    (keeps : s.ilk.latched = true → ∀ x, x.still → (f x).still) : (s.modCh c f).core.Dark := by
  refine ⟨(modAt_length f s.emit.chans c).trans h.1, fun latched x listed => ?_⟩
  obtain old | ⟨y, old, rfl⟩ := mem_modAt listed
  · exact h.2 latched x old
  · exact keeps latched y (h.2 latched y old)

theorem EmitCh.still_darkCh (now : Tick) (x : EmitCh) : (darkCh now x).still := ⟨rfl, rfl, rfl, rfl, rfl, rfl⟩

/-- Under the latch no channel may carry current. -/
theorem State.lit_latched {s : State} (latched : s.ilk.latched = true) (c : Nat) : s.lit c = false := by
  simp [State.lit, State.forcedDark, latched]

theorem State.forcedDark_latched {s : State} (latched : s.ilk.latched = true) (c : Nat) : s.forcedDark c = true := by
  simp [State.forcedDark, latched]

/-! Ramps (R104 to R106, R114). -/

section
variable {s : State} (h : s.core.Dark)
include h

@[simp] theorem State.loopOpen_dark (c : Nat) : (s.loopOpen c).core.Dark := by
  have opened := h.modCh c (f := fun x => { x.untimed s.now with loopClosed := false, closeAt := none })
    fun _ x ⟨code, ramp, waiting, _, _, risen⟩ => ⟨code, ramp, waiting, rfl, rfl, risen⟩
  unfold State.loopOpen
  extract_lets s1
  split
  · exact opened.modCh (5 - c) fun _ x still => still
  · exact opened

/-- A ramp starts only while the latch is clear. -/
theorem State.rampTo_dark (clear : s.ilk.latched = false) (c target : Nat) : (s.rampTo c target).core.Dark := by
  unfold State.rampTo
  extract_lets d s1
  have same : s1.core.base = s.core.base := by simp [s1]
  have dark : s1.core.Dark := State.loopOpen_dark (by simpa using h) c
  refine dark.modCh c fun latched => ?_
  rw [State.latched_of_base same, clear] at latched
  cases latched

@[simp] theorem State.releaseRamps_dark : s.releaseRamps.core.Dark := by
  refine h.foldl _ fun u c dark => ?_
  dsimp only
  split
  next target waits =>
    have clear : u.ilk.latched = false := by
      by_contra latched
      obtain ⟨_, _, waiting, _⟩ := dark.ch_still (Bool.not_eq_false _ ▸ latched) c
      rw [waiting] at waits
      cases waits
    split
    · exact State.rampTo_dark dark clear c _
    · exact dark
  · exact dark

@[simp] theorem State.dark_dark (cs : List Nat) : (s.dark cs).core.Dark := by
  refine State.releaseRamps_dark (Core.Dark.foldl (by simpa using h) _ ?_)
  exact fun u c dark => dark.modCh c fun _ x _ => EmitCh.still_darkCh u.now x

/-- Channels ramp only while the latch is clear. -/
theorem State.rampSet_dark (cs : List Nat) (up : Bool) (none : s.ilk.latched = true → cs = []) :
    (s.rampSet cs up).core.Dark := by
  unfold State.rampSet
  extract_lets put
  refine State.releaseRamps_dark ?_
  by_cases latched : s.ilk.latched = true
  · rw [none latched]
    exact h
  · have begun : (if cs.contains 4 then s.ramanAbort else s).core = s.core := by simp
    have clear : s.ilk.latched = false := Bool.not_eq_true _ ▸ latched
    refine (List.foldlRecOn (motive := fun u : State => u.core.base = s.core.base ∧ u.core.Dark) cs put
      ⟨congrArg Core.base begun, h.same begun⟩ fun u ⟨same, dark⟩ c _ => ?_).2
    have opened : (u.loopOpen c).core.base = s.core.base := (State.loopOpen_base u c).trans same
    refine ⟨opened, (State.loopOpen_dark dark c).modCh c fun set => ?_⟩
    rw [State.latched_of_base opened, clear] at set
    cases set

@[simp] theorem State.riseAll_dark : s.riseAll.core.Dark :=
  State.rampSet_dark h _ true fun latched => by simp [State.lit_latched latched]

/-! Writes of the drive's parameters (R103 to R107). -/

@[simp] theorem State.enableWrite_dark (old : Nat) : (s.enableWrite old).core.Dark := by
  unfold State.enableWrite
  extract_lets new up down s1
  have same : s1.core = s.core := by simp [s1]
  have begun : s1.core.Dark := same ▸ h
  have latchedOf : s1.ilk.latched = true → s.ilk.latched = true := fun set =>
    (State.latched_of_base (congrArg Core.base same)).symm.trans set
  have lowered : (s1.rampSet down false).core.Dark :=
    State.rampSet_dark begun down false fun set => by simp [down, State.forcedDark_latched (latchedOf set)]
  refine State.rampSet_dark lowered up true fun set => ?_
  rw [State.latched_of_base (State.rampSet_base s1 down false)] at set
  simp [up, State.forcedDark_latched (latchedOf set)]

@[simp] theorem State.setpointWrite_dark (c old : Nat) : (s.setpointWrite c old).core.Dark := by
  unfold State.setpointWrite
  extract_lets new x
  split
  · exact h
  next held =>
    have clear : s.ilk.latched = false := by
      by_contra latched
      exact held (by simp [State.lit_latched (Bool.not_eq_false _ ▸ latched)])
    split
    · exact State.rampTo_dark h clear c new
    · split
      · exact h
      · split
        · exact State.rampTo_dark h clear c new
        · split
          · exact h.modCh c fun _ x still => still
          · exact h

@[simp] theorem State.loopModeWrite_dark (old : Nat) : (s.loopModeWrite old).core.Dark := by
  refine h.foldl _ fun u c dark => ?_
  split
  · refine dark.modCh c fun _ x ⟨code, ramp, waiting, closed, _, risen⟩ => ⟨code, ramp, waiting, closed, ?_, risen⟩
    simp [risen]
  · split
    · exact State.loopOpen_dark dark c
    · exact dark

/-! The power loop, the updates and the pumps (R100, R107, R109 to R111). -/

@[simp] theorem State.loopRun_dark (m measured : Nat) : (s.loopRun m measured).core.Dark :=
  h.foldl _ fun _ c dark => dark.modCh c fun _ _ still => still

@[simp] theorem State.updateCode_dark (c : Nat) : (s.updateCode c).core.Dark := by
  unfold State.updateCode
  split
  · exact h.modCh c fun _ x _ => EmitCh.still_darkCh s.now x
  next lit => exact h.modCh c fun latched => absurd (State.forcedDark_latched latched c) lit

@[simp] theorem State.pumpFail_dark : s.pumpFail.core.Dark := by
  unfold State.pumpFail
  split
  · exact h
  · rw [State.emitter_core]
    exact State.dark_dark (by exact h) _

@[simp] theorem State.pumpReading_dark (t : Int) : (s.pumpReading t).core.Dark := by
  simp [State.pumpReading, State.lateOnce_core, h]

/-! Conversions whose result is a pump temperature (R109 to R111, R413). -/

@[simp] theorem State.deliverConv_dark (c : Conv) : (s.deliverConv c).core.Dark := by
  unfold State.deliverConv
  split
  · split
    · split
      · exact State.pumpReading_dark (by simpa using h) _
      · exact h
    · split
      · exact State.pumpFail_dark h
      · exact h
  all_goals (repeat' split) <;> simpa using h

@[simp] theorem State.endConv_dark : s.endConv.core.Dark := by
  unfold State.endConv
  split
  · exact h
  · simp [h]

@[simp] theorem State.cfgChanged_dark (input : Nat) : (s.cfgChanged input).core.Dark := by
  unfold State.cfgChanged
  extract_lets s1
  have begun : s1.core.Dark := h
  split
  · split
    · exact State.endConv_dark begun
    · exact begun
  · exact begun

@[simp] theorem State.iexChanged_dark (n : Nat) : (s.iexChanged n).core.Dark := by
  unfold State.iexChanged
  split
  · split <;> exact h
  · exact h

/-! Optical modules (R114, R115, R118). -/

@[simp] theorem State.lowerSetpoints_dark (cs : List Nat) : (s.lowerSetpoints cs).core.Dark := by
  refine h.foldl _ fun u c dark => ?_
  dsimp only
  split
  · exact State.setpointWrite_dark (by exact dark) c _
  · exact dark

theorem State.moduleJudged_dark (pos reason : Nat) (cache : List Byte) : (s.moduleJudged pos reason cache).core.Dark := by
  unfold State.moduleJudged
  extract_lets s1 s2 s3 s4 s5
  split
  · have told : s3.core.Dark := h.same (by simp [s3, s2, s1])
    exact State.riseAll_dark ((State.lowerSetpoints_dark told (moduleChans pos)).same (by simp [s5, s4]))
  · exact h.same (by simp [s1])

theorem State.moduleGone_dark (pos : Nat) : (s.moduleGone pos).core.Dark := by
  unfold State.moduleGone
  extract_lets cs s1 s2 s3 s4 s5 s6 s7
  have out : s3.core.Dark := State.dark_dark (h.same (by simp [s2, s1])) cs
  have ended : s5.core.Dark := out.same (by simp [s5, s4])
  have told : s7.core.Dark := ended.same (by simp [s7, s6])
  split
  · exact told
  · exact told.same (State.wlDrop_core s7)

/-! Power modes (R114, R116, R454 to R461). -/

theorem State.lightsOut_dark : s.lightsOut.core.Dark := by
  unfold State.lightsOut
  extract_lets s1
  exact (State.dark_dark h [0, 1, 2, 3, 5]).same (by simp [s1])

theorem State.vigilEnter_dark (cause : Nat) : (s.vigilEnter cause).core.Dark := by
  unfold State.vigilEnter
  extract_lets s1 s2
  have out : s.runCut.suspendAll.lightsOut.core.Dark := State.lightsOut_dark (h.same (by simp))
  have stopped : s2.core = s.runCut.suspendAll.lightsOut.core := by
    simp only [s2, s1]
    rw [State.domainsStop_core, State.slicesStop_core, State.jobsStop_core, State.memoryLost_core, State.tiuAbort_core]
  exact out.same (by rw [State.refreshDark_core, State.modClk_core, stopped])

theorem State.standbyEnter_dark : s.standbyEnter.core.Dark := by
  unfold State.standbyEnter
  extract_lets s1 s2 s3 s4 s5 s6
  have out : s.runCut.suspendAll.lightsOut.core.Dark := State.lightsOut_dark (h.same (by simp))
  have raman : s2.core.Dark := State.dark_dark (out.same (by simp [s1])) [4]
  have fqo : s4.core = s3.core :=
    (core_foldl _ (fun u n => by split <;> simp) _ _).trans (State.apdApply_core s3)
  exact raman.same (by simp [s6, s5, fqo, s3])

theorem State.wakeTo_dark (target cause : Nat) : (s.wakeTo target cause).core.Dark := by
  unfold State.wakeTo
  extract_lets s1 s2 s3 s4 s5 s6 s7 due s8
  have woken : s8.core = s.core := by
    simp only [s8, s7, s6, s5, s4, s3, s2, s1]
    simp
  rw [State.refreshDark_core]
  exact State.riseAll_dark (h.same (by simp [woken]))

theorem State.transBegin_dark (tr : Transition) : (s.transBegin tr).core.Dark := by
  unfold State.transBegin
  extract_lets s1
  have begun : s1.core.Dark := h
  split
  · exact State.vigilEnter_dark begun tr.cause
  · split
    · exact State.lightsOut_dark (begun.same (State.runEnds_core s1 false))
    · split
      · exact begun.same (State.runEnds_core s1 false)
      · exact begun

theorem State.thermalTrip_dark (i : Nat) : (s.thermalTrip i).core.Dark := by
  unfold State.thermalTrip
  extract_lets s1 s2 s3
  have aborted : s2.core.Dark := h.same (by simp [s2, s1])
  split
  · exact State.vigilEnter_dark (aborted.same (by simp [s3])) 3
  · exact aborted

end

end Sys2Proof.Machine
end

section
/-!
PROOFS. The interlock itself and the requests: a trip darkens all six channels, ILK_CLEAR lets them rise only once the latch is
clear, and no other request moves a channel under the latch (R94 to R98, R102).
-/
namespace Sys2Proof.Machine

/-! A trip (R94 to R96, R114). -/

section
variable {s : State}

/-- All six channels go dark, whatever they did. -/
theorem State.dark_all (six : s.emit.chans.length = 6) : (s.dark [0, 1, 2, 3, 4, 5]).core.Dark := by
  refine State.releaseRamps_dark ?_
  have begun : (if [0, 1, 2, 3, 4, 5].contains 4 then s.ramanAbort else s).core = s.core := State.ramanAbort_core s
  generalize (if [0, 1, 2, 3, 4, 5].contains 4 then s.ramanAbort else s) = w at begun
  have six' : w.emit.chans.length = 6 := (congrArg (fun c => c.chans.length) begun).trans six
  obtain ⟨-, length, each⟩ := chans_pass (fun u _ => darkCh u.now) (fun _ _ => rfl) [0, 1, 2, 3, 4, 5] (by decide) w
  refine ⟨length.trans six', fun _ x listed => ?_⟩
  obtain ⟨d, within, rfl⟩ := List.getElem_of_mem listed
  have bound : d < 6 := length.trans six' ▸ within
  have dark := each d (six' ▸ bound)
  have member : d ∈ [0, 1, 2, 3, 4, 5] := by simp; omega
  rw [if_pos member] at dark
  have listedAt : _ = darkCh w.now (w.ch d) := (List.getD_eq_getElem _ _ within).symm.trans dark
  exact listedAt ▸ EmitCh.still_darkCh w.now _

/-- A trip leaves the base as the setting of the latch leaves it. -/
theorem State.ilkTrip_base (s : State) :
    s.ilkTrip.core.base = ({ s with ilk := { s.ilk with latched := true } } : State).core.base := by
  simp [State.ilkTrip]

/-- A trip sets the latch. -/
theorem State.ilkTrip_latched (s : State) : s.ilkTrip.ilk.latched = true := State.latched_of_base (State.ilkTrip_base s)

/-- A trip darkens six channels. -/
theorem State.ilkTrip_dark (six : s.emit.chans.length = 6) : s.ilkTrip.core.Dark := by
  unfold State.ilkTrip
  extract_lets ilk s1 run s2 s3 s4
  have ended : s3.core = s1.core := by simp [s3, s2]
  have six' : s3.ramanAbort.emit.chans.length = 6 :=
    (congrArg (fun c => c.chans.length) ((State.ramanAbort_core s3).trans ended)).trans six
  have dark : s4.core.Dark := (State.dark_all six').same (by simp only [s4, State.emitterAt_core])
  exact dark.same (by simp)

variable (h : s.core.Dark)
include h

theorem State.ilkFall_dark (low : Option Nat) : (s.ilkFall low).core.Dark := by
  unfold State.ilkFall
  extract_lets ilk s1 short hit s2
  have same : s2.core = s.core := by
    simp only [s2, core_ite, State.tookFree_core, ite_self]
    rfl
  have fallen : s2.core.Dark := h.same same
  split
  · exact State.ilkTrip_dark fallen.1
  · exact fallen

theorem State.ilkFirst_dark : s.ilkFirst.core.Dark := by
  unfold State.ilkFirst
  split
  · exact State.ilkFall_dark h _
  · exact h

/-! Requests (R46). -/

/-- A gated command keeps a dark device dark where its body does. -/
theorem State.gate_dark (q : Req) (op cls : Nat) (grant : Bool) (body : State → ReqId → State)
    (keeps : ∀ u id, u.core.Dark → (body u id).core.Dark) : (s.gate q op cls grant body).core.Dark := by
  unfold State.gate
  extract_lets id
  split
  · exact h
  · split
    · exact h.same (State.resend_core ..)
    · split
      · exact h.same (State.refuse_core ..)
      · split
        · exact h.same (State.refuse_core ..)
        · split
          · exact h.same (State.refuse_core ..)
          · exact keeps _ id h

/-- The channels rise only after the latch is clear (R98). -/
theorem State.ilkClear_dark (q : Req) : (s.ilkClear q).core.Dark := by
  refine State.gate_dark h q _ _ _ _ fun u id dark => ?_
  have answered (st : Status) : (u.final id st []).core.Dark := dark.same (State.final_core ..)
  split
  · exact answered _
  · split
    · exact answered _
    · split
      · exact dark.same (State.ok_core ..)
      · split
        · split
          · have cleared : ({ u with ilk := { u.ilk with latched := false } } : State).core.Dark :=
              ⟨dark.1, fun set => nomatch set⟩
            exact (State.riseAll_dark cleared).same (State.ok_core ..)
          · exact answered _
        · exact answered _

theorem State.keyEffect_dark (old : State) (k : Nat) : (s.keyEffect old k).core.Dark := by
  have windows (l : List Nat) : (l.foldl (fun (u : State) n => u.winGo n false) s).core = s.core :=
    core_foldl _ (fun u n => State.winGo_core u n false) l s
  simp [State.keyEffect, h, windows]

theorem State.setParam_dark (q : Req) : (s.setParam q).core.Dark := by
  refine State.gate_dark h q _ _ _ _ fun u id dark => ?_
  extract_lets n
  split
  · exact dark.same (State.final_core ..)
  · split
    · exact dark.same (State.final_core ..)
    next es _ =>
      extract_lets keys u1 w
      split
      · exact dark.same (State.final_core ..)
      · have settled : u1.core = u.core := by simp [u1]
        have written : w.core = u1.core := core_foldl _ (fun v e => State.writeKey_core ..) es u1
        have effects : (keys.foldl (fun v k => v.keyEffect u1 k) w).core.Dark :=
          (dark.same (written.trans settled)).foldl keys fun v k dark => State.keyEffect_dark dark u1 k
        exact effects.same (by rw [State.answeredFrom_core, State.ok_core])

theorem State.powerMode_dark (q : Req) : (s.powerMode q).core.Dark := by
  refine State.gate_dark h q _ _ _ _ fun u id dark => ?_
  extract_lets target u1
  have answered (st : Status) : (u.final id st []).core.Dark := dark.same (State.final_core ..)
  split
  · exact answered _
  · split
    · exact answered _
    · split
      · exact answered _
      · split
        · exact answered _
        · split
          · exact dark.same (by rw [State.final_core, State.takes_core])
          · exact State.transBegin_dark (dark.same (by simp only [u1, State.modClk_core, State.takes_core])) _

omit h in
/-- The requests but SET_PARAM, ILK_CLEAR and POWER_MODE leave the core alone. -/
theorem State.dispatch_core {op : Nat} (q : Req) (notSet : op ≠ 0x0003) (notClear : op ≠ 0x00E1) (notPower : op ≠ 0x00F0) :
    (s.dispatch op q).core = s.core := by
  unfold State.dispatch
  split <;> simp at *

theorem State.dispatch_dark (op : Nat) (q : Req) : (s.dispatch op q).core.Dark := by
  by_cases set : op = 0x0003
  · subst set
    exact State.setParam_dark h q
  by_cases clear : op = 0x00E1
  · subst clear
    exact State.ilkClear_dark h q
  by_cases power : op = 0x00F0
  · subst power
    exact State.powerMode_dark h q
  exact h.same (State.dispatch_core q set clear power)

end

end Sys2Proof.Machine
end

section
/-!
PROOFS. Messages, resets and boots under the interlock: a reset leaves six still channels, and what takes messages goes from one
request to the next (R40 to R49, R96, R471 to R480).
-/
namespace Sys2Proof.Machine

section
variable {s : State} (h : s.core.Dark)
include h

/-! Messages (R43, R49). -/

theorem State.takeMessage_dark (mb : Nat) (peer : Peer) (bs : List Byte) : (s.takeMessage mb peer bs).core.Dark := by
  unfold State.takeMessage
  split
  · exact State.dispatch_dark h _ _
  · exact h.same (State.crcError_core ..)

theorem State.takeStaged_dark (m n : Nat) : (s.takeStaged m n).core.Dark := by
  induction n generalizing s with
  | zero => exact h
  | succ n ih =>
    unfold State.takeStaged
    extract_lets bs
    split
    · exact h
    · split
      · exact h.same (by rw [State.protoError_core, State.modMbox_core])
      · split
        · exact h
        · exact ih (State.takeMessage_dark (h.same (State.modMbox_core ..)) m noPeer bs)

theorem State.serve_dark (m : Nat) : (s.serve m).core.Dark := by
  unfold State.serve
  split
  · exact State.takeStaged_dark (h.same (State.copyUnits_core s m)) m 520
  · exact h

theorem State.inProdWrite_dark (m : Nat) (v : Word) : (s.inProdWrite m v).core.Dark := by
  unfold State.inProdWrite
  extract_lets b
  split
  · exact h.same (State.flagMbox_core ..)
  · exact State.serve_dark (h.same (by rw [State.pulse_core, State.modMbox_core])) m

theorem State.takeOrWait_dark (mb : Nat) (peer : Peer) (bs : List Byte) : (s.takeOrWait mb peer bs).core.Dark := by
  unfold State.takeOrWait
  split
  · exact h.same (State.modMbox_core ..)
  · exact State.takeMessage_dark h mb peer bs

theorem State.takeLater_dark (mb n : Nat) : (s.takeLater mb n).core.Dark := by
  induction n generalizing s with
  | zero => exact h
  | succ n ih =>
    unfold State.takeLater
    split
    · exact h
    · split
      · exact h
      · exact ih (State.takeMessage_dark (h.same (State.modMbox_core ..)) mb _ _)

theorem State.finished_dark (m : Nat) : (s.finished m).core.Dark := by
  unfold State.finished
  split
  · exact State.serve_dark h m
  · exact State.takeLater_dark h m _

theorem State.datagram_dark (mb : Nat) (peer : Peer) (bytes : List Byte) : (s.datagram mb peer bytes).core.Dark := by
  unfold State.datagram
  extract_lets other
  split
  · exact h.same (State.datagramDrop_core ..)
  · split
    · exact h.same (State.protoError_core ..)
    · split
      · exact h.same (State.datagramDrop_core ..)
      · split
        · exact h.same (State.crcError_core ..)
        · exact State.takeOrWait_dark (h.same (State.modMbox_core ..)) mb peer bytes

theorem State.mboxRegWrite_dark (m r : Nat) (v : Word) : (s.mboxRegWrite m r v).core.Dark := by
  unfold State.mboxRegWrite
  extract_lets c
  split
  · exact State.inProdWrite_dark h m v
  · exact h.same (State.outConsWrite_core ..)
  · exact h.same (State.modMbox_core ..)
  · exact h.same (State.modMbox_core ..)
  · split
    · exact h.same (State.flushMbox_core ..)
    · exact h
  · exact h

theorem State.regWrite_dark (off : Nat) (v : Word) : (s.regWrite off v).core.Dark := by
  unfold State.regWrite
  split
  · exact h
  · split
    · exact State.mboxRegWrite_dark h _ _ v
    · split
      · exact h
      · split
        · exact h.same (State.faultConsWrite_core ..)
        · split
          · exact h.same (State.snapWrite_core ..)
          · split
            · exact h.same (State.modAtom_core ..)
            · split
              · exact h.same (State.ringRegWrite_core ..)
              · exact h

theorem State.configTake_dark (bs : List Byte) : (s.configTake bs).core.Dark := by
  unfold State.configTake
  extract_lets q id
  split
  · exact h.same (State.refuse_core ..)
  · exact State.dispatch_dark h _ q

/-! A boot (R476 to R480). -/

theorem State.bootImage_dark : s.bootImage.core.Dark := by
  unfold State.bootImage
  extract_lets e
  split
  · exact h.same (by rw [State.bootHalt_core, State.bootCodeMet_core])
  · extract_lets s1 img s2 s3
    have chosen : s1.core.Dark := h.same (by simp [s1])
    have found : s2.core.Dark := chosen
    have begun : s3.core.Dark := found
    split
    · exact found.same (State.bootHalt_core ..)
    · split
      · exact begun.same (State.bootFirmware_core ..)
      · exact begun.same (State.bootMemory_core ..)

theorem State.boot_dark : s.boot.core.Dark := by
  unfold State.boot
  extract_lets s1 s2
  have begun : s1.core.Dark := h
  split
  · exact State.bootImage_dark (begun.same (by rfl))
  · exact begun.same (by rw [State.modSys_core, State.bootCodeMet_core])

theorem State.bootDone_dark : s.bootDone.core.Dark := by
  unfold State.bootDone
  extract_lets want m s1 s2 s3 s4 s5 s6 s7 s8 s9 s10
  have powered : s3.core = s.core := by simp [s3, s2, s1]
  have ready : s6.core = s3.core := by simp [s6, s5, s4]
  have lit : s7.core = s6.core := State.modEmit_core _ _ rfl
  have told : s9.core = s7.core := by simp [s9, s8]
  have begun : s9.apdApply.core.Dark :=
    ((((h.same powered).same ready).same lit).same told).same (State.apdApply_core s9)
  have risen : s10.core.Dark := (State.riseAll_dark begun).same (by simp [s10])
  exact risen.foldl (List.range 16) fun u k dark => State.serve_dark dark k

theorem State.bootOn_dark : s.bootOn.core.Dark := by
  unfold State.bootOn
  split
  · exact State.bootDone_dark (h.same (State.stage_core s 13))
  · exact h

end

/-! Resets (R471 to R473, R480): six channels at their reset values. -/

section
variable (s : State)

theorem State.fullReset_dark (code : Nat) : (s.fullReset code).core.Dark := State.reset_ilkDark

theorem State.warmReset_dark (code : Nat) : (s.warmReset code).core.Dark := by
  unfold State.warmReset
  extract_lets r y held s1
  rename_i w
  have reset : w.core.Dark := State.reset_ilkDark
  exact reset.same (by rw [State.modTwin_core, State.slicesStop_core, State.chainResetAll_core])

theorem State.fullBoot_dark (code : Nat) : (s.fullBoot code).core.Dark :=
  State.bootOn_dark (State.boot_dark (s.fullReset_dark code))

theorem State.warmStart_dark (code : Nat) : (s.warmStart code).core.Dark :=
  State.bootOn_dark (State.boot_dark (s.warmReset_dark code))

theorem State.stewardReset_dark (code : Nat) : (s.stewardReset code).core.Dark := by
  unfold State.stewardReset
  extract_lets recent s1
  split
  · exact s1.fullBoot_dark 7
  · exact s1.warmStart_dark code

end

end Sys2Proof.Machine
end

section
/-!
PROOFS. Every command keeps a dark device dark: those that leave the core alone, and each of the others (R96, R114).
-/
namespace Sys2Proof.Machine

/-- The outcome is a next state that is dark. -/
def StaysDark (o : Host.Outcome State Fault Refusal) : Prop := ∃ u, o = .next u ∧ u.core.Dark

theorem StaysDark.next {u : State} (h : u.core.Dark) : StaysDark (.next u) := ⟨u, rfl, h⟩

theorem Core.Dark.advance {s : State} (h : s.core.Dark) (t : Tick) : (s.advance t).core.Dark := by
  rw [State.advance_core]
  exact h

section
variable {s : State} (h : s.core.Dark) (t : Tick)
include h

/-! Emitter drive (R100 to R111). -/

theorem execEmitUpdate_dark : StaysDark (execEmitUpdate t s) :=
  .next (State.releaseRamps_dark ((h.advance t).foldl (List.range 6) fun _ c dark => State.updateCode_dark dark c))

/-- A channel that ramps shows that the latch is clear. -/
theorem Core.Dark.clear_of_ramp {c : Nat} {r : Ramp} (ramps : (s.ch c).ramp = some r) : s.ilk.latched = false := by
  by_contra latched
  obtain ⟨_, ramp, _⟩ := h.ch_still (Bool.not_eq_false _ ▸ latched) c
  rw [ramp] at ramps
  cases ramps

theorem execRampEnd_dark (ch : Nat) : StaysDark (execRampEnd t ch s) := by
  refine .next ?_
  have dark := h.advance t
  split
  next r ramps =>
    have clear := dark.clear_of_ramp ramps
    split
    · exact State.releaseRamps_dark (dark.modCh ch fun set => by rw [clear] at set; cases set)
    · exact dark
  · exact dark

theorem execPowerLoop_dark (mpd : List Nat) : StaysDark (execPowerLoop t mpd s) := by
  have measured : ((s.advance t).modEmit fun e => { e with mpd := (List.range 4).map (fun m => mpdClamp (nth 0 mpd m)) }).core.Dark :=
    (h.advance t).same (State.modEmit_core _ _ rfl)
  exact .next (measured.foldl (List.range 4) fun _ m dark => State.loopRun_dark dark m _)

theorem execLoopClose_dark (ch : Nat) : StaysDark (execLoopClose t ch s) := by
  refine .next ?_
  have dark := h.advance t
  split
  next a closes =>
    split
    · refine dark.modCh ch fun set => ?_
      obtain ⟨_, _, _, _, closeAt, _⟩ := dark.ch_still set ch
      rw [closeAt] at closes
      cases closes
    · exact dark
  · exact dark

theorem execPowerClamp_dark (ch : Nat) : StaysDark (execPowerClamp t ch s) := by
  refine .next ?_
  have dark := h.advance t
  split
  · split
    · rw [State.emitter_core]
      exact dark.modCh ch fun _ _ still => still
    · exact dark
  · exact dark

theorem execPowerLost_dark (ch : Nat) : StaysDark (execPowerLost t ch s) := by
  refine .next ?_
  have dark := h.advance t
  split
  · split
    · rw [State.emitter_core]
      exact dark.modCh ch fun _ _ still => still
    · exact dark
  · exact dark

theorem execThermistorFault_dark : StaysDark (execThermistorFault t s) := by
  refine .next ?_
  split
  · exact State.pumpFail_dark (h.advance t)
  · exact h.advance t

theorem execPumpReturn_dark : StaysDark (execPumpReturn t s) := by
  refine .next ?_
  have dark := h.advance t
  split
  · split
    · exact State.rampSet_dark (by exact dark) _ true fun set => by simp [State.lit_latched set]
    · exact dark
  · exact dark

/-! Optical modules (R115 to R120, R506). -/

theorem execModuleRemoved_dark (pos : Nat) : StaysDark (execModuleRemoved t pos s) := by
  refine .next ?_
  have dark := h.advance t
  split
  · exact dark
  · split
    · exact dark.same (State.modModule_core ..)
    · exact State.moduleGone_dark (State.ilkFirst_dark dark) pos

theorem execModuleRecordRead_dark (pos : Nat) (one two : Option (List Byte)) :
    StaysDark (execModuleRecordRead t pos one two s) := by
  refine .next ?_
  have dark := h.advance t
  split
  · exact dark
  · split
    · exact State.moduleJudged_dark dark pos 1 []
    · exact State.moduleJudged_dark dark pos _ _

theorem execI2cSclTimeout_dark (bus : Nat) : StaysDark (execI2cSclTimeout t bus s) := by
  refine .next ?_
  split
  · exact State.moduleJudged_dark (h.advance t) _ 1 []
  · exact h.advance t

/-! Conversions (R406 to R419). -/

theorem execConversionResult_dark (code : Int) (chopFault : Bool) : StaysDark (execConversionResult t code chopFault s) := by
  refine .next ?_
  have dark := h.advance t
  split
  · exact dark
  next c _ =>
    have judged : ((s.advance t).chopperFault c).endConv.core.Dark := State.endConv_dark (dark.same (State.chopperFault_core ..))
    simp only [core_ite, State.convResult_core, State.chopperGood_core, dark_ite, judged, dark, ite_self]

theorem execConversionComplete_dark : StaysDark (execConversionComplete t s) := by
  refine .next ?_
  have dark := h.advance t
  split
  · exact dark.same (by simp only [core_ite, State.nextConv_core, ite_self])
  · split
    · exact State.endConv_dark dark
    · exact dark

theorem execInputFault_dark (kind : Nat) : StaysDark (execInputFault t kind s) := by
  refine .next ?_
  have dark := h.advance t
  split
  · exact dark
  · extract_lets brk volt w1 w2 w3
    have flagged : w3.core = (s.advance t).core := by simp [w3, w2, w1]
    split
    · exact dark
    · exact State.endConv_dark ((dark.same flagged).same (State.bump_core ..))

/-! Power (R454 to R461). -/

theorem execPwrFailQualified_dark (fallAt : Tick) (rise : Option Tick) : StaysDark (execPwrFailQualified t fallAt rise s) := by
  refine .next ?_
  have dark := h.advance t
  extract_lets w1 w2 m ran w3
  have aborted : w2.core.Dark := dark.same (by simp only [w2, w1, State.transAborted_core, State.modClk_core])
  have low : (w3.vigilEnter 2).core.Dark := State.vigilEnter_dark (aborted.same (State.modClk_core ..)) 2
  simp only [core_ite, dark_ite, dark, aborted, low, ite_self]

theorem execPwrAutoResume_dark : StaysDark (execPwrAutoResume t s) := by
  refine .next ?_
  split
  · split
    · exact h.advance t
    · exact State.transBegin_dark (h.advance t) _
  · exact h.advance t

theorem execPowerTransitionDone_dark (ok : Bool) : StaysDark (execPowerTransitionDone t ok s) := by
  refine .next ?_
  have dark := h.advance t
  split
  · exact dark
  · extract_lets up low left ended
    have lowered : low.core = (s.advance t).core := by simp [low]
    have stopped : ended.core = (s.advance t).core := State.runEnds_core _ _
    split
    · exact dark.same (State.transFailed_core ..)
    · split
      · exact (State.standbyEnter_dark dark).same (State.transReached_core ..)
      · split
        · have raised : ((left.modClk fun k => { k with mode := 2 }).loopsForMode).apdApply.core = (s.advance t).core := by
            simp only [left, State.apdApply_core, State.loopsForMode_core, State.modClk_core, State.standbyLeave_core, lowered]
          exact (State.riseAll_dark (dark.same raised)).same
            (by rw [State.transReached_core, State.refreshDark_core, State.convGo_core])
        · split
          · exact (State.wakeTo_dark dark _ _).same (State.transReached_core ..)
          · exact dark.same (by simp only [core_ite, State.transReached_core, State.refreshDark_core, State.modClk_core, stopped,
              ite_self])

theorem execMonitorSample_dark (m : MonSample) : StaysDark (execMonitorSample t m s) := by
  refine .next ?_
  have dark := h.advance t
  extract_lets w1 w2 w3 w4 hot
  have measured : w2.core = (s.advance t).core := by simp only [w2, w1, State.monGroup_core, State.modClk_core]
  have die : w3.core = w2.core := by
    simp only [w3]
    split
    · exact State.modRecv_core ..
    · rfl
  have processed : w4.core = w3.core := by simp only [w4, core_ite, State.modClk_core, State.monGroup_core, ite_self]
  have sampled : w4.core.Dark := ((dark.same measured).same die).same processed
  have tripped : (hot.foldl (fun (u : State) i => u.thermalTrip i) w4).core.Dark :=
    sampled.foldl hot fun _ i dark => State.thermalTrip_dark dark i
  simp only [core_ite, dark_ite, State.modClk_core, dark, sampled, tripped, ite_self]

/-! Messages (R36 to R65). -/

theorem execInProdWrite_dark (m : Nat) (v : Word) : StaysDark (execInProdWrite t m v s) := by
  refine .next ?_
  split
  · exact State.inProdWrite_dark (h.advance t) m v
  · exact h.advance t

theorem execRegisterWrite_dark (off : Nat) (v : Word) : StaysDark (execRegisterWrite t off v s) := by
  refine .next ?_
  split
  · exact State.regWrite_dark (h.advance t) off v
  · exact h.advance t

theorem execMgmtDatagram_dark (dst peer : Peer) (bytes : List Byte) : StaysDark (execMgmtDatagram t dst peer bytes s) := by
  refine .next ?_
  split
  · exact h.advance t
  · split
    · exact State.datagram_dark (h.advance t) _ peer bytes
    · exact h.advance t

theorem execSpiWriteMessage_dark (bytes : List Byte) : StaysDark (execSpiWriteMessage t bytes s) := by
  refine .next ?_
  have taken := State.takeOrWait_dark (h.advance t) 18 noPeer bytes
  simp only [core_ite, State.refusedMbox_core, State.flagMbox_core, State.protoError_core, dark_ite, taken, h.advance t, ite_self]

theorem execSessionCloseComplete_dark (session : Nat) : StaysDark (execSessionCloseComplete t session s) := by
  refine .next ?_
  have dark := h.advance t
  split
  · exact dark
  · split
    · split
      · exact dark
      · exact State.finished_dark (dark.same (by rw [State.final_core, State.modAtom_core])) _
    · exact dark

theorem execConfigMessage_dark : StaysDark (execConfigMessage t s) := by
  refine .next ?_
  have dark := h.advance t
  split
  · exact dark
  · split
    · exact State.bootOn_dark dark
    · exact State.bootOn_dark (State.configTake_dark (dark.same (State.modSys_core ..)) _)

/-! Resets and boots (R471 to R490). -/

theorem execPowerUp_dark (env : BootEnv) : StaysDark (execPowerUp t env s) := by
  refine .next ?_
  split
  · exact h.advance t
  · exact State.fullBoot_dark _ 1

omit h in
theorem execSupplyLoss_dark : StaysDark (execSupplyLoss t s) := .next State.reset_ilkDark

theorem execResetN_dark (ns : Nat) : StaysDark (execResetN t ns s) := by
  refine .next ?_
  have dark := h.advance t
  split
  · exact dark
  · split
    · exact State.fullBoot_dark _ 2
    · dsimp only
      split
      · exact State.fullBoot_dark _ 2
      · exact dark.same (State.tookFree_core _)

theorem execWatchdogExpiry_dark : StaysDark (execWatchdogExpiry t s) := by
  refine .next ?_
  split
  · exact State.stewardReset_dark _ 5
  · exact h.advance t

theorem execLockstepMismatch_dark : StaysDark (execLockstepMismatch t s) := by
  refine .next ?_
  split
  · exact State.stewardReset_dark _ 6
  · exact h.advance t

theorem execResetExecute_dark : StaysDark (execResetExecute t s) := by
  refine .next ?_
  split
  · split
    · exact h.advance t
    · split
      · exact State.warmStart_dark _ 3
      · exact State.fullBoot_dark _ 4
  · exact h.advance t

theorem execXaCheckRetry_dark (runs : Bool) : StaysDark (execXaCheckRetry t runs s) := by
  refine .next ?_
  have dark := h.advance t
  split
  · exact dark
  · exact State.bootOn_dark (State.boot_dark (dark.same (State.modSys_core ..)))

theorem execBootRetry_dark : StaysDark (execBootRetry t s) := by
  refine .next ?_
  have dark := h.advance t
  split
  · split
    · exact dark
    · exact State.bootOn_dark (State.boot_dark (dark.same (by rw [State.modSys_core, State.tookFree_core])))
  · exact dark

theorem execWarmBootTimeout_dark : StaysDark (execWarmBootTimeout t s) := by
  refine .next ?_
  split
  · split
    · exact State.fullBoot_dark _ 7
    · exact h.advance t
  · exact h.advance t

/-- Every command keeps a dark device dark: one that leaves the core alone does, and so does each of the others. -/
theorem exec_dark (c : Instr) : StaysDark (exec c s) := by
  by_cases whole : partOf c = .whole
  · obtain ⟨u, answered, same⟩ := exec_answers s c
    rw [whole] at same
    exact ⟨u, answered, (h.advance (instantOf c)).same same⟩
  cases c
  case setParam t q => exact .next (State.setParam_dark (h.advance t) q)
  case powerMode t q => exact .next (State.powerMode_dark (h.advance t) q)
  case ilkClear t q => exact .next (State.ilkClear_dark (h.advance t) q)
  case ilkNFall t low => exact .next (State.ilkFall_dark (h.advance t) low)
  case emitUpdate t => exact execEmitUpdate_dark h t
  case rampEnd t ch => exact execRampEnd_dark h t ch
  case powerLoop t mpd => exact execPowerLoop_dark h t mpd
  case loopClose t ch => exact execLoopClose_dark h t ch
  case powerClamp t ch => exact execPowerClamp_dark h t ch
  case powerLost t ch => exact execPowerLost_dark h t ch
  case thermistorFault t => exact execThermistorFault_dark h t
  case pumpReturn t => exact execPumpReturn_dark h t
  case moduleRemoved t pos => exact execModuleRemoved_dark h t pos
  case moduleRecordRead t pos one two => exact execModuleRecordRead_dark h t pos one two
  case i2cSclTimeout t bus => exact execI2cSclTimeout_dark h t bus
  case conversionResult t code chopFault => exact execConversionResult_dark h t code chopFault
  case conversionComplete t => exact execConversionComplete_dark h t
  case inputFault t kind => exact execInputFault_dark h t kind
  case pwrFailQualified t fallAt rise => exact execPwrFailQualified_dark h t fallAt rise
  case pwrAutoResume t => exact execPwrAutoResume_dark h t
  case powerTransitionDone t ok => exact execPowerTransitionDone_dark h t ok
  case monitorSample t m => exact execMonitorSample_dark h t m
  case inProdWrite t m v => exact execInProdWrite_dark h t m v
  case registerWrite t off v => exact execRegisterWrite_dark h t off v
  case mgmtDatagram t dst peer bytes => exact execMgmtDatagram_dark h t dst peer bytes
  case spiWriteMessage t bytes => exact execSpiWriteMessage_dark h t bytes
  case sessionCloseComplete t session => exact execSessionCloseComplete_dark h t session
  case configMessage t => exact execConfigMessage_dark h t
  case powerUp t env => exact execPowerUp_dark h t env
  case supplyLoss t => exact execSupplyLoss_dark t
  case resetN t ns => exact execResetN_dark h t ns
  case watchdogExpiry t => exact execWatchdogExpiry_dark h t
  case lockstepMismatch t => exact execLockstepMismatch_dark h t
  case resetExecute t => exact execResetExecute_dark h t
  case xaCheckRetry t runs => exact execXaCheckRetry_dark h t runs
  case bootRetry t => exact execBootRetry_dark h t
  case warmBootTimeout t => exact execWarmBootTimeout_dark h t
  all_goals exact absurd rfl whole

end

end Sys2Proof.Machine

namespace Sys2Proof
open Machine

/-- Settles O59: a step idles, or runs the command at the front of the queue, and every command keeps a dark device dark. -/
theorem interlockDarkKept : Obligations.InterlockDarkKept := by
  unfold Obligations.InterlockDarkKept
  intro s u dark ran
  unfold step at ran
  split at ran
  · cases ran
    exact dark
  next c rest _ =>
    obtain ⟨v, answered, kept⟩ := exec_dark (s := { s with pending := rest }) dark c
    obtain rfl : u = v := Host.Outcome.next.inj (ran.symm.trans answered)
    exact kept

end Sys2Proof
end

section
/-!
PROOFS. START, STOP and ILK_CLEAR past their gates (R89 to R98).
-/
namespace Sys2Proof.Machine

@[simp] theorem State.advance_ilk (s : State) (t : Tick) : (s.advance t).ilk = s.ilk := by
  obtain ⟨ps, h⟩ := s.advance_eq t
  rw [h]

@[simp] theorem State.advance_run (s : State) (t : Tick) : (s.advance t).run = s.run := by
  obtain ⟨ps, h⟩ := s.advance_eq t
  rw [h]

section
variable {s : State} {q : Req} (admitted : s.Admits q cOperate true) (host : q.mb ≠ 19)
include admitted host

/-- START past its checks (R89). -/
theorem State.start_admitted {w : State} (opened : (s.modMbox q.mb fun b => { b with inflight := q.tag :: b.inflight }) = w)
    (len : payLen q = 4) (zero : payU q 0 4 = 0) (startable : w.startState = false) :
    s.start q = (w.takes (reqId q 0x0010)).startWaits (some (reqId q 0x0010)) := by
  rw [State.start, State.gate_admits admitted, opened]
  simp [host, len, zero, startable]

/-- STOP past its checks turns on RUN_STATE (R91 to R93). -/
theorem State.stop_admitted {v : State}
    (taken : (s.modMbox q.mb fun b => { b with inflight := q.tag :: b.inflight }).takes (reqId q 0x0011) = v)
    (len : payLen q = 4) (mode : payU q 0 1 ≤ 1) (zero : payU q 1 3 = 0) :
    let u := v.modRun fun r => { r with stopReqs := r.stopReqs ++ [reqId q 0x0011] }
    (v.run.state = 0 → s.stop q = v.final (reqId q 0x0011) .ok (stopPayload v.run.lastShot v.run.lastEnd)) ∧
    (v.run.state = 3 → s.stop q = v.abortStart.final (reqId q 0x0011) .ok (stopPayload v.run.lastShot v.dev)) ∧
    (v.run.state = 2 → s.stop q = u) ∧
    (v.run.state = 1 → s.stop q =
      if payU q 0 1 = 1 ∨ u.allLaunched = true then u.endLaunches false else u.modRun fun r => { r with stopMode := some 0 }) := by
  intro u
  have operable : ¬ (q.mb == 19) = true := by simp [host]
  have wellFormed : ¬ (payLen q != 4 || decide (1 < payU q 0 1) || payU q 1 3 != 0) = true := by simp [len, mode, zero]
  rw [State.stop, State.gate_admits admitted, if_neg operable, if_neg wellFormed]
  simp only [taken]
  refine ⟨fun idle => by simp only [idle], fun waits => by simp only [waits], fun ends => by simp only [ends, u], fun runs => ?_⟩
  simp only [runs, Bool.or_eq_true, beq_iff_eq, u]

section
variable {w : State} (opened : (s.modMbox q.mb fun b => { b with inflight := q.tag :: b.inflight }) = w) (bare : payLen q = 0)
include opened bare

/-- ILK_CLEAR where the latch is clear has no effect (R97). -/
theorem State.ilkClear_clear (clear : s.ilk.latched = false) : s.ilkClear q = w.ok (reqId q 0x00E1) [] := by
  have clear' : w.ilk.latched = false := by rw [← opened]; exact clear
  rw [State.ilkClear, State.gate_admits admitted, opened]
  simp [host, bare, clear']

/-- ILK_CLEAR while ILK_N is high clears the latch, and the enabled channels rise (R97, R98). -/
theorem State.ilkClear_high {a : Tick} (latched : s.ilk.latched = true) (highAt : s.ilk.highAt = some a) (high : a ≤ s.now) :
    s.ilkClear q = ({ w with ilk := { w.ilk with latched := false } }).riseAll.ok (reqId q 0x00E1) [] := by
  subst opened
  rw [State.ilkClear, State.gate_admits admitted]
  simp [host, bare, latched, highAt, high]

/-- ILK_CLEAR while ILK_N is low answers STATE (R97). -/
theorem State.ilkClear_low (latched : s.ilk.latched = true) (low : ∀ a, s.ilk.highAt = some a → s.now < a) :
    s.ilkClear q = w.final (reqId q 0x00E1) .state [] := by
  subst opened
  rw [State.ilkClear, State.gate_admits admitted]
  cases highAt : s.ilk.highAt with
  | none => simp [host, bare, latched, highAt]
  | some a => simp [host, bare, latched, highAt, Nat.not_le.mpr (low a highAt)]

end

end

end Sys2Proof.Machine

namespace Sys2Proof
open Machine

/-- Settles O3: past the gate, START has one way, STOP turns on RUN_STATE, and ILK_CLEAR on the latch and ILK_N. -/
theorem runRequestsComplete : Obligations.RunRequestsComplete := by
  unfold Obligations.RunRequestsComplete
  refine ⟨?start, ?stop, ?clear⟩
  case start =>
    intro s t q admitted host len zero w startable
    exact congrArg Host.Outcome.next (State.start_admitted (admitted.advance t) host rfl len zero startable)
  case stop =>
    intro s t q admitted host len mode zero id v
    obtain ⟨idle, waits, ends, runs⟩ := State.stop_admitted (admitted.advance t) host (v := v) rfl len mode zero
    exact ⟨fun state => congrArg Host.Outcome.next (idle state), fun state => congrArg Host.Outcome.next (waits state),
      fun state => congrArg Host.Outcome.next (ends state), fun state => congrArg Host.Outcome.next (runs state)⟩
  case clear =>
    intro s t q admitted host bare w
    have passed := admitted.advance t
    refine ⟨fun clear => ?_, fun a latched highAt high => ?_, fun a latched highAt low => ?_, fun latched never => ?_⟩
    · exact congrArg Host.Outcome.next (State.ilkClear_clear passed host rfl bare (by simpa using clear))
    · exact congrArg Host.Outcome.next
        (State.ilkClear_high passed host rfl bare (by simpa using latched) (by simpa using highAt) (by simpa using high))
    · exact congrArg Host.Outcome.next
        (State.ilkClear_low passed host rfl bare (by simpa using latched) (by simpa [highAt] using low))
    · exact congrArg Host.Outcome.next
        (State.ilkClear_low passed host rfl bare (by simpa using latched) (by simp [never]))

end Sys2Proof
end

section
/-!
PROOFS. The latch clears in the completion of a SESSION_CLOSE: the ILK_CLEAR that waited behind it is taken there (R49, R97).
-/
namespace Sys2Proof.Machine

/-- A message that holds an ILK_CLEAR clears the latch where ILK_N is high, whichever command has it taken (R43, R97). -/
theorem State.takeMessage_clears {s : State} {mb : Nat} {peer : Peer} {bs : List Byte} {a : Tick}
    (whole : crcGood bs = true) (op : fld bs 0 2 = 0x00E1) (admitted : s.Admits (reqOf mb peer bs) cOperate true)
    (host : mb ≠ 19) (bare : payLen (reqOf mb peer bs) = 0) (latched : s.ilk.latched = true)
    (highAt : s.ilk.highAt = some a) (high : a ≤ s.now) : (s.takeMessage mb peer bs).ilk.latched = false := by
  have cleared : s.takeMessage mb peer bs = _ :=
    (if_pos whole).trans ((congrArg (fun n => s.dispatch n (reqOf mb peer bs)) op).trans
      (State.ilkClear_high admitted host rfl bare latched highAt high))
  rw [cleared]
  exact State.latched_of_base ((congrArg Core.base (State.ok_core ..)).trans (State.riseAll_base _))

/-- A SESSION_CLOSE with nothing left to send completes: it is answered, and its mailbox goes on (R49, R321). -/
theorem execSessionCloseComplete_finishes {s : State} {t : Tick} {n : Nat} {x : Session} {id : ReqId}
    (found : (s.advance t).session n = some x) (closing : x.closing = some id) (sent : (s.advance t).sessionQueued n = false) :
    execSessionCloseComplete t n s = .next
      ((((s.advance t).modAtom fun a => { a with sessions := a.sessions.filter (fun y => y.num != n) }).final id .ok []).finished
        id.mb) := by
  simp only [execSessionCloseComplete, found, closing, sent, Bool.false_eq_true, if_false]

/-- The one message that waited at a UDP or SPI mailbox is taken (R49). -/
theorem State.finished_one {s : State} {mb : Nat} {e : Peer × List Byte} (byte : 16 ≤ mb) (idle : s.unfinished mb = false)
    (waits : (s.mbox mb).later = [e]) :
    s.finished mb = (s.modMbox mb fun b => { b with later := [] }).takeMessage mb e.1 e.2 := by
  simp [State.finished, Nat.not_lt.mpr byte, waits, State.takeLater, idle]

/-- An ILK_CLEAR of tag 1 and no payload. -/
def ilkClearBytes : List Byte :=
  let head := leBytes 2 0x00E1 ++ leBytes 2 1 ++ leBytes 4 0 ++ leBytes 4 1
  head ++ leBytes 4 (crc32c head)

/-- A SESSION_CLOSE of the SPI mailbox. -/
def closeId : ReqId := { mb := 18, op := 0x0051, tag := 2, seq := 2, peer := noPeer }

/-- A session of that SESSION_CLOSE, with nothing left to send. -/
def closingSession : Session :=
  { num := 0, transport := 0, ports := 1, ring := 0, kindMask := 1, firstZone := 0, lastZone := 4095, rate := 0, dest := 0,
    destPort := 9, seq := 0, withheld := 0, tokens := 0, tokensAt := 0, resumed := false, lastFrame := 0,
    closing := some closeId, chanSet := [], events := [], eventsAt := 0,
    streams := [], objects := [] }

/-- A device in FULL with the latch set since its reset and ILK_N high. A SESSION_CLOSE of its SPI mailbox is still to complete,
and an ILK_CLEAR waits there behind it. -/
def closingDevice : State :=
  { State.reset with
    prot := { State.reset.prot with classes := List.replicate 19 15 }
    clk := { State.reset.clk with mode := 4 }
    sys := { powered := true, mbReady := true, bootStage := 14 }
    atom := { State.reset.atom with sessions := [closingSession] }
    mboxes := modAt (fun b => { b with inflight := [2], later := [(noPeer, ilkClearBytes)] }) State.reset.mboxes 18 }

/-- The device once its SESSION_CLOSE is answered. -/
def answeredDevice : State :=
  ((closingDevice.advance 0).modAtom fun x => { x with sessions := x.sessions.filter (fun y => y.num != 0) }).final closeId .ok []

/-- The device as the ILK_CLEAR is taken. -/
def closedDevice : State := answeredDevice.modMbox 18 fun b => { b with later := [] }

/-- The ILK_CLEAR passes its gate there. -/
theorem closedDevice_admits : closedDevice.Admits (reqOf 18 noPeer ilkClearBytes) cOperate true := by
  unfold State.Admits
  decide +kernel

/-- The completion of the SESSION_CLOSE takes the ILK_CLEAR. -/
theorem closingDevice_completes :
    exec (.sessionCloseComplete 0 0) closingDevice = .next (closedDevice.takeMessage 18 noPeer ilkClearBytes) := by
  have found : (closingDevice.advance 0).session 0 = some closingSession := by decide +kernel
  have sent : (closingDevice.advance 0).sessionQueued 0 = false := by decide +kernel
  have idle : answeredDevice.unfinished 18 = false := by decide +kernel
  have waits : (answeredDevice.mbox 18).later = [(noPeer, ilkClearBytes)] := by decide +kernel
  have finishes := execSessionCloseComplete_finishes found (id := closeId) rfl sent
  have takes : answeredDevice.finished 18 = closedDevice.takeMessage 18 noPeer ilkClearBytes :=
    State.finished_one (e := (noPeer, ilkClearBytes)) (by decide) idle waits
  exact finishes.trans (congrArg Host.Outcome.next takes)

/-- The latch is clear after it. -/
theorem closingDevice_clears : (closedDevice.takeMessage 18 noPeer ilkClearBytes).ilk.latched = false := by
  have whole : crcGood ilkClearBytes = true := by decide +kernel
  have op : fld ilkClearBytes 0 2 = 0x00E1 := by decide +kernel
  have bare : payLen (reqOf 18 noPeer ilkClearBytes) = 0 := by decide +kernel
  have latched : closedDevice.ilk.latched = true := by decide +kernel
  have highAt : closedDevice.ilk.highAt = some 0 := by decide +kernel
  exact State.takeMessage_clears whole op closedDevice_admits (by decide) bare latched highAt (Nat.zero_le _)

end Sys2Proof.Machine

namespace Sys2Proof
open Machine

/-- Refutes O58: SESSION_CLOSE_COMPLETE takes the messages that waited behind the SESSION_CLOSE (R49), so that an ILK_CLEAR among
them clears the latch in a command that runsIlkClear does not list. -/
theorem not_latchClearsOnlyWhileHigh : ¬ Obligations.LatchClearsOnlyWhileHigh := by
  unfold Obligations.LatchClearsOnlyWhileHigh
  rintro ⟨listed, -, -⟩
  obtain ⟨runs, -⟩ := listed closingDevice _ (.sessionCloseComplete 0 0) closingDevice_completes rfl closingDevice_clears
  exact Bool.false_ne_true runs

end Sys2Proof
end

section
/-!
PROOFS. ILK_N_FALL by its length (R94 to R96, R114).
-/
namespace Sys2Proof.Machine

/-- ILK_N falls: it is high again after the pulse, or not until further notice. -/
def State.ilkLow (s : State) (low : Option Nat) : State :=
  { s with ilk := { s.ilk with highAt := low.map (fun n => s.now + psT n) } }

/-- A fall of 2 ns or longer trips the interlock where its latch is clear (R95). -/
theorem State.ilkFall_long {s : State} {low : Option Nat} (long : ∀ n ∈ low, 2000 ≤ n) :
    s.ilkFall low = if s.ilk.latched = false then (s.ilkLow low).ilkTrip else s.ilkLow low := by
  cases low with
  | none => simp [State.ilkFall, State.ilkLow]
  | some n => simp [State.ilkFall, State.ilkLow, Nat.not_lt.mpr (long n rfl)]

/-- Whether a shorter fall trips it is a free value (R95). -/
theorem State.ilkFall_short {s : State} {n : Nat} (short : n < 2000) :
    s.ilkFall (some n) =
      if s.freeBit = true ∧ s.ilk.latched = false then (s.ilkLow (some n)).tookFree.ilkTrip else (s.ilkLow (some n)).tookFree := by
  simp [State.ilkFall, State.ilkLow, short]
  rfl

end Sys2Proof.Machine

namespace Sys2Proof
open Machine

/-- Settles O20: the length of the fall decides, and a trip darkens all six channels. -/
theorem interlockTripDarkens : Obligations.InterlockTripDarkens := by
  unfold Obligations.InterlockTripDarkens
  have long {s : State} {t : Tick} {low : Option Nat} (h : ∀ n ∈ low, 2000 ≤ n) (clear : s.ilk.latched = false) :
      exec (.ilkNFall t low) s = .next ((s.advance t).ilkLow low).ilkTrip :=
    congrArg Host.Outcome.next ((State.ilkFall_long h).trans (if_pos (by simpa using clear)))
  refine ⟨fun s t low h => ⟨long h, fun set => ?_⟩, fun s t n short => ?_, fun s t low h clear six => ?_⟩
  · exact congrArg Host.Outcome.next ((State.ilkFall_long h).trans (if_neg (by simp [set])))
  · intro w v
    rw [← State.advance_ilk s t]
    exact congrArg Host.Outcome.next (State.ilkFall_short short)
  · have fallen : ((s.advance t).ilkLow low).core = { s.core with now := max s.now t } := State.advance_core s t
    have six' : ((s.advance t).ilkLow low).emit.chans.length = 6 := (congrArg (fun c => c.chans.length) fallen).trans six
    have kept : ((s.advance t).ilkLow low).ilkTrip.core.kept = { s.core.kept with now := max s.now t } :=
      (State.ilkTrip_kept _).trans (congrArg Core.kept fallen)
    have latched := State.ilkTrip_latched ((s.advance t).ilkLow low)
    refine ⟨_, long h clear, latched, congrArg Kept.prot kept, congrArg Kept.pending kept, fun c _ => ?_⟩
    obtain ⟨code, ramp, waiting, closed, _⟩ := (State.ilkTrip_dark six').ch_still latched c
    exact ⟨code, ramp, waiting, closed⟩

end Sys2Proof
end

section
/-!
PROOFS. Answers, events and TIU edges leave the run alone (R38, R274, R373).
-/
namespace Sys2Proof.Machine

@[simp] theorem run_ite (p : Prop) [Decidable p] (a b : State) : (if p then a else b).run = if p then a.run else b.run := by
  split <;> rfl

section
variable (s : State)

@[simp] theorem State.hwMark_run (id : Nat) : (s.hwMark id).run = s.run := rfl

@[simp] theorem State.raise_run (v : Nat) : (s.raise v).run = s.run := rfl

@[simp] theorem State.refusedMbox_run (m : Nat) : (s.refusedMbox m).run = s.run := rfl

@[simp] theorem State.count_run (key n : Nat) : (s.count key n).run = s.run := by simp [State.count]

@[simp] theorem State.bump_run (key : Nat) : (s.bump key).run = s.run := State.count_run s key 1

@[simp] theorem State.perfEvent_run (ev x y n : Nat) : (s.perfEvent ev x y n).run = s.run := by simp [State.perfEvent]

@[simp] theorem State.deviceRecordAt_run (time kind sev valA valB firstCh : Nat) :
    (s.deviceRecordAt time kind sev valA valB firstCh).run = s.run := by simp [State.deviceRecordAt, State.deliver]

@[simp] theorem State.faultsLost_run (cons : Word) (n : Nat) : (s.faultsLost cons n).run = s.run := by
  simp [State.faultsLost]

@[simp] theorem State.logFault_run (time cls cause inst addr master outcome detail : Nat) :
    (s.logFault time cls cause inst addr master outcome detail).run = s.run := by
  unfold State.logFault
  extract_lets
  rw [State.faultsLost_run, State.modSys_run]

@[simp] theorem State.health_run (cause inst detail cls : Nat) : (s.health cause inst detail cls).run = s.run := by
  simp [State.health, State.healthFull, State.deviceRecord]

@[simp] theorem State.pump_run (m n : Nat) : (s.pump m n).run = s.run := by
  induction n generalizing s with
  | zero => rfl
  | succ n ih =>
    unfold State.pump
    extract_lets b room
    split
    · simp [ih]
    · split
      · rfl
      · simp [ih]

@[simp] theorem State.final_run (q : ReqId) (st : Status) (payload : List Byte) : (s.final q st payload).run = s.run := by
  simp [State.final, State.send, State.sendAs]

@[simp] theorem State.tiuTake_run : s.tiuTake.run = s.run := by
  unfold State.tiuTake
  split
  · rfl
  · split
    · simp [State.tiuEnd]
    · rfl

@[simp] theorem State.tiuStamped_run (source : Nat) (at_ : Tick) (pre : Option (TiuJob × Bool)) :
    (s.tiuStamped source at_ pre).run = s.run := by
  unfold State.tiuStamped
  extract_lets s1 last early s2 s3
  have counted : s1.run = s.run := by
    simp only [s1]
    split <;> rfl
  have stamped : s3.run = s.run := (State.perfEvent_run ..).trans counted
  have late : (s2.bump K.timeTiuOverrun).run = s.run := (State.bump_run ..).trans counted
  clear_value s3 s2
  rw [run_ite, run_ite, counted, late, ite_eq_left_iff, ite_eq_left_iff]
  intro _ _
  split <;> exact stamped

@[simp] theorem State.tiuEdge_run (source : Nat) (at_ : Tick) : (s.tiuEdge source at_).run = s.run := by
  simp [State.tiuEdge]

end

end Sys2Proof.Machine
end

section
/-!
PROOFS. Tone launches, crossings of the launch monitor and the ends of launch windows (R75 to R86, R133).
-/
namespace Sys2Proof.Machine

theorem State.modSlot_slot (s : State) (c d : Nat) (f : ToneSlot → ToneSlot) :
    (s.modSlot c f).slot d = if d = c ∧ c < s.run.slots.length then f (s.slot c) else s.slot d := nth_modAt _ _ _ _ _

/-- A launch ends no run where no STOP waits (R91). -/
theorem State.notStopping {u : State} (goes : u.run.stopMode = none) :
    (if u.run.stopMode.isSome && u.allLaunched then u.endLaunches false else u) = u := by
  rw [goes]
  rfl

/-! Crossings (R84, R85). -/

/-- What a crossing at offset o makes of a slot whose window it falls in. -/
def ToneSlot.crossed (o : Int) (x : ToneSlot) : ToneSlot :=
  match x.crossing with
  | none => { x with crossing := some o }
  | some _ => { x with extra := true }

/-- A crossing leaves a slot's launch alone. -/
theorem ToneSlot.crossed_launch (o : Int) (x : ToneSlot) :
    ∃ crossing extra, x.crossed o = { x with crossing := crossing, extra := extra } := by
  unfold ToneSlot.crossed
  split
  · exact ⟨_, _, rfl⟩
  · exact ⟨_, _, rfl⟩

/-- What the crossing of this instant makes of slot k. -/
def State.crossingAt (s : State) (k : Nat) (x : ToneSlot) : ToneSlot :=
  match s.windowLaunch k with
  | some (l, ps) => if inWindow ps l s.now then x.crossed (launchOffset ps l s.now) else x
  | none => x

theorem State.crossingAt_in {s : State} {k : Nat} {l : Tick} {ps : PSet} (launch : s.windowLaunch k = some (l, ps))
    (within : inWindow ps l s.now = true) (x : ToneSlot) : s.crossingAt k x = x.crossed (launchOffset ps l s.now) := by
  simp only [State.crossingAt, launch, within, if_true]

theorem State.crossingAt_out {s : State} {k : Nat}
    (outside : ∀ l ps, s.windowLaunch k = some (l, ps) → inWindow ps l s.now = false) (x : ToneSlot) :
    s.crossingAt k x = x := by
  unfold State.crossingAt
  split
  next l ps launch => simp only [outside l ps launch, Bool.false_eq_true, if_false]
  · rfl

/-- Two slots launch alike: they differ in what the monitor saw alone. -/
def ToneSlot.alike (x y : ToneSlot) : Prop :=
  x.launched = y.launched ∧ x.window = y.window ∧ x.launch = y.launch ∧ x.ps = y.ps

theorem ToneSlot.alike_refl (x : ToneSlot) : x.alike x := ⟨rfl, rfl, rfl, rfl⟩

theorem State.crossingAt_alike (s : State) (k : Nat) (x : ToneSlot) : (s.crossingAt k x).alike x := by
  unfold State.crossingAt
  split
  next l ps _ =>
    split
    · obtain ⟨_, _, same⟩ := x.crossed_launch (launchOffset ps l s.now)
      exact same ▸ ⟨rfl, rfl, rfl, rfl⟩
    · exact x.alike_refl
  · exact x.alike_refl

/-- Windows are judged by the launches alone: what the monitor saw changes none. -/
theorem State.windowLaunch_modSlot (s : State) (c k : Nat) {f : ToneSlot → ToneSlot} (same : ∀ x, (f x).alike x) :
    (s.modSlot c f).windowLaunch k = s.windowLaunch k := by
  have alike (d : Nat) : ((s.modSlot c f).slot d).alike (s.slot d) := by
    rw [State.modSlot_slot]
    split
    next here =>
      rw [here.1]
      exact same _
    · exact ⟨rfl, rfl, rfl, rfl⟩
  have launched (d : Nat) : ((s.modSlot c f).slot d).launched = (s.slot d).launched := (alike d).1
  have coming : (s.modSlot c f).comingLaunches = s.comingLaunches := by
    unfold State.comingLaunches
    simp only [launched]
    rfl
  obtain ⟨-, window, launch, ps⟩ := alike k
  simp only [State.windowLaunch, coming, window, launch, ps]

/-- The crossing of one slot leaves what it makes of the others. -/
theorem State.crossingAt_steady (s : State) (c d : Nat) : (s.modSlot c (s.crossingAt c)).crossingAt d = s.crossingAt d := by
  funext x
  have same := State.windowLaunch_modSlot s c d (s.crossingAt_alike c)
  by_cases outside : ∀ l ps, s.windowLaunch d = some (l, ps) → inWindow ps l s.now = false
  · exact (State.crossingAt_out (same ▸ outside) x).trans (State.crossingAt_out outside x).symm
  · push Not at outside
    obtain ⟨l, ps, launch, inside⟩ := outside
    have within : inWindow ps l s.now = true := Bool.eq_true_of_not_eq_false inside
    exact (State.crossingAt_in (same.trans launch) within x).trans (State.crossingAt_in launch within x).symm

/-- A pass over distinct slots, each updated by a function that the updates before it leave as it was. -/
theorem slots_pass (F : State → Nat → ToneSlot → ToneSlot) (steady : ∀ s c d, F (s.modSlot c (F s c)) d = F s d) (cs : List Nat)
    (distinct : cs.Nodup) (s : State) :
    (∃ l, cs.foldl (fun w c => w.modSlot c (F w c)) s = { s with run := { s.run with slots := l } } ∧
      l.length = s.run.slots.length) ∧
    ∀ d < s.run.slots.length,
      (cs.foldl (fun w c => w.modSlot c (F w c)) s).slot d = if d ∈ cs then F s d (s.slot d) else s.slot d := by
  induction cs generalizing s with
  | nil => exact ⟨⟨s.run.slots, rfl, rfl⟩, fun d _ => by simp⟩
  | cons c cs ih =>
    obtain ⟨fresh, rest⟩ := List.nodup_cons.mp distinct
    have length : (s.modSlot c (F s c)).run.slots.length = s.run.slots.length := modAt_length _ _ _
    obtain ⟨⟨l, same, kept⟩, each⟩ := ih rest (s.modSlot c (F s c))
    refine ⟨⟨l, same, kept.trans length⟩, fun d within => ?_⟩
    rw [List.foldl_cons, each d (length.symm ▸ within), steady, State.modSlot_slot]
    by_cases here : d = c
    · subst here
      simp [fresh, within]
    · simp [here]

theorem modAt_same {α : Type} (xs : List α) (i : Nat) : modAt (fun x => x) xs i = xs := by
  induction xs generalizing i with
  | nil => rfl
  | cons x xs ih => cases i <;> simp [modAt, ih]

theorem State.modSlot_same (s : State) (k : Nat) : (s.modSlot k fun x => x) = s := by
  rw [State.modSlot, modAt_same]

/-- The crossing's pass over the eight slots. -/
theorem execLaunchMonCrossing_pass (t : Tick) (s : State) :
    execLaunchMonCrossing t s = .next ((List.range 8).foldl (fun w k => w.modSlot k (w.crossingAt k))
      ((s.advance t).tiuEdge 8 (s.advance t).now)) := by
  unfold execLaunchMonCrossing
  refine congrArg Host.Outcome.next (congrArg (fun g => List.foldl g _ _) (funext fun w => funext fun k => ?_))
  split
  next l ps launch =>
    split
    next within => exact congrArg (w.modSlot k) (funext fun x => (State.crossingAt_in launch within x).symm)
    next outside =>
      have miss (x : ToneSlot) : w.crossingAt k x = x := State.crossingAt_out (by simp [launch, outside]) x
      rw [funext miss, State.modSlot_same]
  next none =>
    have miss (x : ToneSlot) : w.crossingAt k x = x := State.crossingAt_out (by simp [none]) x
    rw [funext miss, State.modSlot_same]

/-- The crossing's pass leaves everything but the slots, and each of the eight as the crossing makes it. -/
theorem crossing_pass (w : State) :
    (∃ l, (List.range 8).foldl (fun u k => u.modSlot k (u.crossingAt k)) w = { w with run := { w.run with slots := l } } ∧
      l.length = w.run.slots.length) ∧
    ∀ k < 8, k < w.run.slots.length →
      ((List.range 8).foldl (fun u k => u.modSlot k (u.crossingAt k)) w).slot k = w.crossingAt k (w.slot k) := by
  obtain ⟨frame, each⟩ := slots_pass State.crossingAt State.crossingAt_steady (List.range 8) List.nodup_range w
  refine ⟨frame, fun k eight within => (each k within).trans (if_pos (List.mem_range.mpr eight))⟩

end Sys2Proof.Machine

namespace Sys2Proof
open Machine

/-- Settles O19: each command's guard on the state w that time has passed to, and then its meaning. -/
theorem launchCommandsComplete : Obligations.LaunchCommandsComplete := by
  unfold Obligations.LaunchCommandsComplete
  refine ⟨?launch, ?crossing, ?ends⟩
  case launch =>
    intro s t slot pos w l placed running waiting before due goes disp job v
    have meaning : exec (.toneLaunch t slot) s = execToneLaunch t slot s := rfl
    have passed : s.advance t = w := rfl
    have turn : ((PS.tones w.running).take pos).all (fun k => (w.slot k).launched) = true := List.all_eq_true.mpr before
    have launches : ¬ (w.run.state != 1 || (w.slot slot).launched || !((PS.tones w.running).take pos).all (fun k => (w.slot k).launched) ||
        decide (w.now < w.launchAt pos)) = true := by
      simp only [running, waiting, turn]
      simpa using due
    have stays : w.run.stopMode = none := goes
    simp only [meaning, execToneLaunch, passed, placed, if_neg launches]
    refine ⟨fun displaced => ?_, fun driven => ?_⟩
    · have out : w.displaced slot w.run.shot = true := displaced
      simp only [out, if_true, v, job, disp]
      exact congrArg Host.Outcome.next (State.notStopping stays)
    · have out : w.displaced slot w.run.shot = false := driven
      simp only [out, Bool.false_eq_true, if_false, v, job, disp]
      refine congrArg Host.Outcome.next (State.notStopping ?_)
      simp only [State.tiuEdge_run, State.perfEvent_run, State.modRun_run, State.count_run]
      exact stays
  case crossing =>
    intro s t w
    obtain ⟨⟨slots, same, length⟩, each⟩ := crossing_pass w
    refine ⟨_, execLaunchMonCrossing_pass t s, ?frame, ?length, fun k eight within => ⟨fun l ps launch inside => ?_, fun outside => ?_⟩⟩
    case frame =>
      rw [same]
    case length =>
      rw [same]
      exact length
    · rw [each k eight within, State.crossingAt_in launch inside]
      rfl
    · rw [each k eight within, State.crossingAt_out outside]
  case ends =>
    intro s t slot w x n opened due v
    have meaning : exec (.launchWindowEnd t slot) s = execLaunchWindowEnd t slot s := rfl
    have passed : s.advance t = w := rfl
    have slotOf : w.slot slot = x := rfl
    have ended : ¬ (!x.window || decide (w.now < x.launch + psT (PS.g x.ps K.synthLaunchPathPs) +
        nsT (PS.g x.ps K.synthLaunchWindowNs))) = true := by
      simpa [opened] using due
    simp only [meaning, execLaunchWindowEnd, passed, slotOf, if_neg ended]
    refine ⟨fun o crossing alone => ?_, fun absent => ?_⟩
    · simp only [crossing, alone, beq_iff_eq, n, v]
    · rcases absent with none | twice
      · simp only [none, beq_iff_eq, Bool.and_eq_true, decide_eq_true_eq, Bool.not_eq_true', n, v]
      · cases crossing : x.crossing <;>
          simp only [twice, beq_iff_eq, Bool.and_eq_true, decide_eq_true_eq, Bool.not_eq_true', n, v]

end Sys2Proof
end

section
/-!
PROOFS. Raman launches, full accumulations and their ratios (R87, R88, R188 to R193).
-/
namespace Sys2Proof.Machine

/-- A launch leaves the records counted so far (R190). -/
theorem Therm.launched_records (h : Therm) (at_ : Option Tick) (ends : Tick) (measuring : Bool) :
    { h with lastLaunch := at_, recordEnd := ends, measuring := measuring }.records = h.records := rfl

/-- A step of the ratio stage: nothing but the thermometry and the free values consumed (R193). -/
def State.RatioStep (w u : State) : Prop :=
  u.therm.ready = w.therm.ready ∧ u = { w with therm := u.therm, fresh := u.fresh }

theorem State.RatioStep.refl (w : State) : w.RatioStep w := ⟨rfl, rfl⟩

theorem State.RatioStep.trans {w u v : State} (first : w.RatioStep u) (next : u.RatioStep v) : w.RatioStep v := by
  obtain ⟨ready, same⟩ := first
  obtain ⟨ready', same'⟩ := next
  refine ⟨ready'.trans ready, ?_⟩
  rw [same', same]

/-- Replacing the sections' results is a step of the ratio stage. -/
theorem State.RatioStep.sections (w : State) (n : Nat) (sections : List (Nat × Section)) :
    w.RatioStep ({ w with fresh := n }.modTherm fun h => { h with sections := sections }) := ⟨rfl, rfl⟩

theorem State.RatioStep.foldl {α : Type} {f : State → α → State} (step : ∀ (u : State) a, u.RatioStep (f u a)) (l : List α) (w : State) :
    w.RatioStep (l.foldl f w) := by
  induction l generalizing w with
  | nil => exact .refl w
  | cons a l ih => exact (step w a).trans (ih _)

/-- What the ratio stage makes of a full buffer: the buffer empty, and nothing but the thermometry and the free values changed. -/
def State.RatioDone (w u : State) : Prop := u.therm.ready = none ∧ u = { w with therm := u.therm, fresh := u.fresh }

theorem State.RatioDone.step {w u v : State} (done : w.RatioDone u) (next : u.RatioStep v) : w.RatioDone v := by
  obtain ⟨ready, same⟩ := done
  obtain ⟨ready', same'⟩ := next
  refine ⟨ready'.trans ready, ?_⟩
  rw [same', same]

theorem execRamanRatioDone_empties {s : State} {t : Tick} {acc : RamanAcc} (full : (s.advance t).therm.ready = some acc) :
    ∃ u, execRamanRatioDone t s = .next u ∧ (s.advance t).RatioDone u := by
  refine ⟨_, rfl, ?_⟩
  split
  next empty => exact absurd (full.symm.trans empty) (Option.some_ne_none acc)
  extract_lets ps first dk dark dA dS gA gS coilM lc lost w1 w overdue dc2 avg marked one
  have step (u : State) (sec : Nat) : u.RatioStep (one u sec) := by
    simp only [one]
    split
    · exact .sections u u.fresh _
    · split
      · exact .sections u (u.fresh + 4) _
      · exact .refl u
  have prepared : (s.advance t).RatioDone w := ⟨rfl, rfl⟩
  exact prepared.step (.foldl step _ _)

end Sys2Proof.Machine

namespace Sys2Proof
open Machine

/-- Settles O21: each command's guards on the state that time has passed to, and then its meaning. -/
theorem ramanCommandsComplete : Obligations.RamanCommandsComplete := by
  unfold Obligations.RamanCommandsComplete
  refine ⟨?launch, ?full, fun s t acc ready => execRamanRatioDone_empties ready⟩
  case launch =>
    intro s t rma rms w n cells width opened clear bench mode sections due idle after room v v' measuring
    have meaning : exec (.ramanLaunch t rma rms) s = execRamanLaunch t rma rms s := rfl
    have passed : (s.advance t).ramanTake = w := rfl
    have launches : ¬ (w.ilk.latched || w.bench || PS.g w.running K.synthRamanMode == 0 ||
        PS.g w.running K.thermSections == 0 || !w.ramanDue) = true := by
      have mode' : PS.g w.running K.synthRamanMode ≠ 0 := mode
      have sections' : PS.g w.running K.thermSections ≠ 0 := sections
      simp [clear, bench, mode', sections', due]
    have now : ¬ (w.run.state == 1) = true := by simpa using idle
    have measured : ¬ (!v'.measuring) = true := by simp [measuring]
    have counted : v'.therm.records = w.therm.records := Therm.launched_records _ _ _ _
    have rooms : ¬ 2 ^ PS.g w.running K.thermRamanAccLog2 ≤ v'.therm.records.getD 0 := by
      rw [counted]
      exact Nat.not_le.mpr room
    simp only [meaning, execRamanLaunch, passed, if_neg launches, if_neg now, if_neg (Nat.not_lt.mpr after)]
    exact congrArg Host.Outcome.next ((if_neg measured).trans (if_neg rooms))
  case full =>
    intro s t n w records full ended measuring
    have meaning : exec (.ramanAccumulationComplete t) s = execRamanAccumulationComplete t s := rfl
    have passed : (s.advance t).ramanTake = w := rfl
    have complete : ¬ (!decide (2 ^ w.p K.thermRamanAccLog2 ≤ n) || decide (w.now < w.therm.recordEnd)) = true := by
      simp [full, ended]
    have measured : ¬ (!w.measuring) = true := by simp [measuring]
    simp only [meaning, execRamanAccumulationComplete, passed, records, if_neg complete, if_neg measured]
    rfl

end Sys2Proof
end

section
/-!
PROOFS. EMIT_UPDATE is one pass over the six channels, each of which looks at itself alone; ramps that wait no longer start after it
(R100 to R102, R104 to R107, R109).
-/
namespace Sys2Proof.Machine

/-- What an update makes of a channel: its code by R100 to R109. -/
def State.codeUpdate (s : State) (c : Nat) (x : EmitCh) : EmitCh :=
  if s.forcedDark c then darkCh s.now x
  else match x.ramp with
    | some r => { x with code := s.capCode c (r.at s.now) }
    | none =>
      if x.waiting.isSome then { x with code := s.capCode c x.hold }
      else if !s.enabled c || !x.risen then { x with code := 0 }
      else if x.loopClosed then { x with code := min (rdiv x.integ 65536) (s.loopLimit c) }
      else { x with code := s.capCode c (s.setpoint c) }

theorem State.updateCode_eq (s : State) (c : Nat) : s.updateCode c = s.modCh c (s.codeUpdate c) := by
  unfold State.updateCode
  by_cases dark : s.forcedDark c = true
  · exact (if_pos dark).trans (congrArg (s.modCh c) (funext fun _ => (if_pos dark).symm))
  · exact (if_neg dark).trans (congrArg (s.modCh c) (funext fun _ => (if_neg dark).symm))

/-- The update of one channel does not look at the others. -/
theorem State.codeUpdate_withChans (s : State) (l : List EmitCh) : (s.withChans l).codeUpdate = s.codeUpdate := rfl

section
variable {s : State} {c : Nat} {x : EmitCh}

/-- A channel that may not carry current goes to 0 (R102, R114). -/
theorem State.codeUpdate_dark (dark : s.forcedDark c = true) : s.codeUpdate c x = darkCh s.now x := if_pos dark

section
variable (light : s.forcedDark c = false)
include light

/-- A ramp drives its value (R104). -/
theorem State.codeUpdate_ramp {r : Ramp} (ramp : x.ramp = some r) :
    s.codeUpdate c x = { x with code := s.capCode c (r.at s.now) } := by
  simp [State.codeUpdate, light, ramp]

section
variable (still : x.ramp = none)
include still

/-- A ramp that waits holds its code (R106). -/
theorem State.codeUpdate_waiting (waits : x.waiting.isSome = true) :
    s.codeUpdate c x = { x with code := s.capCode c x.hold } := by
  simp [State.codeUpdate, light, still, waits]

section
variable (free : x.waiting = none)
include free

/-- A channel that is disabled or has not risen drives 0 (R102, R105). -/
theorem State.codeUpdate_off (off : s.enabled c = false ∨ x.risen = false) : s.codeUpdate c x = { x with code := 0 } := by
  simp [State.codeUpdate, light, still, free, off]

variable (on : s.enabled c = true) (risen : x.risen = true)
include on risen

/-- A closed loop drives its integrator's code up to its limit (R107). -/
theorem State.codeUpdate_closed (closed : x.loopClosed = true) :
    s.codeUpdate c x = { x with code := min (rdiv x.integ 65536) (s.loopLimit c) } := by
  simp [State.codeUpdate, light, still, free, on, risen, closed]

/-- Without a loop a channel drives its capped setpoint (R100, R109). -/
theorem State.codeUpdate_open (opened : x.loopClosed = false) :
    s.codeUpdate c x = { x with code := s.capCode c (s.setpoint c) } := by
  simp [State.codeUpdate, light, still, free, on, risen, opened]

end

end

end

/-- An update starts no wait. -/
theorem State.codeUpdate_free (free : x.waiting = none) : (s.codeUpdate c x).waiting = none := by
  unfold State.codeUpdate
  split
  · rfl
  · split
    · exact free
    · split_ifs <;> exact free

end

/-- The pass over the six channels: each takes its own update, and nothing but the channels changes. -/
theorem updateCode_pass (w : State) :
    (∃ l, (List.range 6).foldl State.updateCode w = w.withChans l) ∧
    ((List.range 6).foldl State.updateCode w).emit.chans.length = w.emit.chans.length ∧
    ∀ c < 6, c < w.emit.chans.length → ((List.range 6).foldl State.updateCode w).ch c = w.codeUpdate c (w.ch c) := by
  have update : State.updateCode = fun u c => u.modCh c (u.codeUpdate c) := funext₂ State.updateCode_eq
  obtain ⟨frame, length, each⟩ := chans_pass State.codeUpdate State.codeUpdate_withChans (List.range 6) List.nodup_range w
  rw [update]
  exact ⟨frame, length, fun c six within => (each c within).trans (if_pos (List.mem_range.mpr six))⟩

/-- A channel that the device does not have is idle. -/
theorem State.ch_absent {s : State} {c : Nat} (absent : s.emit.chans.length ≤ c) : s.ch c = {} :=
  List.getD_eq_default _ _ absent

/-- After the pass a ramp waits only where one waited before. -/
theorem updateCode_pass_free {w : State} {c : Nat} (six : c < 6) (free : (w.ch c).waiting = none) :
    (((List.range 6).foldl State.updateCode w).ch c).waiting = none := by
  obtain ⟨_, length, each⟩ := updateCode_pass w
  by_cases within : c < w.emit.chans.length
  · rw [each c six within]
    exact State.codeUpdate_free free
  · rw [State.ch_absent (length.trans_le (Nat.le_of_not_lt within))]

/-- Where no ramp waits, none starts (R106). -/
theorem State.releaseRamps_none {s : State} (free : ∀ c < 6, (s.ch c).waiting = none) : s.releaseRamps = s := by
  refine List.foldlRecOn (motive := (· = s)) (List.range 6) _ rfl fun u same c listed => ?_
  subst same
  simp only [free c (List.mem_range.mp listed)]

end Sys2Proof.Machine

namespace Sys2Proof
open Machine

/-- Settles O22: u is the state after the pass over the channels, and each clause one branch of a channel's update. -/
theorem emitUpdateDrivesCodes : Obligations.EmitUpdateDrivesCodes := by
  unfold Obligations.EmitUpdateDrivesCodes
  intro s t w
  obtain ⟨⟨l, frame⟩, length, each⟩ := updateCode_pass w
  have ran : exec (.emitUpdate t) s = .next ((List.range 6).foldl State.updateCode w).releaseRamps := rfl
  refine ⟨(List.range 6).foldl State.updateCode w, ran, ?frame, length, fun free => ?idle, fun c six within => ?codes⟩
  case frame =>
    rw [frame]
    rfl
  case idle =>
    exact ran.trans (congrArg Host.Outcome.next (State.releaseRamps_none fun c six => updateCode_pass_free six (free c six)))
  case codes =>
    rw [each c six within]
    exact ⟨State.codeUpdate_dark, fun light r ramp => State.codeUpdate_ramp light ramp, fun light still =>
      ⟨State.codeUpdate_waiting light still, State.codeUpdate_off light still, fun free on risen =>
        ⟨State.codeUpdate_closed light still free on risen, State.codeUpdate_open light still free on risen⟩⟩⟩

end Sys2Proof
end

section
/-!
PROOFS. Ends of ramps, closings of loops, what the power loop tells and its pass over the four photodiodes, each where the guard of
its command passes (R104 to R108).
-/
namespace Sys2Proof.Machine

/-- A step of the power loop leaves the photodiodes' measurements alone. -/
@[simp] theorem State.loopRun_mpd (s : State) (m measured : Nat) : (s.loopRun m measured).emit.mpd = s.emit.mpd :=
  List.foldlRecOn (motive := fun u : State => u.emit.mpd = s.emit.mpd) _ _ rfl fun _ same _ _ => same

/-- The power loop runs photodiode by photodiode, each at its own measurement (R107). -/
theorem loopRun_pass {s : State} {a b c d : Nat} (measured : s.emit.mpd = [a, b, c, d]) :
    (List.range 4).foldl (fun u m => u.loopRun m (nth 0 u.emit.mpd m)) s =
      (((s.loopRun 0 a).loopRun 1 b).loopRun 2 c).loopRun 3 d := by
  simp [List.range_succ, measured, nth]

end Sys2Proof.Machine

namespace Sys2Proof
open Machine

/-- Settles O23: each command's guard on the state w that time has passed to, and then its meaning. -/
theorem rampAndLoopCommandsComplete : Obligations.RampAndLoopCommandsComplete := by
  unfold Obligations.RampAndLoopCommandsComplete
  refine ⟨?rampEnd, ?close, ?clamp, ?lost, ?loop⟩
  case rampEnd =>
    intro s t c r w ramp ended
    have meaning : exec (.rampEnd t c) s = execRampEnd t c s := rfl
    have passed : s.advance t = w := rfl
    simp only [meaning, execRampEnd, passed, ramp, if_pos ended]
  case close =>
    intro s t c a w closes due still lit mode
    have meaning : exec (.loopClose t c) s = execLoopClose t c s := rfl
    have passed : s.advance t = w := rfl
    simp [meaning, execLoopClose, passed, closes, due, still, lit, mode]
  case clamp =>
    intro s t c a w since due untold driven
    have meaning : exec (.powerClamp t c) s = execPowerClamp t c s := rfl
    have passed : s.advance t = w := rfl
    simp [meaning, execPowerClamp, passed, since, due, untold, driven]
  case lost =>
    intro s t c a w since due untold driven
    have meaning : exec (.powerLost t c) s = execPowerLost t c s := rfl
    have passed : s.advance t = w := rfl
    simp [meaning, execPowerLost, passed, since, due, untold, driven]
  case loop =>
    intro s t mpd w v
    have measured : v.emit.mpd = [mpdClamp (nth 0 mpd 0), mpdClamp (nth 0 mpd 1), mpdClamp (nth 0 mpd 2), mpdClamp (nth 0 mpd 3)] := rfl
    exact congrArg Host.Outcome.next (loopRun_pass measured)

end Sys2Proof
end

section
/-!
PROOFS. Pump thermistor, wavelength loop and APD bias, each where the guard of its command passes (R109 to R113, R126, R127).
-/
namespace Sys2Proof.Machine

/-- A pump thermistor that fails darkens both pumps and is told (R111). -/
theorem State.pumpFail_first {s : State} (good : s.emit.pumpFailed = false) :
    s.pumpFail = ((s.modEmit fun e => { e with pumpFailed := true, pumpGoodSince := none }).dark [2, 3]).emitter 11 0xFF 0 0 := by
  simp [State.pumpFail, good]

/-- When the bias was last set is no part of what it is set to (R126). -/
theorem State.apdApply_setAt (s : State) (a : Option Tick) :
    (s.modEmit fun e => { e with apdSetAt := a }).apdApply =
      s.modEmit fun e => { e with apdSetAt := a, apdBias := [s.apdWant 0, s.apdWant 1] } := rfl

/-- The duty that the wavelength loop draws lies within the record's bound (R112; assumption 4). -/
theorem duty_within (n top : Nat) :
    -(top : Int) ≤ ((n % (2 * top + 1) : Nat) : Int) - top ∧ ((n % (2 * top + 1) : Nat) : Int) - top ≤ top := by
  have below : n % (2 * top + 1) < 2 * top + 1 := Nat.mod_lt _ (Nat.succ_pos _)
  omega

/-- Three free values taken, with an update of the drive between them. -/
theorem State.tookThree (s : State) (f : Emit → Emit) :
    (s.tookFree.tookFree.modEmit f).tookFree = { s with emit := f s.emit, fresh := s.fresh + 3 } := rfl

end Sys2Proof.Machine

namespace Sys2Proof
open Machine

/-- Settles O24: each command's guard on the state w that time has passed to, and then its meaning; the wavelength loop draws its
duty and its integrator. -/
theorem thermistorAndBiasCommandsComplete : Obligations.ThermistorAndBiasCommandsComplete := by
  unfold Obligations.ThermistorAndBiasCommandsComplete
  refine ⟨?request, ?fault, ?recovers, ?loop, ?lock, ?bias, ?cut⟩
  case request =>
    intro s t w valid
    exact congrArg Host.Outcome.next (if_pos valid)
  case fault =>
    intro s t w valid runs good due
    have meaning : exec (.thermistorFault t) s = execThermistorFault t s := rfl
    have passed : s.advance t = w := rfl
    simp only [meaning, execThermistorFault, passed, valid, runs, good, due, Bool.not_false, Bool.and_self, decide_true, if_true,
      State.pumpFail_first good]
  case recovers =>
    intro s t a w since failed due recent v
    have meaning : exec (.pumpReturn t) s = execPumpReturn t s := rfl
    have passed : s.advance t = w := rfl
    simp only [meaning, execPumpReturn, passed, since, failed, due, recent, Bool.and_self, decide_true, if_true, v]
  case loop =>
    intro s t wla wlb w runs light r
    have meaning : exec (.wlLoop t wla wlb) s = execWlLoop t wla wlb s := rfl
    have passed : s.advance t = w := rfl
    obtain ⟨low, high⟩ := duty_within w.tookFree.freeNat (if w.modValid 0 then w.recF 0 44 2 else 0)
    refine ⟨_, sext 64 w.tookFree.tookFree.freeNat, low, high, ?_⟩
    have lit : ¬ (wla + wlb == 0) = true := by simpa using Nat.ne_of_gt light
    simp only [meaning, execWlLoop, passed, runs, Bool.not_true, Bool.false_eq_true, if_false, if_neg lit, State.tookThree]
    rfl
  case lock =>
    intro s t a w since due unlocked runs
    have meaning : exec (.wlLock t) s = execWlLock t s := rfl
    have passed : s.advance t = w := rfl
    simp [meaning, execWlLock, passed, since, due, unlocked, runs]
  case bias =>
    intro s t w due
    have meaning : exec (.apdBiasUpdate t) s = execApdBiasUpdate t s := rfl
    have passed : s.advance t = w := rfl
    simp only [meaning, execApdBiasUpdate, passed, State.apdApply_setAt]
    refine congrArg Host.Outcome.next (if_pos ?_)
    split
    next a set => exact decide_eq_true (due a set)
    next never => rfl
  case cut =>
    intro s t w runs uncut due
    have meaning : exec (.apdBiasCut t) s = execApdBiasCut t s := rfl
    have passed : s.advance t = w := rfl
    simp [meaning, execApdBiasCut, passed, runs, uncut, due]

end Sys2Proof
end

section
/-!
PROOFS. Optical modules drawn and inserted, their records read, and a bus that hangs (R115 to R121, R506).
-/
namespace Sys2Proof.Machine

/-- Without an ILK_N_FALL of this instant in the queue, nothing acts before a removal (R116). -/
theorem State.ilkFirst_none {s : State} (quiet : ∀ low, Instr.ilkNFall s.now low ∉ s.pending) : s.ilkFirst = s := by
  unfold State.ilkFirst
  split
  next low found =>
    obtain ⟨c, listed, hit⟩ := List.exists_of_findSome?_eq_some found
    split at hit
    next t other =>
      split at hit
      next same => exact absurd (beq_iff_eq.mp same ▸ listed) (quiet other)
      · cases hit
    · cases hit
  · rfl

end Sys2Proof.Machine

namespace Sys2Proof
open Machine

/-- Settles O25: each command turns on its module's presence and state, a read on the bytes that the bus returned. -/
theorem moduleCommandsComplete : Obligations.ModuleCommandsComplete := by
  unfold Obligations.ModuleCommandsComplete
  refine ⟨?removed, ?inserted, ?read, ?timeout⟩
  case removed =>
    intro s t pos w present
    have meaning : exec (.moduleRemoved t pos) s = execModuleRemoved t pos s := rfl
    have passed : s.advance t = w := rfl
    simp only [meaning, execModuleRemoved, passed, present, Bool.not_true, Bool.false_eq_true, if_false, beq_iff_eq]
    exact ⟨fun unread => congrArg Host.Outcome.next (if_pos unread), fun known => congrArg Host.Outcome.next (if_neg known),
      State.ilkFirst_none⟩
  case inserted =>
    intro s t pos w absent
    exact congrArg Host.Outcome.next (if_neg (Bool.eq_false_iff.mp absent))
  case read =>
    intro s t pos one two w reading
    have meaning : exec (.moduleRecordRead t pos one two) s = execModuleRecordRead t pos one two s := rfl
    have passed : s.advance t = w := rfl
    have awaited : ¬ ((w.modl pos).state != 1) = true := by simp [reading]
    simp only [meaning, execModuleRecordRead, passed, if_neg awaited]
    exact ⟨fun nack => by rw [nack], fun r found => by rw [found]⟩
  case timeout =>
    intro s t bus p w reading
    have meaning : exec (.i2cSclTimeout t bus) s = execI2cSclTimeout t bus s := rfl
    have passed : s.advance t = w := rfl
    simp only [meaning, execI2cSclTimeout, passed, reading]

end Sys2Proof
end

section
/-!
PROOFS. Requests of the display, the monitors, the performance counters and the modules past their gates (R117, R119, R432, R433, R437,
R462, R463, R467).
-/
namespace Sys2Proof.Machine

section
variable (s : State) (t : Tick)

@[simp] theorem State.advance_disp : (s.advance t).disp = s.disp := by
  obtain ⟨ps, h⟩ := s.advance_eq t
  rw [h]

@[simp] theorem State.advance_emit : (s.advance t).emit = s.emit := by
  obtain ⟨ps, h⟩ := s.advance_eq t
  rw [h]

variable (q : Req)

@[simp] theorem State.opened_disp : (s.opened t q).disp = s.disp := s.advance_disp t

@[simp] theorem State.opened_modl (pos : Nat) : (s.opened t q).modl pos = s.modl pos := by
  simp [State.modl, State.opened]

/-- The further grant of PERF_READ is left by the passing of time (R51). -/
theorem State.advance_perfGrant :
    ((s.advance t).prot.perfUser || (s.advance t).holds q.mb cMaintain) = (s.prot.perfUser || s.holds q.mb cMaintain) := by
  simp [State.holds]

end

end Sys2Proof.Machine

namespace Sys2Proof
open Machine

/-- Settles O13: past its gate each request turns on its payload alone, DISP_LAYER also on the outputs and the mode, and MODULE_READ on
the state of the record. -/
theorem displayAndMonitorRequestsComplete : Obligations.DisplayAndMonitorRequestsComplete := by
  unfold Obligations.DisplayAndMonitorRequestsComplete
  refine ⟨?layer, ?check, ?monitors, ?config, ?counters, ?record⟩
  case layer =>
    intro s t q admitted length output layer zero mode w fields image
    have opened := State.gate_opened admitted t 0x00B0
    have meaning : exec (.dispLayer t q) s = .next ((s.advance t).dispLayer q) := rfl
    rw [meaning, State.dispLayer, opened]
    refine congrArg Host.Outcome.next ((if_neg ?wellFormed).trans (if_neg ?shown))
    case wellFormed => simp [length, output, layer, zero, fields, w]
    case shown => simp [image, State.active, mode, w]
  case check =>
    intro s t q admitted length output rect zero clone area w n
    have opened := State.gate_opened admitted t 0x00B1
    have meaning : exec (.dispCheck t q) s = .next ((s.advance t).dispCheck q) := rfl
    rw [meaning, State.dispCheck, opened]
    refine congrArg Host.Outcome.next ((if_neg ?wellFormed).trans ?_)
    case wellFormed => simpa [length, output, rect, zero] using ⟨clone, area.resolve_left⟩
    rw [State.opened_disp]
  case monitors =>
    intro s t q admitted length chosen plain w gs r
    have opened := State.gate_opened admitted t 0x00C0
    have meaning : exec (.monRead t q) s = .next ((s.advance t).monRead q) := rfl
    have wellFormed : ¬ (payLen q != 4 || payU q 0 4 % 8 == 0 || payU q 0 4 / 8 % 2 ^ 28 != 0) = true := by
      rw [plain]; simp [length, chosen]
    rw [meaning, State.monRead, opened]
    exact congrArg Host.Outcome.next (if_neg wellFormed)
  case config =>
    intro s t q admitted length setting
    have opened := State.gate_opened admitted t 0x00D0
    have meaning : exec (.perfConfig t q) s = .next ((s.advance t).perfConfig q) := rfl
    rw [meaning, State.perfConfig, opened]
    exact congrArg Host.Outcome.next (if_neg (by simp [length, setting]))
  case counters =>
    intro s t q admitted length chosen clear zero w sel cleared
    have opened := State.gate_opened admitted t 0x00D1
    have meaning : exec (.perfRead t q) s = .next ((s.advance t).perfRead q) := rfl
    have wellFormed : ¬ (payLen q != 12 || payU q 0 8 == 0 || decide (1 < payU q 8 1) || payU q 9 3 != 0) = true := by
      simp [length, chosen, clear, zero]
    rw [meaning, State.perfRead, State.advance_perfGrant, opened]
    simp only [if_neg wellFormed, beq_iff_eq]
    rfl
  case record =>
    intro s t q p admitted length zero range position judged readable within
    have opened := State.gate_opened admitted t 0x00E0
    have meaning : exec (.moduleRead t q) s = .next ((s.advance t).moduleRead q) := rfl
    have wellFormed : ¬ (payLen q != 8 || payU q 6 2 != 0 || !inRange 1 4092 (payU q 4 2)) = true := by
      simp [length, zero, range]
    have cached : ¬ (decide ((s.modl p).state < 2) || (s.modl p).state == 3 && (s.modl p).reason == 1) = true := by
      simpa [Nat.not_lt.mpr judged] using readable
    simp only [meaning, State.moduleRead, opened, if_neg wellFormed, position, State.opened_modl, if_neg cached,
      if_neg (Nat.not_lt.mpr within)]

end Sys2Proof
end

section
/-!
PROOFS. CAL_REQUEST, CAL_STATUS and SELFTEST past their gates (R137, R138, R142 to R144).
-/
namespace Sys2Proof.Machine

section
variable (s : State) (t : Tick)

@[simp] theorem State.advance_recv : (s.advance t).recv = s.recv := by
  obtain ⟨ps, h⟩ := s.advance_eq t
  rw [h]

/-- What a mailbox holds is left by the passing of time (R67). -/
@[simp] theorem State.advance_holds (mb cls : Nat) : (s.advance t).holds mb cls = s.holds mb cls := by
  simp [State.holds]

variable (q : Req)

@[simp] theorem State.opened_recv : (s.opened t q).recv = s.recv := s.advance_recv t

@[simp] theorem State.opened_run : (s.opened t q).run = s.run := s.advance_run t

/-- What SELFTEST may need beside its class turns on its kind (R51, R143). -/
theorem State.selftest_grant (length : payLen q = 4) :
    (q.payload.isEmpty || payU q 0 1 != 1 || (s.advance t).holds q.mb cMaintain) =
      (payU q 0 1 != 1 || s.holds q.mb cMaintain) := by
  have filled : q.payload.isEmpty = false :=
    List.isEmpty_eq_false_iff.mpr (List.ne_nil_of_length_eq_add_one length)
  rw [filled, Bool.false_or, State.advance_holds]

end

end Sys2Proof.Machine

namespace Sys2Proof
open Machine

/-- Settles O5: past its gate CAL_REQUEST and CAL_STATUS turn on the run in progress; SELFTEST passes the checks of its kind. -/
theorem calibrationRequestsComplete : Obligations.CalibrationRequestsComplete := by
  unfold Obligations.CalibrationRequestsComplete
  refine ⟨?request, ?status, ?test⟩
  case request =>
    intro s t q admitted length scope zero w v allowed live
    have opened := State.gate_opened admitted t 0x0020
    have meaning : exec (.calRequest t q) s = .next ((s.advance t).calRequest q) := rfl
    have wellFormed : ¬ (payLen q != 4 || payU q 1 3 != 0 || decide (2 < payU q 0 1)) = true := by simp [length, scope, zero]
    have startable : ¬ (!w.calAllowed || w.bench) = true := by simp [allowed, live]
    rw [meaning, State.calRequest, opened]
    simp only [if_neg wellFormed]
    rw [if_neg startable]
    exact ⟨fun idle => by rw [idle], fun c running => by rw [running]; rfl⟩
  case status =>
    intro s t q admitted length w
    have opened := State.gate_opened admitted t 0x0021
    have meaning : exec (.calStatus t q) s = .next ((s.advance t).calStatus q) := rfl
    have bare : ¬ (payLen q != 0) = true := by simp [length]
    simp only [meaning, State.calStatus, opened, if_neg bare, State.opened_recv]
    exact ⟨fun idle => by rw [idle], fun c running => by rw [running]⟩
  case test =>
    intro s t q admitted length kind zero awake untested bench w v test
    have opened := State.gate_opened admitted t 0x0022
    have meaning : exec (.selftest t q) s = .next ((s.advance t).selftest q) := rfl
    rw [meaning, State.selftest, State.selftest_grant s t q length, opened]
    refine congrArg Host.Outcome.next ((if_neg ?wellFormed).trans ((if_neg ?stopped).trans ((if_neg ?powered).trans
      ((if_neg ?settled).trans (if_neg ?free)))))
    case wellFormed => simp [length, kind, zero]
    case stopped => simpa using fun isBench => (bench isBench).1
    case powered => simpa using awake
    case settled => simpa using fun isBench => (bench isBench).2
    case free => simp [untested]

end Sys2Proof
end

section
/-!
PROOFS. The pilot tracker and the automatic causes of a calibration, each where the guard of its command passes (R129 to R132, R136, R137).
-/
namespace Sys2Proof.Machine

/-- New corrections that no boundary has to wait for are in effect at once (R131). -/
theorem State.corrEffect_new (s : State) (c : List RxCorr × (Int × Int)) :
    (s.modRecv fun r => { r with corrNext := some c }).corrEffect =
      s.modRecv fun r => { r with corr := { r.corr with rx := c.1, tx := c.2 }, corrNext := none } := rfl

end Sys2Proof.Machine

namespace Sys2Proof
open Machine

/-- Settles O26: the tracker turns on whether it holds, how far its estimates lie and whether shots launch; the other commands on
their guards alone. (That the tracker and a die temperature act in MAINTAIN and FULL alone are logs 104 and 17.) -/
theorem trackerAndCauseCommandsComplete : Obligations.TrackerAndCauseCommandsComplete := by
  unfold Obligations.TrackerAndCauseCommandsComplete
  refine ⟨?tracker, ?lost, ?temperature, ?retry⟩
  case tracker =>
    intro s t rx tx found w pilots powered v far cs
    have tracks : ¬ (!w.rxPilotsOn || decide (w.clk.mode < 3)) = true := by simp [pilots, powered]
    have tracked : exec (.trackerUpdate t rx tx found) s = .next (
        if w.recv.trackHeld = true then v
        else if far = true then (v.modRecv fun r => { r with trackHeld := true, corrNext := none }).calCause 5
        else if w.shots = true then v.modRecv fun r => { r with corrNext := some cs }
        else (v.modRecv fun r => { r with corrNext := some cs }).corrEffect) :=
      congrArg Host.Outcome.next (if_neg tracks)
    rw [tracked]
    refine ⟨fun held => ?_, fun follows beyond => ?_, fun follows near launches => ?_, fun follows near quiet => ?_⟩
    · rw [if_pos held]
    · rw [if_neg (Bool.eq_false_iff.mp follows), if_pos beyond]
    · rw [if_neg (Bool.eq_false_iff.mp follows), if_neg (Bool.eq_false_iff.mp near), if_pos launches]
    · rw [if_neg (Bool.eq_false_iff.mp follows), if_neg (Bool.eq_false_iff.mp near), if_neg (Bool.eq_false_iff.mp quiet),
        State.corrEffect_new]
  case lost =>
    intro s t b a w missed due untold pilots powered
    have meaning : exec (.pilotLost t b) s = execPilotLost t b s := rfl
    have passed : s.advance t = w := rfl
    simp only [meaning, execPilotLost, passed, missed, due, untold, pilots, powered, Bool.not_false, Bool.and_self, decide_true,
      if_true]
  case temperature =>
    intro s t temp v far
    have judged : exec (.calTempCheck t temp) s = .next (if (far && decide (3 ≤ v.clk.mode)) = true then v.calCause 4 else v) := rfl
    rw [judged]
    refine ⟨fun beyond powered => ?_, fun stays => ?_⟩
    · rw [if_pos (by simp [beyond, powered])]
    · refine congrArg Host.Outcome.next (if_neg ?_)
      rcases stays with near | low
      · simp [near]
      · simp [low]
  case retry =>
    intro s t a w pending due
    have meaning : exec (.calRetry t) s = execCalRetry t s := rfl
    have passed : s.advance t = w := rfl
    simp only [meaning, execCalRetry, passed, pending, if_pos due]

end Sys2Proof
end

section
/-!
PROOFS. Steps and ends of calibration runs and self-tests, each where the guard of its command passes (R133 to R135, R139, R142, R143).
-/
namespace Sys2Proof
open Machine

/-- Settles O27: a step runs at its span, or paced where none is placed; each end is the guard of its command and then its meaning. -/
theorem calibrationStepsComplete : Obligations.CalibrationStepsComplete := by
  unfold Obligations.CalibrationStepsComplete
  refine ⟨?step, ?runEnd, ?timeout, ?test, ?testEnd⟩
  case step =>
    intro s t level c w running fail step
    have meaning : exec (.calStep t level) s = execCalStep t level s := rfl
    have passed : s.advance t = w := rfl
    simp only [meaning, execCalStep, passed, running]
    refine ⟨fun x rest placed due => ?_, fun unplaced still quiet left due => ?_⟩
    · rw [placed]
      simp only [if_pos due, beq_iff_eq, step, fail]
    · rw [unplaced]
      simp only [still, quiet, left, due, Bool.not_false, Bool.and_self, decide_true, if_true, beq_iff_eq, step, fail]
  case runEnd =>
    intro s t resid c w running done arrived
    have meaning : exec (.calRunEnd t resid) s = execCalRunEnd t resid s := rfl
    have passed : s.advance t = w := rfl
    simp only [meaning, execCalRunEnd, passed, running, done, arrived, Bool.and_self, decide_true, if_true]
  case timeout =>
    intro s t c a w running last done missing due
    have meaning : exec (.refdivTimeout t) s = execRefdivTimeout t s := rfl
    have passed : s.advance t = w := rfl
    simp only [meaning, execRefdivTimeout, passed, running, last, done, missing, due, Option.isNone_none, Bool.and_self,
      decide_true, if_true]
  case test =>
    intro s t m x item left rest w running items step
    have meaning : exec (.blotterStep t m) s = execBlotterStep t m s := rfl
    have passed : s.advance t = w := rfl
    simp only [meaning, execBlotterStep, passed, running, items]
    refine ⟨fun p more placed due => ?_, fun unplaced still quiet due => ?_⟩
    · rw [placed]
      -- the first failure stays: the step turns on whether there is one
      cases x.failed with
      | none => simp only [if_pos due, beq_iff_eq, decide_eq_true_eq, step]
      | some f => simp only [if_pos due, beq_iff_eq, decide_eq_true_eq, step]
    · rw [unplaced]
      have paced : (!w.shots && w.gatesQuiet && decide (x.paced + usT 50 ≤ w.now)) = true := by simp [still, quiet, due]
      cases x.failed with
      | none => simp only [if_pos paced, beq_iff_eq, decide_eq_true_eq, step]
      | some f => simp only [if_pos paced, beq_iff_eq, decide_eq_true_eq, step]
  case testEnd =>
    intro s t x w running ended
    have meaning : exec (.selftestEnd t) s = execSelftestEnd t s := rfl
    have passed : s.advance t = w := rfl
    simp only [meaning, execSelftestEnd, passed, running, ended, List.isEmpty_nil, if_true]

end Sys2Proof
end

section
/-!
PROOFS. A block of a shot in the pulse-compression engine (R125, R128, R150 to R169).
-/
namespace Sys2Proof
open Machine

/-- Settles O28: the slot's oldest shot and whether its next block is due decide whether a block is processed; what a processed block
does is State.pceBlock, which the statement writes out step by step. -/
theorem pceBlockCompletes : Obligations.PceBlockCompletes := by
  unfold Obligations.PceBlockCompletes
  intro s t slot start codes w
  have meaning : exec (.pceBlockProcessed t slot start codes) s = execPceBlockProcessed t slot start codes s := rfl
  have taken : (s.advance t).takeCodes start codes = w := rfl
  simp only [meaning, execPceBlockProcessed, taken]
  refine ⟨fun idle => ?idle, fun j js oldest waits => ?waits, fun j js oldest due => ?block⟩
  case idle => rw [idle]
  case waits =>
    rw [oldest]
    exact congrArg Host.Outcome.next (if_neg (Bool.eq_false_iff.mp waits))
  case block =>
    rw [oldest]
    exact congrArg Host.Outcome.next (if_pos due)

end Sys2Proof
end

section
/-!
PROOFS. ZONE_LOAD and ZONE_READ past their gates (R185, R256 to R258, R260).
-/
namespace Sys2Proof
open Machine

/-- Settles O9: past the gate ZONE_LOAD turns on the first descriptor that fails, and ZONE_READ has one way. -/
theorem zoneRequestsComplete : Obligations.ZoneRequestsComplete := by
  unfold Obligations.ZoneRequestsComplete
  refine ⟨?load, ?read⟩
  case load =>
    intro s t q admitted some63 most63 length within w ds
    have opened := State.gate_opened admitted t 0x0060
    have meaning : exec (.zoneLoad t q) s = .next ((s.advance t).zoneLoad q) := rfl
    have wellFormed : ¬ (payU q 2 2 == 0 || decide (63 < payU q 2 2) || payLen q != 4 + 64 * payU q 2 2) = true := by
      simp [length]; omega
    simp only [meaning, State.zoneLoad, opened, if_neg wellFormed, if_neg (Nat.not_lt.mpr within)]
    refine ⟨fun i failing => ?failing, fun passing room => ?passing⟩
    case failing => rw [failing]
    case passing =>
      rw [passing]
      exact congrArg Host.Outcome.next (if_neg (Bool.eq_false_iff.mp room))
  case read =>
    intro s t q admitted length some63 most63 source zero within w
    have opened := State.gate_opened admitted t 0x0061
    have meaning : exec (.zoneRead t q) s = .next ((s.advance t).zoneRead q) := rfl
    rw [meaning, State.zoneRead, opened]
    refine congrArg Host.Outcome.next (if_neg ?wellFormed)
    simp [length, zero]; omega

end Sys2Proof
end

section
/-!
PROOFS. Stitch evaluations, profiles, rows, tile closes, tile reads and the ends of bank fades, each where the guard of its command
passes (R181 to R183, R212 to R216, R227, R269).
-/
namespace Sys2Proof
open Machine

/-- Settles O29: each command's guards on the state w that time has passed to, and then its meaning. (That a row whose next slot is
kept waits in the elastic buffer is log 120.) -/
theorem tileAndProfileCommandsComplete : Obligations.TileAndProfileCommandsComplete := by
  unfold Obligations.TileAndProfileCommandsComplete
  refine ⟨?stitch, ?profile, ?row, ?close, ?read, ?fade⟩
  case stitch =>
    intro s t w due
    have meaning : exec (.stitchEvaluation t) s = .next w.stitchEval := rfl
    rw [meaning, State.stitchEval]
    refine ⟨fun unreached => ?unreached, fun ivl bins time reached => ⟨fun noZone => ?noZone, fun zones => ?zones⟩⟩
    case unreached => rw [unreached]
    case noZone =>
      rw [reached]
      exact congrArg Host.Outcome.next (if_pos (List.isEmpty_iff.mpr noZone))
    case zones =>
      rw [reached]
      exact congrArg Host.Outcome.next (if_neg (mt List.isEmpty_iff.mp zones))
  case profile =>
    intro s t time p rest w ready
    have meaning : exec (.amplitudeProfileComplete t) s = .next w.profileNext := rfl
    rw [meaning, State.profileNext, ready]
  case row =>
    intro s t r rest w waiting ring up v u
    have allowed : ¬ (PS.freshSlots w.running == 0 || !w.active) = true := by simp [ring, State.active, up]
    have meaning : exec (.rowWrite t) s = execRowWrite t s := rfl
    have passed : s.advance t = w := rfl
    have moved : exec (.rowWrite t) s = .next (
        if !v.sill.openTiles.any (fun y => y.takes r) && !v.slotFree v.nextFresh then v
        else (if v.sill.openTiles.any (fun y => y.takes r) then u else u.openTile r).putRow r) := by
      simp only [meaning, execRowWrite, passed, waiting, if_neg allowed]
      rfl
    rw [moved]
    refine ⟨fun taken => ?taken, fun untaken free => ?opens, fun untaken kept => ?waits⟩
    case taken => simp [taken]
    case opens => simp [untaken, free]
    case waits => simp [untaken, kept]
  case close =>
    intro s t group y w due
    have meaning : exec (.tileClose t group) s = execTileClose t group s := rfl
    have passed : s.advance t = w := rfl
    simp only [meaning, execTileClose, passed, due]
  case read =>
    intro s t engine p q y w job empty known runs unread r delivered
    have meaning : exec (.tileRead t engine) s = execTileRead t engine s := rfl
    have passed : s.advance t = w := rfl
    have ready : ¬ ((w.eng engine).buffer.isSome || decide (engine ≥ 2) || !w.domainRuns 6) = true := by
      simp [empty, runs, known]
    simp only [meaning, execTileRead, passed, job, if_neg ready, unread, delivered]
  case fade =>
    intro s t w fading done v
    have ended : ¬ (!w.sill.bankFading || !w.banksDone) = true := by simp [fading, done]
    exact congrArg Host.Outcome.next (if_neg ended)

end Sys2Proof
end

section
/-!
PROOFS. Accord updates and frames, hold-offs and readings of the reference coil, each where the guard of its command passes (R195, R196,
R201, R204 to R206, R261, R266 to R268).
-/
namespace Sys2Proof
open Machine

/-- Settles O38: each command's guards on the state w that time has passed to, and then its meaning; a frame also turns on the mode. -/
theorem thermalAndZoneCommandsComplete : Obligations.ThermalAndZoneCommandsComplete := by
  unfold Obligations.ThermalAndZoneCommandsComplete
  refine ⟨?update, ?frame, ?holdoff, ?coil, ?coilHold⟩
  case update =>
    intro s t w S sections powered later
    have due : ¬ (PS.g w.running K.thermSections == 0 || decide (w.clk.mode < 2) || decide (S ≤ w.therm.accordFrom)) = true := by
      simp [sections, Nat.not_lt.mpr powered, Nat.not_le.mpr later]
    exact congrArg Host.Outcome.next (if_neg due)
  case frame =>
    intro s t w v pending
    have waits : ¬ (!w.therm.framePending) = true := by simp [pending]
    refine ⟨fun standby => ?standby, fun active => ?active⟩
    case standby =>
      have silent : (!v.active) = true := by simp [standby]
      exact congrArg Host.Outcome.next ((if_neg waits).trans (if_pos silent))
    case active =>
      have sent : ¬ (!v.active) = true := by simp [active]
      exact congrArg Host.Outcome.next ((if_neg waits).trans (if_neg sent))
  case holdoff =>
    intro s t zone crit d w loaded known ended
    have meaning : exec (.holdoffExpired t zone crit) s = execHoldoffExpired t zone crit s := rfl
    have passed : s.advance t = w := rfl
    simp only [meaning, execHoldoffExpired, passed, loaded, known, ended, decide_true, Bool.and_self, if_true]
  case coil =>
    intro s t w spaced idle valid sensors runs
    have meaning : exec (.coilRead t) s = execCoilRead t s := rfl
    have passed : s.advance t = w := rfl
    simp only [meaning, execCoilRead, passed]
    refine congrArg Host.Outcome.next (if_neg ?_)
    -- the spacing from the last reading, or there was none
    cases last : w.therm.coilReadAt with
    | none => simp [idle, valid, sensors, runs]
    | some a => simp [spaced a last, idle, valid, sensors, runs]
  case coilHold =>
    intro s t a w out untold due powered
    have meaning : exec (.coilHoldExpired t) s = execCoilHoldExpired t s := rfl
    have passed : s.advance t = w := rfl
    simp only [meaning, execCoilHoldExpired, passed, out, untold, due, powered, Bool.not_false, Bool.and_self, decide_true, if_true]

end Sys2Proof
end

section
/-!
PROOFS. Base records, tile DMA, output DMA and class records, each where the guard of its command passes (R221, R229 to R231, R242 to
R245, R247, R252, R253).
-/
namespace Sys2Proof
open Machine

/-- Settles O30: each command's guards on the state that time has passed to, and then its meaning; the tile DMA turns on whether the
header is in its slot already, the output DMA on the data's end and the descriptor's kind. -/
theorem sliceDataCommandsComplete : Obligations.SliceDataCommandsComplete := by
  unfold Obligations.SliceDataCommandsComplete
  refine ⟨?base, ?tile, ?output, ?record⟩
  case base =>
    intro s t set b ivl rest w home known due powered runs v write
    have meaning : exec (.baseRecordsDelivered t set) s = execBaseRecordsDelivered t set s := rfl
    have passed : s.advance t = w := rfl
    have atHome : PS.homeSlice w.running set = home := rfl
    have delivers : ¬ (!w.active || !(w.slc home).bandRuns) = true := by simp [powered, runs]
    simp only [meaning, execBaseRecordsDelivered, passed, atHome, known, due]
    exact congrArg Host.Outcome.next (if_neg delivers)
  case tile =>
    intro s t sl k im y w x unfinished loaded running oldest used
    have meaning : exec (.tileDma t sl) s = execTileDma t sl s := rfl
    have passed : (s.advance t).woken [5, 6] = w := rfl
    have tiles : w.slc sl = x := rfl
    have runs : ¬ (x.status != 2) = true := by simp [running]
    simp only [meaning, execTileDma, passed, tiles, unfinished, loaded, oldest]
    refine ⟨fun ready => ?columns, fun r waits header room => ?header⟩
    case columns => exact congrArg Host.Outcome.next ((if_neg runs).trans (if_pos ready))
    case header =>
      rw [header]
      exact congrArg Host.Outcome.next
        ((if_neg runs).trans ((if_neg (Bool.eq_false_iff.mp waits)).trans (if_neg (Nat.not_le.mpr room))))
  case output =>
    intro s t sl d rest w queued running addr count ch len v data
    have runs : ¬ ((w.slc sl).status != 2) = true := by simp [running]
    have meaning : exec (.outputDmaComplete t sl) s = execOutputDmaComplete t sl s := rfl
    have passed : s.advance t = w := rfl
    simp only [meaning, execOutputDmaComplete, passed, queued]
    subst data len
    -- the length, the followers' copies and the meaning all turn on the kind
    generalize fld d.bytes 6 1 = kind
    refine ⟨fun past => ?past, fun within column => ?column, fun within records => ?records, fun within message => ?message⟩
    case past => exact congrArg Host.Outcome.next ((if_neg runs).trans (if_pos past))
    case column =>
      subst column
      exact congrArg Host.Outcome.next ((if_neg runs).trans (if_neg (Nat.not_lt.mpr within)))
    case records =>
      subst records
      exact congrArg Host.Outcome.next ((if_neg runs).trans (if_neg (Nat.not_lt.mpr within)))
    case message =>
      obtain ⟨n, rfl⟩ := Nat.exists_eq_add_of_le' message
      exact congrArg Host.Outcome.next ((if_neg runs).trans (if_neg (Nat.not_lt.mpr within)))
  case record =>
    intro s t k x d rest w found queued
    have meaning : exec (.classRecordMade t) s = execClassRecordMade t s := rfl
    have passed : s.advance t = w := rfl
    simp only [meaning, execClassRecordMade, passed, found, queued]

end Sys2Proof
end

section
/-!
PROOFS. An issued slice instruction: the word at the program counter, and where the slice stands when it goes on, takes a branch or
faults (R233, R239, R252).
-/
namespace Sys2Proof.Machine

/-! The passing of time leaves the array alone. -/

section
variable (s : State) (t : Tick)

@[simp] theorem State.advance_slc (i : Nat) : (s.advance t).slc i = s.slc i := by
  obtain ⟨ps, h⟩ := s.advance_eq t
  rw [h]
  rfl

@[simp] theorem State.advance_domainRuns (d : Nat) : (s.advance t).domainRuns d = s.domainRuns d := by
  obtain ⟨ps, h⟩ := s.advance_eq t
  rw [h]
  rfl

end

/-! Where a slice stands: what decides which instruction it issues next. -/

/-- Its status, its program counter and its image. -/
def Slice.standing (x : Slice) : Nat × Nat × Option Image := (x.status, x.pc, x.image)

section
variable {x y : Slice}

theorem Slice.status_of_standing (h : y.standing = x.standing) : y.status = x.status := congrArg Prod.fst h

theorem Slice.pc_of_standing (h : y.standing = x.standing) : y.pc = x.pc := congrArg (·.2.1) h

theorem Slice.codeLen_of_standing (h : y.standing = x.standing) : y.codeLen = x.codeLen :=
  Slice.codeLen_of_image (congrArg (·.2.2) h)

end

section
variable (x : Slice)

@[simp] theorem Slice.setG_standing (r : Nat) (v : Word) : (x.setG r v).standing = x.standing := by
  unfold Slice.setG
  split <;> rfl

@[simp] theorem Slice.setAcc_standing (a : Nat) (v : Acc80) : (x.setAcc a v).standing = x.standing := rfl

@[simp] theorem Slice.setWord_standing (a : Nat) (v : Word) : (x.setWord a v).standing = x.standing := rfl

@[simp] theorem Slice.setHalf_standing (a v : Nat) : (x.setHalf a v).standing = x.standing := rfl

@[simp] theorem Slice.setSpr_standing (n free : Nat) (v : Word) : (x.setSpr n free v).standing = x.standing := by
  unfold Slice.setSpr
  repeat' split
  all_goals rfl

end

/-! Issue (R239). -/

section
variable {v : State} {sl op n : Nat} {w : Word} {y : Slice}

/-- A slice that issues an instruction runs. -/
theorem State.status_of_word (word : v.sliceWord sl = some w) : (v.slc sl).status = 2 := by
  unfold State.sliceWord at word
  extract_lets x at word
  split at word
  next runs =>
    simp only [Bool.and_eq_true, beq_iff_eq] at runs
    exact runs.1.1
  next => cases word

theorem State.issue_word (word : v.sliceWord sl = some w) (hop : wOp w = op) (body : State → Word → State) :
    v.issue sl op body = body v w := by
  simp [State.issue, word, hop]

/-- An instruction that leaves its slice standing within the code falls through. -/
theorem State.through_falls (within : (v.slc sl).pc + 1 < (v.slc sl).codeLen) (stands : y.standing = (v.slc sl).standing) :
    v.through sl w n (.ok y) = v.sliceDone sl w n y ((v.slc sl).pc + 1) := by
  have pc := Slice.pc_of_standing stands
  rw [State.through_ok, pc]
  rwa [pc, Slice.codeLen_of_standing stands]

/-- A slice does not go on outside the code. -/
theorem State.sliceGoto_outside {pc : Int} (outside : pc < 0 ∨ ((v.slc sl).codeLen : Int) ≤ pc) :
    v.sliceGoto sl pc = v.sliceFault sl 3 := by
  refine if_neg ?_
  simp only [Bool.and_eq_true, decide_eq_true_eq]
  omega

@[simp] theorem State.sliceCycles_codeLen (s : State) (i : Nat) (w : Word) (n : Nat) :
    ((s.sliceCycles i w n).slc i).codeLen = (s.slc i).codeLen := by
  obtain ⟨c, d, h⟩ := s.slc_sliceCycles i w n
  rw [h]
  rfl

end

/-! Plain instructions, branches and special registers at the word that the slice issues. -/

section
variable {s : State} {t : Tick} {sl op n : Nat} {w : Word}

/-- A plain instruction, whatever it answers. -/
theorem State.plain_word (word : (s.advance t).sliceWord sl = some w) (hop : wOp w = op) (f : Word → Slice → SliceRes) :
    s.plain t sl op n f = (s.advance t).through sl w n (f w ((s.advance t).slc sl)) :=
  State.issue_word word hop _

/-- A plain instruction that leaves the slice y falls through. -/
theorem State.plain_falls (word : (s.advance t).sliceWord sl = some w)
    (within : ((s.advance t).slc sl).pc + 1 < ((s.advance t).slc sl).codeLen) (hop : wOp w = op) {f : Word → Slice → SliceRes}
    {y : Slice} (result : f w ((s.advance t).slc sl) = .ok y) (stands : y.standing = ((s.advance t).slc sl).standing) :
    s.plain t sl op n f = (s.advance t).sliceDone sl w n y (((s.advance t).slc sl).pc + 1) := by
  rw [State.plain_word word hop, result]
  exact State.through_falls within stands

/-- A branch goes to its place within the code in three cycles, or falls through in one (R239). -/
theorem State.branch_goes (word : (s.advance t).sliceWord sl = some w)
    (within : ((s.advance t).slc sl).pc + 1 < ((s.advance t).slc sl).codeLen) (hop : wOp w = op) {taken : Word → Word → Bool}
    {p : Nat} (dest : (((s.advance t).slc sl).pc : Int) + 1 + sext 18 (wNat w 17 0) = p)
    (inside : p < ((s.advance t).slc sl).codeLen) :
    s.branch t sl op taken =
      if taken (((s.advance t).slc sl).g (wBrA w)) (((s.advance t).slc sl).g (wBrB w)) = true then (s.advance t).sliceOn sl w 3 p
      else (s.advance t).sliceOn sl w 1 (((s.advance t).slc sl).pc + 1) := by
  rw [State.branch, State.issue_word word hop]
  extract_lets x hit
  have onward := State.on_of_goto (s.advance t) sl w
  split
  next =>
    simp only [x, dest]
    exact onward 3 p inside
  next =>
    simp only [x, add_zero]
    exact onward 1 (x.pc + 1) within

/-- A branch that is taken out of the code is a slice fault CODE (R252). -/
theorem State.branch_faults (word : (s.advance t).sliceWord sl = some w) (hop : wOp w = op) {taken : Word → Word → Bool}
    (hit : taken (((s.advance t).slc sl).g (wBrA w)) (((s.advance t).slc sl).g (wBrB w)) = true)
    (outside : (((s.advance t).slc sl).pc : Int) + 1 + sext 18 (wNat w 17 0) < 0 ∨
      (((s.advance t).slc sl).codeLen : Int) ≤ ((s.advance t).slc sl).pc + 1 + sext 18 (wNat w 17 0)) :
    s.branch t sl op taken = ((s.advance t).sliceCycles sl w 3).sliceFault sl 3 := by
  rw [State.branch, State.issue_word word hop]
  simp only [hit, if_true]
  exact State.sliceGoto_outside (by simpa using outside)

/-- A move from or to a special register whose effect leaves the slice standing goes on behind it (R240). -/
theorem State.special_goes (word : (s.advance t).sliceWord sl = some w)
    (within : ((s.advance t).slc sl).pc + 1 < ((s.advance t).slc sl).codeLen) (hop : wOp w = op) {sel : Nat → Bool}
    {body : State → Word → State} (own : sel (wSpr w) = true) {u : State} (effect : body (s.advance t) w = u)
    (stands : (u.slc sl).standing = ((s.advance t).slc sl).standing) :
    s.special t sl op sel body = u.sliceOn sl w 1 (((s.advance t).slc sl).pc + 1) := by
  have pc := Slice.pc_of_standing stands
  have runs : ¬ ((u.slc sl).status != 2) = true := by
    rw [Slice.status_of_standing stands, State.status_of_word word]
    decide
  rw [State.special, State.issue_word word hop]
  simp only [own, effect, Bool.not_true, Bool.false_eq_true, if_false, if_neg runs]
  rw [← pc]
  exact State.on_of_goto u sl w 1 _ (by rwa [pc, Slice.codeLen_of_standing stands])

/-- One whose effect stops the slice goes no further. -/
theorem State.special_stops (word : (s.advance t).sliceWord sl = some w) (hop : wOp w = op) {sel : Nat → Bool}
    {body : State → Word → State} (own : sel (wSpr w) = true) {u : State} (effect : body (s.advance t) w = u)
    (stopped : (u.slc sl).status ≠ 2) : s.special t sl op sel body = u := by
  rw [State.special, State.issue_word word hop]
  simp [own, effect, stopped]

end

end Sys2Proof.Machine
end

section
/-!
PROOFS. The register instructions of a slice (R233, R239).
-/
namespace Sys2Proof
open Machine

/-- Settles O31: each is the plain instruction of its word, which writes Gd and leaves the slice standing. -/
theorem sliceRegisterInstructionsComplete : Obligations.SliceRegisterInstructionsComplete := by
  unfold Obligations.SliceRegisterInstructionsComplete
  intro s t sl w v x a b writes word within
  have falls {op n : Nat} {f : Word → Slice → SliceRes} (r : Word) (result : f w x = .ok (x.setG (wD w) r)) (hop : wOp w = op) :
      Host.Outcome.next (s.plain t sl op n f) = writes n r :=
    congrArg Host.Outcome.next (State.plain_falls word within hop result (Slice.setG_standing ..))
  refine ⟨fun hop => ?nop, falls _ rfl, falls _ rfl, falls _ rfl, falls _ rfl, falls _ rfl, falls _ rfl, falls _ rfl, falls _ rfl,
    falls _ rfl, falls _ rfl, falls _ rfl, falls _ rfl⟩
  case nop => exact congrArg Host.Outcome.next (State.plain_falls word within hop rfl rfl)

end Sys2Proof
end

section
/-!
PROOFS. Operands of a slice in its data memory (R235, R252).
-/
namespace Sys2Proof.Machine

/-- A slice after an operand of generator n, which its update bit steps. -/
def Slice.stepped (x : Slice) (n : Nat) (upd : Bool) : Slice := if upd then x.setAg n Agen.step' else x

section
variable {x : Slice} {n : Nat} {upd : Bool}

theorem Slice.operand_within (within : (x.ag n).addr < 0x28000) (k : Slice → Nat → SliceRes) :
    x.operand n upd k = k (x.stepped n upd) (x.ag n).addr :=
  if_neg (Nat.not_le.mpr within)

theorem Slice.operand_past (past : 0x28000 ≤ (x.ag n).addr) (k : Slice → Nat → SliceRes) : x.operand n upd k = .error 1 :=
  if_pos past

@[simp] theorem Slice.stepped_standing : (x.stepped n upd).standing = x.standing := by
  unfold Slice.stepped
  split <;> rfl

@[simp] theorem Slice.stepped_dmem : (x.stepped n upd).dmem = x.dmem := by
  unfold Slice.stepped
  split <;> rfl

@[simp] theorem Slice.stepped_sat : (x.stepped n upd).sat = x.sat := by
  unfold Slice.stepped
  split <;> rfl

end

/-! The loads and stores are their operand and one effect. -/

theorem opLd_operand (w : Word) (x : Slice) :
    opLd w x = x.operand (wAg w) (wUpd w) fun z a => .ok (z.setG (wD w) (z.word a)) := rfl

theorem opLdh_operand (w : Word) (x : Slice) :
    opLdh w x = x.operand (wAg w) (wUpd w) fun z a => .ok (z.setG (wD w) (BitVec.ofInt 32 (sext 16 (z.half a)))) := rfl

theorem opSt_operand (w : Word) (x : Slice) :
    opSt w x = x.operand (wAg w) (wUpd w) fun z a => .ok (z.setWord a (x.g (wD w))) := rfl

theorem opSth_operand (w : Word) (x : Slice) :
    opSth w x = x.operand (wAg w) (wUpd w) fun z a => .ok (z.setHalf a ((x.g (wD w)).toNat % 65536)) := rfl

end Sys2Proof.Machine

namespace Sys2Proof
open Machine

/-- Settles O32: the operand's address is in the data memory, and then the slice has taken the generator's step and no more when the
instruction acts, or past it, and then the instruction is the fault. -/
theorem sliceLoadsAndStoresComplete : Obligations.SliceLoadsAndStoresComplete := by
  unfold Obligations.SliceLoadsAndStoresComplete
  intro s t sl w v x at_ y done word within
  have stepped : y = x.stepped (wAg w) (wUpd w) := rfl
  have dmem : y.dmem = x.dmem := by rw [stepped, Slice.stepped_dmem]
  refine ⟨fun inside => ?inside, fun past => ?past⟩
  case inside =>
    have falls {op : Nat} {f : Word → Slice → SliceRes} {z : Slice} (result : f w x = .ok z) (stands : z.standing = y.standing)
        (hop : wOp w = op) : Host.Outcome.next (s.plain t sl op 1 f) = done z :=
      congrArg Host.Outcome.next (State.plain_falls word within hop result (stands.trans Slice.stepped_standing))
    rw [← dmem]
    exact ⟨falls ((opLd_operand w x).trans (Slice.operand_within inside _)) (Slice.setG_standing ..),
      falls ((opLdh_operand w x).trans (Slice.operand_within inside _)) (Slice.setG_standing ..),
      falls ((opSt_operand w x).trans (Slice.operand_within inside _)) (Slice.setWord_standing ..),
      falls ((opSth_operand w x).trans (Slice.operand_within inside _)) (Slice.setHalf_standing ..)⟩
  case past =>
    have faults {op : Nat} {f : Word → Slice → SliceRes} {k : Slice → Nat → SliceRes}
        (form : f w x = x.operand (wAg w) (wUpd w) k) (hop : wOp w = op) :
        (Host.Outcome.next (s.plain t sl op 1 f) : Host.Outcome State Fault Refusal) = .next (v.sliceFault sl 1) := by
      rw [State.plain_word word hop, form, Slice.operand_past past]
      rfl
    exact ⟨faults (opLd_operand w x), faults (opLdh_operand w x), faults (opSt_operand w x), faults (opSth_operand w x)⟩

end Sys2Proof
end

section
/-!
PROOFS. The multiply-accumulates of a slice (R235 to R237).
-/
namespace Sys2Proof.Machine

/-- A multiply-accumulate whose operands both lie in the data memory; the y address is that of the slice after the x step. -/
theorem opMac_within {x : Slice} {w : Word} (insideX : (x.ag (wNat w 23 22)).addr < 0x28000)
    (insideY : ((x.stepped (wNat w 23 22) (bit w.toNat 21)).ag (wNat w 20 19)).addr < 0x28000)
    (f : Acc80 → Word → Word → Bool → Acc80 × Bool) :
    let y := x.stepped (wNat w 23 22) (bit w.toNat 21)
    let r := f (if bit w.toNat 16 then 0 else x.acc (wNat w 25 24)) (x.word (x.ag (wNat w 23 22)).addr)
      (x.word (y.ag (wNat w 20 19)).addr) (bit w.toNat 17)
    opMac f true w x = .ok { (y.stepped (wNat w 20 19) (bit w.toNat 18)).setAcc (wNat w 25 24) r.1 with sat := x.sat || r.2 } := by
  simp [opMac, Slice.operand_within insideX, Slice.operand_within insideY, Slice.word]

end Sys2Proof.Machine

namespace Sys2Proof
open Machine

/-- Settles O33: both operands lie in the data memory, and each form is its product and its width. -/
theorem sliceMultiplyAccumulatesComplete : Obligations.SliceMultiplyAccumulatesComplete := by
  unfold Obligations.SliceMultiplyAccumulatesComplete
  intro s t sl w v x gx gy y z vx vy k old term done word within insideX insideY
  have stands : z.standing = x.standing := Slice.stepped_standing.trans Slice.stepped_standing
  refine ⟨fun hop => ?narrow, fun hop => ?wide⟩
  case narrow =>
    exact congrArg Host.Outcome.next (State.plain_falls word within hop (opMac_within insideX insideY macNarrow) stands)
  case wide =>
    exact congrArg Host.Outcome.next (State.plain_falls word within hop (opMac_within insideX insideY macWide) stands)

end Sys2Proof
end

section
/-!
PROOFS. Moves of an accumulator (R236, R238, R239).
-/
namespace Sys2Proof.Machine

/-- ACCX stores a part of the accumulator; what part 3 stores is open. -/
theorem opAccx_within {x : Slice} {w : Word} (within : (x.ag (wNat w 23 22)).addr < 0x28000) (free : Nat) :
    let a := (x.acc (wNat w 25 24)).toNat
    ∃ out, (wNat w 13 12 = 0 → out = BitVec.ofNat 32 a) ∧ (wNat w 13 12 = 1 → out = BitVec.ofNat 32 (a / 2 ^ 32)) ∧
      (wNat w 13 12 = 2 → out = BitVec.ofInt 32 (sext 16 (a / 2 ^ 64))) ∧
      opAccx free w x = .ok ((x.stepped (wNat w 23 22) (bit w.toNat 21)).setWord (x.ag (wNat w 23 22)).addr out) := by
  refine ⟨?out, fun h => ?zero, fun h => ?one, fun h => ?two, ?result⟩
  case result => rw [opAccx, Slice.operand_within within]
  all_goals simp only [h]

/-- ACCI loads a part of the accumulator and keeps its other bits; what part 3 leaves is open. -/
theorem opAcci_within {x : Slice} {w : Word} (within : (x.ag (wNat w 23 22)).addr < 0x28000) (free : Nat) :
    let a := (x.acc (wNat w 25 24)).toNat
    let m := (x.word (x.ag (wNat w 23 22)).addr).toNat
    ∃ out, (wNat w 13 12 = 0 → out = a / 2 ^ 32 * 2 ^ 32 + m) ∧
      (wNat w 13 12 = 1 → out = a / 2 ^ 64 * 2 ^ 64 + m * 2 ^ 32 + a % 2 ^ 32) ∧
      (wNat w 13 12 = 2 → out = m % 65536 * 2 ^ 64 + a % 2 ^ 64) ∧
      opAcci free w x = .ok ((x.stepped (wNat w 23 22) (bit w.toNat 21)).setAcc (wNat w 25 24) (BitVec.ofNat 80 out)) := by
  refine ⟨?out, fun h => ?zero, fun h => ?one, fun h => ?two, ?result⟩
  case result => rw [opAcci, Slice.operand_within within]
  all_goals simp only [h]

end Sys2Proof.Machine

namespace Sys2Proof
open Machine

/-- Settles O34: the operand lies in the data memory; ACCST turns on its WIDE bit, and ACCX and ACCI take a free value for part 3. -/
theorem sliceAccumulatorMovesComplete : Obligations.SliceAccumulatorMovesComplete := by
  unfold Obligations.SliceAccumulatorMovesComplete
  intro s t sl w v x n at_ y k d part word within inside
  have stands : y.standing = x.standing := Slice.stepped_standing
  -- the free value of part 3 is taken whichever part it is
  have falls {z : Slice} (kept : z.standing = y.standing) :
      v.tookFree.through sl w 1 (.ok z) = v.tookFree.sliceDone sl w 1 z (x.pc + 1) :=
    State.through_falls (v := v.tookFree) within (kept.trans stands)
  refine ⟨fun hop lanes => ?lanes, fun hop wide => ?wide, fun hop => ?accx, fun hop => ?acci⟩
  case lanes =>
    refine congrArg Host.Outcome.next (State.plain_falls word within hop ?_ stands)
    rw [opAccst, Slice.operand_within inside]
    exact if_pos lanes
  case wide =>
    refine congrArg Host.Outcome.next (State.plain_falls word within hop ?_ stands)
    rw [opAccst, Slice.operand_within inside]
    exact if_neg (Bool.eq_false_iff.mp wide)
  case accx =>
    obtain ⟨out, zero, one, two, result⟩ := opAccx_within inside v.fresh
    refine ⟨out, zero, one, two, congrArg Host.Outcome.next ((State.issue_word word hop _).trans ?_)⟩
    rw [result]
    exact falls (Slice.setWord_standing ..)
  case acci =>
    obtain ⟨out, zero, one, two, result⟩ := opAcci_within inside v.fresh
    refine ⟨out, zero, one, two, congrArg Host.Outcome.next ((State.issue_word word hop _).trans ?_)⟩
    rw [result]
    exact falls (Slice.setAcc_standing ..)

end Sys2Proof
end

section
/-!
PROOFS. Branches, calls, returns and waits of a slice (R239, R243, R252).
-/
namespace Sys2Proof
open Machine

/-- Settles O35: a branch turns on its comparison and a wait on the tile; the others go where they say. -/
theorem sliceBranchesComplete : Obligations.SliceBranchesComplete := by
  unfold Obligations.SliceBranchesComplete
  intro s t sl w v x a b dest onward word within
  refine ⟨fun p there inside => ?goes, fun outside hop => ?faults, fun hop inside => ?ret, fun hop => ?waitt, fun hop => ?waitc⟩
  case goes =>
    have branch {op : Nat} (taken : Word → Word → Bool) (hop : wOp w = op) :
        Host.Outcome.next (s.branch t sl op taken) = if taken a b = true then onward 3 p else onward 1 (x.pc + 1) :=
      (congrArg Host.Outcome.next (State.branch_goes word within hop there inside)).trans (apply_ite ..)
    refine ⟨fun hop => ?beq, fun hop => ?bne, fun hop => ?blt, fun hop => ?bge, branch (fun _ _ => true), fun hop => ?call⟩
    case beq => exact (branch (fun a b => a == b) hop).trans (if_congr beq_iff_eq rfl rfl)
    case bne => exact (branch (fun a b => a != b) hop).trans ((if_congr bne_iff_ne rfl rfl).trans (ite_not ..))
    case blt => exact (branch (fun a b => decide (a.toInt < b.toInt)) hop).trans (if_congr decide_eq_true_iff rfl rfl)
    case bge => exact (branch (fun a b => decide (b.toInt ≤ a.toInt)) hop).trans (if_congr decide_eq_true_iff rfl rfl)
    case call =>
      refine congrArg Host.Outcome.next ((State.issue_word word hop _).trans ?_)
      have lands : p < (x.setG 15 (BitVec.ofNat 32 (x.pc + 1))).codeLen := by
        rwa [Slice.codeLen_of_standing (Slice.setG_standing ..)]
      exact (congrArg (State.sliceGoto _ sl) there).trans (State.done_of_goto v sl w 3 p _ lands)
  case faults => exact congrArg Host.Outcome.next (State.branch_faults (taken := fun _ _ => true) word hop rfl outside)
  case ret => exact congrArg Host.Outcome.next ((State.issue_word word hop _).trans (State.on_of_goto v sl w 3 _ inside))
  case waitt =>
    refine ⟨fun ready => ?_, fun empty => ?_⟩
    · exact congrArg Host.Outcome.next
        ((State.issue_word word hop _).trans ((if_pos ready).trans (State.on_of_goto v sl w 1 _ within)))
    · exact congrArg Host.Outcome.next ((State.issue_word word hop _).trans (if_neg (Bool.eq_false_iff.mp empty)))
  case waitc =>
    refine ⟨fun enough => ?_, fun few => ?_⟩
    · exact congrArg Host.Outcome.next
        ((State.issue_word word hop _).trans ((if_pos enough).trans (State.on_of_goto v sl w 1 _ within)))
    · exact congrArg Host.Outcome.next ((State.issue_word word hop _).trans (if_neg (Nat.not_le.mpr few)))

end Sys2Proof
end

section
/-!
PROOFS. REP and the special registers of a slice (R239 to R241, R254).
-/
namespace Sys2Proof.Machine

/-- A number that no special register has reads 0 (R240). -/
theorem Slice.spr_undefined {n : Nat} (h : 0x004 ≤ n ∧ n < 0x010 ∨ 0x033 ≤ n) (x : Slice) (i : Nat) : x.spr i n = 0 := by
  unfold Slice.spr
  iterate 12 rw [if_neg (by simp; omega)]

end Sys2Proof.Machine

namespace Sys2Proof
open Machine

/-- Settles O36: a REP whose repetitions end goes on behind what it repeats; a move from or to a special register is its effect on the
slice, which leaves it standing. -/
theorem sliceRepAndSpecialsComplete : Obligations.SliceRepAndSpecialsComplete := by
  unfold Obligations.SliceRepAndSpecialsComplete
  refine ⟨?moves, ?reads⟩
  case moves =>
    intro s t sl w v x moved word within
    have goes {op : Nat} {sel : Nat → Bool} {body : State → Word → State} (u : State) {y : Slice} (own : sel (wSpr w) = true)
        (effect : body v w = u.modSlc sl fun _ => y) (stands : y.standing = x.standing) (hop : wOp w = op) :
        Host.Outcome.next (s.special t sl op sel body) = moved u y :=
      congrArg Host.Outcome.next (State.special_goes word within hop own effect (by rwa [State.slc_modSlc]))
    refine ⟨fun b y => ?rep, fun hop lo perf => ?mfs, fun hop own => ?cycleLo, fun hop own => ?perfLo,
      fun hop plain => ?mts, fun hop own => ?colFree⟩
    case rep =>
      intro n hop next repeated room u
      have ends : (u.slc sl).codeLen = y.codeLen := by rw [State.sliceCycles_codeLen, State.slc_modSlc]
      refine congrArg Host.Outcome.next ((State.issue_word word hop _).trans ?_)
      simp only [x, n] at next repeated
      simp only [next, repeated]
      refine State.sliceGoto_ok _ sl (x.pc + 2) ?_
      rw [State.slc_perfEvent, State.slc_modSlc]
      exact room.trans_eq ends.symm
    case mfs => exact goes v (by simp [ownRead, lo, perf]) rfl (Slice.setG_standing ..) hop
    case cycleLo => exact goes v (by simp [own]) rfl (Slice.setG_standing x (wD w) _) hop
    case perfLo => exact goes v (by simp [own]) rfl (Slice.setG_standing x (wD w) _) hop
    case mts =>
      have notOwn : ownWrite (wSpr w) = false := by simpa [ownWrite, and_assoc] using plain
      exact goes v.tookFree (by rw [notOwn]; rfl) rfl (Slice.setSpr_standing ..) hop
    case colFree => exact goes v (by simp [own]) rfl rfl hop
  case reads =>
    intro x i
    refine ⟨rfl, rfl, rfl, fun n small => ?generator, rfl, rfl, rfl, rfl, rfl, fun n high => ?high, fun n lo hi => ?low⟩
    case generator => interval_cases n <;> exact ⟨rfl, rfl, rfl, rfl⟩
    case high => exact Slice.spr_undefined (.inr high) x i
    case low => exact Slice.spr_undefined (.inl ⟨lo, hi⟩) x i

end Sys2Proof
end

section
/-!
PROOFS. A slice fault and the end of a tile change no slice but their own (R220, R243, R252).
-/
namespace Sys2Proof.Machine

/-! Records, counters and gaps leave the array alone. -/

section
variable (s : State)

@[simp] theorem State.count_slices (key n : Nat) : (s.count key n).slices = s.slices := by
  unfold State.count
  split <;> rfl

@[simp] theorem State.bump_slices (key : Nat) : (s.bump key).slices = s.slices := State.count_slices s key 1

@[simp] theorem State.perfEvent_slices (ev x y n : Nat) : (s.perfEvent ev x y n).slices = s.slices := by
  unfold State.perfEvent
  extract_lets hits
  split <;> rfl

@[simp] theorem State.deviceRecordAt_slices (time kind sev valA valB firstCh : Nat) :
    (s.deviceRecordAt time kind sev valA valB firstCh).slices = s.slices := by simp [State.deviceRecordAt, State.deliver]

@[simp] theorem State.faultsLost_slices (cons : Word) (n : Nat) : (s.faultsLost cons n).slices = s.slices := by
  unfold State.faultsLost
  extract_lets s1
  split <;> rfl

@[simp] theorem State.logFault_slices (time cls cause inst addr master outcome detail : Nat) :
    (s.logFault time cls cause inst addr master outcome detail).slices = s.slices := by
  unfold State.logFault
  extract_lets
  rw [State.faultsLost_slices, State.modSys_slices]

@[simp] theorem State.health_slices (cause inst detail cls : Nat) : (s.health cause inst detail cls).slices = s.slices := by
  unfold State.health State.healthFull State.deviceRecord
  extract_lets fseq recorded s1
  have logged : s1.slices = s.slices := by
    simp only [s1]
    split
    · exact State.logFault_slices ..
    · rfl
  split
  · exact (State.deviceRecordAt_slices ..).trans logged
  · exact logged

@[simp] theorem State.lateCount_slices (i : Nat) : (s.lateCount i).slices = s.slices := by
  unfold State.lateCount
  extract_lets n s1
  split
  · exact State.health_slices ..
  · rfl

@[simp] theorem State.addGap_slices (g : Gap) : (s.addGap g).slices = s.slices := rfl

@[simp] theorem State.gapLower_slices (group start stop cause : Nat) : (s.gapLower group start stop cause).slices = s.slices := by
  unfold State.gapLower
  split
  · rfl
  · exact (State.addGap_slices ..).trans (State.addGap_slices ..)

@[simp] theorem State.sliceLoses_slices (x : Tile) (i : Nat) : (s.sliceLoses x i).slices = s.slices := by
  unfold State.sliceLoses
  split
  · exact (State.lateCount_slices ..).trans ((State.bump_slices ..).trans (State.gapLower_slices ..))
  · exact (State.lateCount_slices ..).trans (State.bump_slices ..)

theorem State.sliceLoses_all_slices (tiles : List SliceTile) (i : Nat) :
    (tiles.foldl (fun u x => u.sliceLoses x.tile i) s).slices = s.slices := by
  induction tiles generalizing s with
  | nil => rfl
  | cons x rest ih => exact (ih _).trans (State.sliceLoses_slices s x.tile i)

/-- A faulted slice stands in fault. -/
theorem State.sliceFault_status (i cause : Nat) : ((s.sliceFault i cause).slc i).status = 3 := by
  unfold State.sliceFault
  extract_lets tiles s1 s2
  have same : (tiles.foldl (fun u x => u.sliceLoses x.tile i) s2).slices = s1.slices := by
    rw [State.sliceLoses_all_slices, State.health_slices, State.bump_slices]
  have stands : s1.slc i = { s.slc i with status := 3, cause := cause, tiles := [], waiting := false } := State.slc_modSlc ..
  rw [State.slc, same]
  exact congrArg Slice.status stands

/-- A slice whose program is not a supplied one stands where it is when it ends a tile (R243). -/
theorem State.tileComplete_standing {i : Nat} (own : (s.slc i).supplied = false) :
    ((s.tileComplete i).slc i).standing = (s.slc i).standing := by
  unfold State.tileComplete
  split
  next => rfl
  next y rest hd =>
    extract_lets x cyc s1 s2 s3
    have fell : s2.slices = s1.slices := State.perfEvent_slices ..
    have skips : s3 = s2 := by
      simp only [s3]
      unfold Slice.supplied at own
      split at own
      next im loaded => simp [x, loaded, own]
      next empty => simp [x, empty]
    have ended : (s1.slc i).standing = x.standing := by
      simp only [s1, State.slc_modSlc]
      rfl
    have same {u : State} (h : u.slices = s3.slices) : (u.slc i).standing = x.standing := by
      rw [State.slc, h, skips, fell]
      exact ended
    split
    · exact same ((State.lateCount_slices ..).trans (State.bump_slices ..))
    · exact same rfl

end

end Sys2Proof.Machine
end

section
/-!
PROOFS. TILE_DONE, OUT_PUSH and EVT (R243, R244, R252, R253).
-/
namespace Sys2Proof
open Machine

/-- Settles O37: the register's command acts, and then the slice goes on where the effect leaves it standing, or has stopped where the
effect is its fault. -/
theorem sliceQueueRegistersComplete : Obligations.SliceQueueRegistersComplete := by
  unfold Obligations.SliceQueueRegistersComplete
  refine ⟨?supplied, ?own⟩
  case supplied =>
    intro s t sl v supplied running ready clocked
    have serves : ((v.slc sl).status == 2 && bit (v.slc sl).tileStatus 0 && v.domainRuns 5) = true := by
      simp [v, running, ready, clocked]
    exact congrArg Host.Outcome.next ((if_pos supplied).trans (if_pos serves))
  case own =>
    intro s t sl w v x a d e onward word hop within
    have goes {sel : Nat → Bool} {body : State → Word → State} {u : State} (own : sel (wSpr w) = true) (effect : body v w = u)
        (stands : (u.slc sl).standing = x.standing) : Host.Outcome.next (s.special t sl 0x31 sel body) = onward u :=
      congrArg Host.Outcome.next (State.special_goes word within hop own effect stands)
    have faults {sel : Nat → Bool} {body : State → Word → State} (own : sel (wSpr w) = true)
        (effect : body v w = v.sliceFault sl 1) :
        (Host.Outcome.next (s.special t sl 0x31 sel body) : Host.Outcome State Fault Refusal) = .next (v.sliceFault sl 1) :=
      congrArg Host.Outcome.next (State.special_stops word hop own effect (by rw [State.sliceFault_status]; decide))
    -- a drop sets the slice's flag and counts
    have dropped {f : Slice → Slice} {key : Nat} (h : (f x).standing = x.standing) :
        (((v.modSlc sl f).bump key).slc sl).standing = x.standing := by
      rw [State.slc, State.bump_slices]
      exact (congrArg Slice.standing (State.slc_modSlc v sl f)).trans h
    have queued {f : Slice → Slice} (h : (f x).standing = x.standing) : ((v.modSlc sl f).slc sl).standing = x.standing :=
      (congrArg Slice.standing (State.slc_modSlc v sl f)).trans h
    refine ⟨fun spr program idle => ?ignored, fun spr program asked ready => ?ends, fun spr => ?outPush, fun spr => ?evt⟩
    case ignored =>
      have meaning : exec (.tileDone t sl) s = .next (s.special t sl 0x31 (· == 0x023) _) :=
        congrArg Host.Outcome.next (if_neg (by simpa [x, v] using program))
      rw [meaning]
      refine goes (by simp [spr]) (if_neg ?_) rfl
      show ¬ (bit (x.g (wD w)).toNat 0 && bit x.tileStatus 0) = true
      rcases idle with h | h <;> simp [h]
    case ends =>
      have meaning : exec (.tileDone t sl) s = .next (s.special t sl 0x31 (· == 0x023) _) :=
        congrArg Host.Outcome.next (if_neg (by simpa [x, v] using program))
      rw [meaning]
      have ends : (bit (x.g (wD w)).toNat 0 && bit x.tileStatus 0) = true := by rw [asked, ready]; rfl
      exact goes (by simp [spr]) (if_pos ends) (State.tileComplete_standing v program)
    case outPush =>
      have own : (wSpr w == 0x024) = true := by simp [spr]
      refine ⟨fun past => faults own (if_pos past), fun inside room known => ?taken, fun inside full => ?dropped⟩
      case taken =>
        have takes : ¬ (decide (16 ≤ x.outQ.length) || decide (3 < fld d 6 1)) = true := by
          simp only [Bool.or_eq_true, decide_eq_true_eq]
          omega
        exact goes own ((if_neg (Nat.not_lt.mpr inside)).trans (if_neg takes)) (queued rfl)
      case dropped =>
        have drops : (decide (16 ≤ x.outQ.length) || decide (3 < fld d 6 1)) = true := by simpa using full
        exact goes own ((if_neg (Nat.not_lt.mpr inside)).trans (if_pos drops)) (dropped rfl)
    case evt =>
      have own : (wSpr w == 0x026) = true := by simp [spr]
      refine ⟨fun past => faults own (if_pos past), fun z inside zone lo hi sev room => ?taken, fun inside unfit => ?dropped⟩
      case taken =>
        refine goes own ((if_neg (Nat.not_lt.mpr inside)).trans (if_pos ?_)) (queued rfl)
        simp only [e, x, a] at zone lo hi sev room
        simp only [zone, lo, hi, sev, room, decide_true, Bool.and_self]
      case dropped =>
        refine goes own ((if_neg (Nat.not_lt.mpr inside)).trans (if_neg ?_)) (dropped rfl)
        simp only [e, x, a] at unfit
        split
        next z zone =>
          simp only [zone, reduceCtorEq, false_or] at unfit
          simp only [Bool.and_eq_true, decide_eq_true_eq]
          omega
        next => decide

end Sys2Proof
end

section
/-!
PROOFS. SLICE_LOAD and SLICE_START past their gates (R249 to R251).
-/
namespace Sys2Proof.Machine

/-- The state after the first chunk of a SLICE_LOAD: the image is in the making, refused, or in the slices that it names (R250). -/
def State.loadFirst (w : State) (q : Req) : State :=
  let id := reqId q 0x0070
  let chunk := q.payload.drop 12
  let names := (List.range (payU q 1 1)).map (· + payU q 0 1)
  if chunk.length < payU q 4 4 then
    ({ w with slices := { w.slices with loading := some ⟨payU q 0 1, payU q 1 1, payU q 4 4, chunk⟩ } }).ok id []
  else match imageCheck chunk with
    | some (n, o) =>
      (({ w with slices := { w.slices with loading := none, loadResult := n + 256 * (o % 2 ^ 24) } }).begins id).final id .checkFail []
    | none =>
      (names.foldl (fun (x : State) i => x.putImage i (imageOf chunk))
        { w with slices := { w.slices with loading := none, loadResult := 0 } }).ok id []

/-- Past its gate and its ranges, a SLICE_LOAD at offset 0 while no run is on takes its chunk. -/
theorem State.sliceLoad_first {s : State} {q : Req} (admitted : s.Admits q cConfigure s.prot.sliceLoadHost) (t : Tick)
    (header : 12 ≤ payLen q) (zero : payU q 2 2 = 0) (chunk : payLen q ≤ 4096) (range : payU q 0 1 + payU q 1 1 ≤ 128)
    (first : payU q 8 4 = 0) (idle : s.run.state = 0) (whole : (q.payload.drop 12).length ≤ payU q 4 4) :
    (s.advance t).sliceLoad q = (s.opened t q).loadFirst q := by
  have wellFormed : ¬ (decide (payLen q < 12) || payU q 2 2 != 0 || decide (4084 < (q.payload.drop 12).length)) = true := by
    have rest : (q.payload.drop 12).length = payLen q - 12 := List.length_drop
    simp only [zero, rest, Bool.or_eq_true, decide_eq_true_eq, bne_self_eq_false, Bool.false_eq_true, or_false]
    omega
  have still : (s.opened t q).run.state = 0 := by simpa using idle
  rw [State.sliceLoad, State.advance_prot, State.gate_opened admitted]
  simp only [if_neg wellFormed, if_neg (Nat.not_lt.mpr range), first, still, bne_self_eq_false, beq_self_eq_true, Bool.false_and,
    Bool.false_eq_true, if_false, if_true, List.nil_append, if_neg (Nat.not_lt.mpr whole)]
  rfl

end Sys2Proof.Machine

namespace Sys2Proof
open Machine

/-- Settles O10: a first chunk turns on whether it is the whole image and on the image's check; SLICE_START has one way past its state. -/
theorem sliceRequestsComplete : Obligations.SliceRequestsComplete := by
  unfold Obligations.SliceRequestsComplete
  refine ⟨?load, ?start⟩
  case load =>
    intro s t q admitted header zero most range first idle w names chunk load
    have takes (whole : chunk.length ≤ payU q 4 4) : exec (.sliceLoad t q) s = .next (w.loadFirst q) :=
      congrArg Host.Outcome.next (State.sliceLoad_first admitted t header zero most range first idle whole)
    refine ⟨fun part => ?part, fun whole passes => ?passes, fun n o whole fails => ?fails⟩
    case part => exact (takes part.le).trans (congrArg Host.Outcome.next (if_pos part))
    case passes =>
      refine (takes whole.le).trans (congrArg Host.Outcome.next ((if_neg whole.not_lt).trans ?_))
      simp only [chunk] at passes
      rw [passes]
    case fails =>
      refine (takes whole.le).trans (congrArg Host.Outcome.next ((if_neg whole.not_lt).trans ?_))
      simp only [chunk] at fails
      rw [fails]
  case start =>
    intro s t q admitted hlen zero range w names ready
    have meaning : exec (.sliceStart t q) s = .next ((s.advance t).sliceStart q) := rfl
    have wellFormed : ¬ (payLen q != 4 || payU q 2 2 != 0) = true := by simp [hlen, zero]
    rw [meaning, State.sliceStart, State.gate_opened admitted]
    exact congrArg Host.Outcome.next ((if_neg wellFormed).trans ((if_neg (Nat.not_lt.mpr range)).trans
      (if_neg (Bool.eq_false_iff.mp ready))))

end Sys2Proof
end

section
/-!
PROOFS. CAPTURE_ARM, CAPTURE_STATUS and CAPTURE_RELEASE past their gates (R285 to R289, R295, R296).
-/
namespace Sys2Proof
open Machine

/-- Settles O6: past its gate and the ranges of its payload, CAPTURE_ARM turns on the status of the checks that grant the span;
CAPTURE_STATUS and CAPTURE_RELEASE have one way. (That a trigger by 'now' follows the OK response is log 10.) -/
theorem captureRequestsComplete : Obligations.CaptureRequestsComplete := by
  unfold Obligations.CaptureRequestsComplete
  refine ⟨?arm, ?status, ?release⟩
  case arm =>
    intro s t q r admitted length slots source sources zone tier tiers span pre post w checked slot v
    have opened := State.gate_opened admitted t 0x0030
    have meaning : exec (.captureArm t q) s = .next ((s.advance t).captureArm q) := rfl
    have inRange : ¬ (payLen q != 24 || decide (15 < payU q 0 1) || payU q 1 1 == 0 || decide (128 ≤ payU q 1 1) ||
        (decide (4095 < payU q 2 2) && payU q 2 2 != 0xFFFF) || payU q 12 4 == 0 || decide (7 < payU q 12 4) ||
        payU q 4 4 + payU q 8 4 == 0 || decide (86400000 < payU q 4 4) || decide (86400000 < payU q 8 4)) = true := by
      simp only [Bool.or_eq_true, Bool.and_eq_true, decide_eq_true_eq, beq_iff_eq, bne_iff_ne]
      omega
    have turns : exec (.captureArm t q) s = .next (
        if (r.1 != .ok) = true then w.final (reqId q 0x0030) r.1 []
        else v.captureTrigger (payU q 0 1) 6 v.dev 0 0xFFFF 0 false) := by
      subst checked
      rw [meaning, State.captureArm, opened]
      exact congrArg Host.Outcome.next (if_neg inRange)
    rw [turns]
    refine ⟨fun granted => ?granted, fun refused => ?refused⟩
    case granted => rw [if_neg (by simp [granted])]
    case refused => rw [if_pos (by simpa using refused)]
  case status =>
    intro s t q admitted length slots zero w
    have opened := State.gate_opened admitted t 0x0031
    have meaning : exec (.captureStatus t q) s = .next ((s.advance t).captureStatus q) := rfl
    have wellFormed : ¬ (payLen q != 4 || decide (15 < payU q 0 1) || payU q 1 3 != 0) = true := by simp [length, slots, zero]
    rw [meaning, State.captureStatus, opened]
    exact congrArg Host.Outcome.next (if_neg wellFormed)
  case release =>
    intro s t q admitted length slots zero w
    have opened := State.gate_opened admitted t 0x0032
    have meaning : exec (.captureRelease t q) s = .next ((s.advance t).captureRelease q) := rfl
    have wellFormed : ¬ (payLen q != 4 || decide (15 < payU q 0 1) || payU q 1 3 != 0) = true := by simp [length, slots, zero]
    rw [meaning, State.captureRelease, opened]
    exact congrArg Host.Outcome.next (if_neg wellFormed)

end Sys2Proof
end

section
/-!
PROOFS. Trigger edges, the star line, window ends and seals, each where the guard of its command passes (R286, R287, R291 to R294, R298).
-/
namespace Sys2Proof.Machine

/-- An edge counts once its level has stood for the minimum (R286). -/
theorem State.edgeHeld_iff (s : State) (edge : Tick) : s.edgeHeld edge = true ↔ edge + nsT (s.p K.sillTrigMinNs) ≤ s.now :=
  decide_eq_true_iff

end Sys2Proof.Machine

namespace Sys2Proof
open Machine

/-- Settles O39: each command's guard on the state w that time has passed to; an edge is judged at its command (log 10). -/
theorem captureCommandsComplete : Obligations.CaptureCommandsComplete := by
  unfold Obligations.CaptureCommandsComplete
  refine ⟨?trigger, ?star, ?pulse, ?window, ?sealing⟩
  case trigger =>
    intro s t n falling edge frac w input powered
    refine ⟨fun polarity held => ?fires, fun unfit => ?passes⟩
    case fires =>
      have fires : (decide (n < 4) && decide (2 ≤ w.clk.mode) && falling == bit (w.p K.sillTrigPolarity) n &&
          w.edgeHeld edge) = true := by
        simp [input, powered, polarity, (w.edgeHeld_iff edge).mpr held]
      exact congrArg Host.Outcome.next (if_pos fires)
    case passes =>
      refine congrArg Host.Outcome.next (if_neg ?_)
      rw [Bool.and_eq_true, Bool.and_eq_true, beq_iff_eq]
      rintro ⟨⟨-, polarity⟩, held⟩
      exact unfit.elim (absurd polarity) ((State.edgeHeld_iff _ edge).mp held).not_gt
  case star =>
    intro s t edge frac w powered
    refine ⟨fun foreign held => ?fires, fun unfit => ?passes⟩
    case fires =>
      have fires : (decide (2 ≤ w.clk.mode) && decide (w.cap.starIgnore ≤ edge) && w.edgeHeld edge) = true := by
        simp [powered, foreign, (w.edgeHeld_iff edge).mpr held]
      exact congrArg Host.Outcome.next (if_pos fires)
    case passes =>
      refine congrArg Host.Outcome.next (if_neg ?_)
      rw [Bool.and_eq_true, Bool.and_eq_true, decide_eq_true_iff, decide_eq_true_iff]
      rintro ⟨⟨-, foreign⟩, held⟩
      exact unfit.elim foreign.not_gt ((State.edgeHeld_iff _ edge).mp held).not_gt
  case pulse =>
    intro s t a w pulled ended
    have meaning : exec (.starPulseEnd t) s = execStarPulseEnd t s := rfl
    have passed : s.advance t = w := rfl
    simp only [meaning, execStarPulseEnd, passed, pulled, if_pos ended]
  case window =>
    intro s t slot w capturing ended
    have ends : ((w.capSlot slot).state == 2 && decide ((w.capSlot slot).windowEnd ≤ w.dev16 w.now)) = true := by
      simp [capturing, ended]
    exact congrArg Host.Outcome.next (if_pos ends)
  case sealing =>
    intro s t slot w state complete
    have seals : ((w.capSlot slot).state == 3 && (w.windowSettled (w.capSlot slot) ||
        decide (w.sealBound (w.capSlot slot) ≤ w.dev16 w.now))) = true := by
      rw [Bool.and_eq_true, Bool.or_eq_true, decide_eq_true_iff, beq_iff_eq]
      exact ⟨state, complete⟩
    exact congrArg Host.Outcome.next (if_pos seals)

end Sys2Proof
end

section
/-!
PROOFS. Flacon engine jobs, commits, decompressions, stalls and flush times, each where the guard of its command passes (R281, R302 to
R304, R306 to R311).
-/
namespace Sys2Proof.Machine

/-- The head of a flacon holds and its stream decodes to more than ORIG_LEN, so that its job fails with NO_SPACE (R311). -/
def flaconLong (flacon : List Byte) : Bool :=
  flaconHead flacon && match flaconOut flacon with
    | some d => decide (65536 < d.length)
    | none => false

theorem flaconLong_iff (flacon : List Byte) :
    flaconLong flacon = true ↔ flaconHead flacon = true ∧ ∃ d ∈ flaconOut flacon, 65536 < d.length := by
  rw [flaconLong, Bool.and_eq_true]
  cases flaconOut flacon <;> simp

/-- A head that fails, or no more than ORIG_LEN, leaves the decoder's output to the other checks (R311). -/
theorem not_flaconLong {flacon : List Byte} (fits : flaconHead flacon = false ∨ ¬ ∃ d ∈ flaconOut flacon, 65536 < d.length) :
    ¬ flaconLong flacon = true :=
  (flaconLong_iff flacon).not.mpr (not_and_or.mpr (fits.imp_left Bool.eq_false_iff.mp))

end Sys2Proof.Machine

namespace Sys2Proof
open Machine

/-- Settles O40: an idle engine turns on its next job, a commit on its stream's length, the store on the protection map, and a
decompression on whether the flacon is listed, its length and its checks; a stall lasts a number of microseconds left open. -/
theorem flaconCommandsComplete : Obligations.FlaconCommandsComplete := by
  unfold Obligations.FlaconCommandsComplete
  refine ⟨?flush, ?archive, ?restoration, ?drain, ?commit, ?store, ?decompress⟩
  case flush => exact fun _ _ => rfl
  case archive =>
    intro s t engine p q y w e rows idle known clocked next buffered tile turned
    have meaning : exec (.flaconJobStart t engine) s = execFlaconJobStart t engine s := rfl
    have passed : (s.advance t).woken [6] = w := rfl
    have mine : w.eng engine = e := rfl
    have starts : ¬ (e.running.isSome || decide (engine ≥ 2) || !w.domainRuns 6) = true := by simp [idle, known, clocked]
    have ready : ¬ (e.buffer != some (p, q) || !w.sill.closed.all fun c => c.pos != p || c.seq != q || w.turned c) = true := by
      simp only [buffered, bne_self_eq_false, Bool.false_or, Bool.not_eq_true', Bool.not_eq_false, List.all_eq_true]
      intro c listed
      by_cases place : c.pos = p <;> by_cases number : c.seq = q <;> simp [place, number]
      exact turned c listed place number
    simp only [meaning, execFlaconJobStart, passed, mine, if_neg starts, next, if_neg ready, tile]
    rfl
  case restoration =>
    intro s t engine j w e idle known clocked unarchived next
    have meaning : exec (.flaconJobStart t engine) s = execFlaconJobStart t engine s := rfl
    have passed : (s.advance t).woken [6] = w := rfl
    have mine : w.eng engine = e := rfl
    have starts : ¬ (e.running.isSome || decide (engine ≥ 2) || !w.domainRuns 6) = true := by simp [idle, known, clocked]
    simp only [meaning, execFlaconJobStart, passed, mine, if_neg starts, unarchived, next]
  case drain =>
    intro s t engine w running known
    have stalls : ((w.eng engine).running.isSome && decide (engine < 2)) = true := by simp [running, known]
    exact ⟨_, Nat.lt_succ_iff.mp (Nat.mod_lt w.freeNat (Nat.succ_pos _)), congrArg Host.Outcome.next (if_pos stalls)⟩
  case commit =>
    intro s t engine p q stream y w running tile data splits
    have meaning : exec (.flaconCommit t engine stream) s = execFlaconCommit t engine stream s := rfl
    have passed : s.advance t = w := rfl
    simp only [meaning, execFlaconCommit, passed, running, tile]
    refine ⟨fun long => ?raw, fun offs short allowed => ?compressed⟩
    case raw => exact congrArg Host.Outcome.next (if_pos long)
    case compressed =>
      refine congrArg Host.Outcome.next ((if_neg short.not_ge).trans ?_)
      simp only [data, splits] at allowed
      rw [allowed]
  case store =>
    intro w engine p q y stored out bytes x a v settle
    refine ⟨fun forbidden => ?forbidden, fun granted => ?granted⟩
    case forbidden => exact if_pos (congrArg not forbidden)
    case granted => exact if_neg (ne_true_of_eq_false (congrArg not granted))
  case decompress =>
    intro s t engine seg off mb tag w v running
    have meaning : exec (.decompressionDone t engine) s = execDecompressionDone t engine s := rfl
    have passed : s.advance t = w := rfl
    have ended : w.engineDone engine = v := rfl
    simp only [meaning, execDecompressionDone, passed, running, ended]
    refine ⟨fun missing => ?missing, fun f listed => ?listed⟩
    case missing => rw [missing]
    case listed =>
      rw [listed]
      refine ⟨fun head past => ?past, fun img fits decoded => ?decoded, fun fits failed => ?failed⟩
      case past => exact congrArg Host.Outcome.next (if_pos ((flaconLong_iff _).mpr ⟨head, past⟩))
      case decoded =>
        refine congrArg Host.Outcome.next ((if_neg (not_flaconLong fits)).trans ?_)
        rw [decoded]
      case failed =>
        refine congrArg Host.Outcome.next ((if_neg (not_flaconLong fits)).trans ?_)
        rw [failed]

end Sys2Proof
end

section
/-!
PROOFS. SESSION_OPEN, SESSION_CLOSE and SESSION_MODIFY past their gates (R314 to R316, R321).
-/
namespace Sys2Proof
open Machine

/-- Settles O8: past its gate SESSION_OPEN turns on its fields, on a free number and on the rates of all sessions; SESSION_CLOSE and
SESSION_MODIFY first find a session that is not closing. -/
theorem sessionRequestsComplete : Obligations.SessionRequestsComplete := by
  unfold Obligations.SessionRequestsComplete
  refine ⟨?opens, ?closes, ?modifies⟩
  case opens =>
    intro s t q n admitted length fields w ready free x0 x within
    have opened := State.gate_opened admitted t 0x0050
    have meaning : exec (.sessionOpen t q) s = .next ((s.advance t).sessionOpen q) := rfl
    have wellFormed : ¬ (payLen q != 36 || sessionRange q.payload) = true := by simp [length, fields]
    have below : ¬ w.topRaised w.running w.running (w.topSum w.running) (w.topSum w.running + PS.topRate w.running x) = true :=
      ne_true_of_eq_false within
    rw [meaning, State.sessionOpen, opened]
    refine congrArg Host.Outcome.next ((if_neg wellFormed).trans ((if_neg (ne_true_of_eq_false ready)).trans ?_))
    rw [free]
    exact if_neg below
  case closes =>
    intro s t q x admitted length number zero found going id
    have opened := State.gate_opened admitted t 0x0051
    have meaning : exec (.sessionClose t q) s = .next ((s.advance t).sessionClose q) := rfl
    have wellFormed : ¬ (payLen q != 4 || decide (1023 < payU q 0 2) || payU q 2 2 != 0) = true := by
      simp [length, number, zero]
    rw [meaning, State.sessionClose, opened]
    refine congrArg Host.Outcome.next ((if_neg wellFormed).trans ?_)
    rw [State.opened_session, found]
    exact if_neg (by simp [going])
  case modifies =>
    intro s t q x admitted length number zero fields found going w ready y v within
    have opened := State.gate_opened admitted t 0x0052
    have meaning : exec (.sessionModify t q) s = .next ((s.advance t).sessionModify q) := rfl
    have wellFormed : ¬ (payLen q != 40 || decide (1023 < payU q 0 2) || payU q 2 2 != 0 || sessionRange (q.payload.drop 4)) =
        true := by
      simp [length, number, zero, fields]
    have goes : ¬ (x.closing.isSome || w.sessionState (q.payload.drop 4)) = true := by simp [going, ready]
    rw [meaning, State.sessionModify, opened]
    refine congrArg Host.Outcome.next ((if_neg wellFormed).trans ?_)
    rw [State.opened_session, found]
    exact (if_neg goes).trans (if_neg (ne_true_of_eq_false within))

end Sys2Proof
end

section
/-!
PROOFS. Frames made of events, stream items and keepalives, and the end of a session, each where the guard of its command passes (R317,
R319, R323 to R327).
-/
namespace Sys2Proof
open Machine

/-- Settles O41: each command finds its session (the device's ring for 0xFFFE), and then its guard passes. -/
theorem frameMakingCommandsComplete : Obligations.FrameMakingCommandsComplete := by
  unfold Obligations.FrameMakingCommandsComplete
  refine ⟨?ringEvents, ?events, ?stream, ?objects, ?keepalive, ?close⟩
  case ringEvents =>
    intro s t w evs f waiting up due
    refine congrArg Host.Outcome.next ((if_pos rfl).trans (if_neg ?_))
    simpa [up, evs, w, or_iff_not_imp_left] using And.intro waiting due
  case events =>
    intro s t session x w most other found waiting going live due
    have meaning : exec (.eventFrameSend t session) s = execEventFrameSend t session s := rfl
    have passed : s.advance t = w := rfl
    have eventDue : w.eventDue x = true := by simpa [State.eventDue, waiting] using due
    simp only [meaning, execEventFrameSend, passed, found]
    refine congrArg Host.Outcome.next ((if_neg (by simpa using other)).trans (if_neg ?_))
    simp [going, live, eventDue]
  case stream =>
    intro s t session kind x at_ items w r ts found going live quiet other held taken due
    have meaning : exec (.streamFrameSend t session kind) s = execStreamFrameSend t session kind s := rfl
    have passed : s.advance t = w := rfl
    simp only [meaning, execStreamFrameSend, passed, found, held]
    refine congrArg Host.Outcome.next ((if_neg ?_).trans ((if_neg (by simpa using other)).trans (if_neg ?_)))
    · simp [going, live, quiet]
    · simpa [r, or_iff_not_imp_left] using And.intro taken due
  case objects =>
    intro s t session x w found going live quiet
    have meaning : exec (.streamFrameSend t session 5) s = execStreamFrameSend t session 5 s := rfl
    have passed : s.advance t = w := rfl
    simp only [meaning, execStreamFrameSend, passed, found]
    exact congrArg Host.Outcome.next ((if_neg (by simp [going, live, quiet])).trans (if_pos rfl))
  case keepalive =>
    intro s t session x w found spaced going live due
    have meaning : exec (.keepalive t session) s = execKeepalive t session s := rfl
    have passed : s.advance t = w := rfl
    simp only [meaning, execKeepalive, passed, found]
    exact congrArg Host.Outcome.next (if_neg (by simp [spaced, going, live, due]))
  case close =>
    intro s t session x id w found closing gone
    exact execSessionCloseComplete_finishes found closing gone

end Sys2Proof
end

section
/-!
PROOFS. Frames leaving on their paths, and the steps and ends of retrieval jobs, each where the guard of its command passes (R318 to R320,
R322, R323, R328, R338 to R342).
-/
namespace Sys2Proof.Machine

/-- A port that runs is no ring and is known (R320). -/
theorem State.portRuns_known {w : State} {path : Nat} (port : path < 3) (runs : w.portRuns path = true) :
    ¬ 16 ≤ path ∧ ¬ (decide (3 ≤ path) || !w.portRuns path) = true := by
  refine ⟨by omega, ?_⟩
  simp [runs, port]

section
variable {s w : State} {t : Tick} {path : Nat} (passed : s.advance t = w) (runs : w.portRuns path = true)
include passed runs

/-- With no datagram waiting a port that runs sends its own frame (R320). -/
theorem execFrameTransmit_port (port : path < 3) (empty : w.atom.datagrams = []) :
    execFrameTransmit t path s = .next (w.portSend path) := by
  obtain ⟨noRing, known⟩ := State.portRuns_known port runs
  simp only [execFrameTransmit, passed, if_neg noRing, if_neg known, empty]

/-- The 10G ports send no datagrams (R328). -/
theorem execFrameTransmit_network (port : path < 2) : execFrameTransmit t path s = .next (w.portSend path) := by
  match queued : w.atom.datagrams with
  | [] => exact execFrameTransmit_port passed runs (by omega) queued
  | d :: rest =>
    obtain ⟨noRing, known⟩ := State.portRuns_known (by omega) runs
    have other : ¬ (path == 2) = true := by rw [beq_iff_eq]; omega
    simp only [execFrameTransmit, passed, if_neg noRing, if_neg known, queued, if_neg other]

end

end Sys2Proof.Machine

namespace Sys2Proof
open Machine

/-- Settles O42: the path decides what is sent; a retrieval job turns on whether it is ready, and its end on its target. (The spacing
of the objects of all jobs is log 23.) -/
theorem frameSendingCommandsComplete : Obligations.FrameSendingCommandsComplete := by
  unfold Obligations.FrameSendingCommandsComplete
  refine ⟨?transmit, ?object, ?ends⟩
  case transmit =>
    intro s t path w
    refine ⟨fun ring up => ?_, fun port runs empty => ?_, fun port runs => ?_, ?datagram⟩
    · exact congrArg Host.Outcome.next ((if_pos ring).trans (if_pos (by simpa using Or.inl up)))
    · exact execFrameTransmit_port rfl runs port empty
    · exact execFrameTransmit_network rfl runs port
    case datagram =>
      intro d rest port runs queued
      subst port
      have meaning : exec (.frameTransmit t 2) s = execFrameTransmit t 2 s := rfl
      have passed : s.advance t = w := rfl
      obtain ⟨noRing, known⟩ := State.portRuns_known (by omega) runs
      simp only [meaning, execFrameTransmit, passed, if_neg noRing, if_neg known, queued]
      refine ⟨fun linked => ?_, fun unlinked => ?_⟩
      · exact congrArg Host.Outcome.next ((if_pos rfl).trans (if_pos linked))
      · exact congrArg Host.Outcome.next ((if_pos rfl).trans (if_neg (ne_true_of_eq_false unlinked)))
  case object =>
    intro s t job overwritten j w v listed going domain
    have meaning : exec (.retrieveObject t job overwritten) s = execRetrieveObject t job overwritten s := rfl
    have passed : s.advance t = w := rfl
    have goes : ¬ (j.cancelled || !w.domainRuns 6) = true := by simp [going, domain]
    simp only [meaning, execRetrieveObject, passed, listed, if_neg goes]
    refine ⟨fun ready spaced first => ?_, fun waits => ?_⟩
    · refine congrArg Host.Outcome.next ((if_neg (by simp [ready])).trans (if_neg ?_))
      simpa [Nat.not_lt.mpr spaced] using first
    · exact congrArg Host.Outcome.next (if_pos (by simp [waits]))
  case ends =>
    intro s t job j w st finish listed delivered finished
    have meaning : exec (.retrieveEnd t job) s = execRetrieveEnd t job s := rfl
    have passed : s.advance t = w := rfl
    have ended : ¬ (w.jobWaits j || !(j.cancelled || w.jobDone j)) = true := by simpa [delivered, or_iff_not_imp_left] using finished
    simp only [meaning, execRetrieveEnd, passed, listed, if_neg ended]
    refine ⟨fun toSession => ?_, fun toRing written => ?_⟩
    · exact congrArg Host.Outcome.next (if_neg (by simpa using toSession))
    · exact congrArg Host.Outcome.next ((if_pos (by simpa using toRing)).trans (if_pos (by simpa using written)))

end Sys2Proof
end

section
/-!
PROOFS. Rings and their interrupts, the ports' links, requests from the network and supervision frames (R328, R329, R331 to R335).
-/
namespace Sys2Proof.Machine

/-- A request that a port hears, with its redundancy control trailer taken where the redundancy box is on: true where it is a duplicate
(R329). -/
def State.trailerTaken (w : State) (port : Nat) (rct : Option (Nat × Nat × Nat)) : State × Bool :=
  match rct with
  | some (node, n, lan) => if port < 2 && w.pB K.atomPrpEn then w.prpReceive port node n lan else (w, false)
  | none => (w, false)

/-- The state in which an answer has left (R328). -/
def State.answered (u : State) (port : Nat) : State :=
  (u.modAtom fun a => { a with wire := some (port, []) }).perfEvent 0x0701 port 0xFF 1

/-- The state in which the sender's address is known (R328). -/
def State.senderKnown (u : State) (port src : Nat) : State :=
  if u.atom.resolved.contains (port, src) then u else u.modAtom fun a => { a with resolved := (port, src) :: a.resolved }

/-- A session sends to the group asked for (R331). -/
def State.sendsToGroup (u : State) (port addr : Nat) : Bool :=
  u.atom.sessions.any fun x => x.transport == 1 && bit x.ports port && (addr == 0 || x.dest == addr)

/-- A heard request that is no duplicate is answered for the device's own addresses and groups (R328, R331). -/
theorem execNetworkRequest_heard {s w : State} {t : Tick} {port : Nat} (kind addr src : Nat) (rct : Option (Nat × Nat × Nat))
    (passed : s.advance t = w) (known : port < 3) (runs : w.portRuns port = true) (linked : (w.port port).link = true) :
    execNetworkRequest t port kind addr src rct s = .next (
      let u := (w.trailerTaken port rct).1
      if (w.trailerTaken port rct).2 then u
      else if 3 ≤ port || !u.portRuns port || !(u.port port).link || 4 ≤ kind then u
      else if kind < 3 && (u.portAddrs port).contains addr then (u.senderKnown port src).answered port
      else if kind == 3 && u.sendsToGroup port addr then u.answered port
      else u) := by
  have hears : (decide (port < 3) && w.portRuns port && (w.port port).link) = true := by simp [known, runs, linked]
  cases rct with
  | none => simp only [execNetworkRequest, passed]; rfl
  | some trailer => simp only [execNetworkRequest, passed, hears, Bool.true_and]; rfl

end Sys2Proof.Machine

namespace Sys2Proof
open Machine

/-- Settles O43: each command turns on its guard; a heard request turns on its trailer, its kind and its address. (That answers and
supervision frames leave no bytes is log 45; which requests are duplicates is log 124.) -/
theorem ringAndPortCommandsComplete : Obligations.RingAndPortCommandsComplete := by
  unfold Obligations.RingAndPortCommandsComplete
  refine ⟨?enable, ?interrupt, fun s t port up => rfl, ?request, ?supervision⟩
  case enable =>
    intro s t ring v w
    exact ⟨fun up => congrArg Host.Outcome.next (if_pos up), fun down => congrArg Host.Outcome.next (if_neg (ne_true_of_eq_false down))⟩
  case interrupt =>
    intro s t ring w waits spaced
    exact congrArg Host.Outcome.next (if_pos (Bool.and_eq_true_iff.mpr ⟨waits, spaced⟩))
  case request =>
    intro s t port kind addr src rct w r u answers known runs linked
    have taken : exec (.networkRequest t port kind addr src rct) s = .next (
        if r.2 then u
        else if 3 ≤ port || !u.portRuns port || !(u.port port).link || 4 ≤ kind then u
        else if kind < 3 && (u.portAddrs port).contains addr then answers (u.senderKnown port src)
        else if kind == 3 && u.sendsToGroup port addr then answers u
        else u) :=
      execNetworkRequest_heard kind addr src rct rfl known runs linked
    rw [taken]
    refine ⟨fun duplicate => congrArg Host.Outcome.next (if_pos duplicate), fun single running up => ?_⟩
    rw [if_neg (ne_true_of_eq_false single)]
    have heard (low : kind < 4) : ¬ (decide (3 ≤ port) || !u.portRuns port || !(u.port port).link || decide (4 ≤ kind)) = true := by
      simp [known, running, up, low]
    refine ⟨fun plain own resolved => ?_, fun plain own fresh => ?_, fun query member => ?_, fun plain foreign => ?_⟩
    · rw [if_neg (heard (by omega)), if_pos (by simpa [plain] using own), State.senderKnown, if_pos resolved]
    · rw [if_neg (heard (by omega)), if_pos (by simpa [plain] using own), State.senderKnown, if_neg (ne_true_of_eq_false fresh)]
    · have asked : (kind == 3 && u.sendsToGroup port addr) = true := Bool.and_eq_true_iff.mpr ⟨beq_iff_eq.mpr query, member⟩
      rw [if_neg (heard (by omega)), if_neg (by simp [query]), if_pos asked]
    · rw [if_neg (heard (by omega)), if_neg (by simpa [plain] using foreign),
        if_neg (by simp only [Bool.and_eq_true, beq_iff_eq]; omega)]
  case supervision =>
    intro s t w redundant up due
    have meaning : exec (.prpSupervision t) s = execPrpSupervision t s := rfl
    have passed : s.advance t = w := rfl
    have sends : ¬ (!w.pB K.atomPrpEn || !w.active || decide (w.now < w.atom.prpAt + msT (w.p K.atomPrpLifecheckMs))) = true := by
      simpa [redundant, up] using due
    simp only [meaning, execPrpSupervision, passed, if_neg sends]

end Sys2Proof
end

section
/-!
PROOFS. PTP messages, holdover and ageing, each where the guard of its command passes (R330, R366 to R372).
-/
namespace Sys2Proof
open Machine

/-- Settles O44: an announcement turns on whether its best master is the one that is followed, a Sync on the port's state, how large
its offset is and whether a run is on, and an ageing step on the PTP state. (How masters compare and when one is dropped is log 125;
LOCKED lost at one Sync and the sign of the asymmetry are log 29.) -/
theorem deviceTimeCommandsComplete : Obligations.DeviceTimeCommandsComplete := by
  unfold Obligations.DeviceTimeCommandsComplete
  refine ⟨?announce, ?sync, ?act, ?holdover, ?ageing⟩
  case announce =>
    intro s t port domain ipv6 master quality utc m w new all v mode listens sameDomain transport best
    have meaning : exec (.ptpAnnounce t port domain ipv6 master quality utc) s =
        execPtpAnnounce t port domain ipv6 master quality utc s := rfl
    have passed : s.advance t = w := rfl
    have heard : ¬ (w.p K.timePtpMode == 0 || !w.ptpPort port || domain != w.p K.timePtpDomain ||
        b2n ipv6 != w.p K.timePtpTransport) = true := by
      simp [mode, listens, sameDomain, transport]
    have chosen : exec (.ptpAnnounce t port domain ipv6 master quality utc) s = .next (
        if (w.time.ptpMaster == some (m.port, m.master) && w.time.ptpState != 0) = true then v else v.ptpGo 1) := by
      simp only [meaning, execPtpAnnounce, passed, if_neg heard]
      rw [best]
      rfl
    rw [chosen]
    refine ⟨fun same starts => ?_, fun changes => ?_⟩
    · exact congrArg Host.Outcome.next (if_pos (by simp [same, starts]))
    · refine congrArg Host.Outcome.next (if_neg ?_)
      simpa [imp_iff_not_or] using changes
  case sync =>
    intro s t offPs interval port master w off followed mode listens
    have meaning : exec (.ptpSync t port master offPs interval) s = execPtpSync t port master offPs interval s := rfl
    have passed : s.advance t = w := rfl
    have heard : ¬ (w.p K.timePtpMode == 0 || !w.ptpPort port || (port, master) != (port, master)) = true := by
      simp [mode, listens]
    simp only [meaning, execPtpSync, passed, followed, if_neg heard]
    rfl
  case act =>
    intro v off big good
    have starting (starts : v.time.ptpState = 1) (large : big) : (v.time.ptpState == 1 && decide big) = true :=
      Bool.and_eq_true_iff.mpr ⟨beq_iff_eq.mpr starts, decide_eq_true large⟩
    refine ⟨fun starts large idle => ?_, fun starts large runs => ?_, fun small => ?_⟩
    · exact if_pos (Bool.and_eq_true_iff.mpr ⟨starting starts large, beq_iff_eq.mpr idle⟩)
    · intro u
      exact (if_neg fun both => runs (beq_iff_eq.mp (Bool.and_eq_true_iff.mp both).2)).trans (if_pos (starting starts large))
    · intro u
      have steers : ¬ (v.time.ptpState == 1 && decide big) = true := by
        rw [Bool.and_eq_true_iff, beq_iff_eq, decide_eq_true_iff]
        exact not_and_or.mpr small
      have steered : v.ptpAct off =
          if (u.time.ptpState == 1 && decide (16 ≤ u.time.ptpGood)) = true then u.ptpGo 2
          else if (u.time.ptpState == 2 && !decide good) = true then u.ptpGo 1
          else u :=
        (if_neg fun both => steers (Bool.and_eq_true_iff.mp both).1).trans (if_neg steers)
      rw [steered]
      refine ⟨fun starts enough => ?_, fun locked far => ?_, fun locked near => ?_⟩
      · exact if_pos (Bool.and_eq_true_iff.mpr ⟨beq_iff_eq.mpr starts, decide_eq_true enough⟩)
      · rw [if_neg (by simp [locked]), if_pos (by rw [locked, decide_eq_false far]; rfl)]
      · rw [if_neg (by simp [locked]), if_neg (by rw [locked, decide_eq_true near]; decide)]
  case holdover =>
    intro s t w locked late
    exact congrArg Host.Outcome.next (if_pos (Bool.and_eq_true_iff.mpr ⟨beq_iff_eq.mpr locked, decide_eq_true late⟩))
  case ageing =>
    intro s t w d
    have stepped : exec (.ageingStep t) s = .next (
        if (d == 0 || !w.spaced w.time.ageAt (msT 1)) = true then w
        else if (w.time.ptpState == 2) = true then w.settle.modTime fun b =>
          { b with ageing := b.ageing + d, ageAt := some w.now, ptpFreq := b.ptpFreq - d, ptpRate := b.ptpRate + d }
        else w.modTime fun b => { b with ageing := b.ageing + d, ageAt := some w.now }) := rfl
    rw [stepped]
    refine ⟨fun still => ?_, fun moves spaced => ?_⟩
    · refine congrArg Host.Outcome.next (if_pos ?_)
      simpa using still
    · rw [if_neg (by simp [moves, spaced])]
      exact ⟨fun locked => by rw [if_pos (beq_iff_eq.mpr locked)], fun free => by rw [if_neg (by simpa using free)]⟩

end Sys2Proof
end

section
/-!
PROOFS. TIU_MEASURE, TIME_SET, TWIN_STATUS and TWIN_CONTROL past their gates (R369, R377, R378, R381, R402, R403).
-/
namespace Sys2Proof.Machine

section
variable (s : State) (t : Tick)

@[simp] theorem State.advance_time : (s.advance t).time = s.time := by
  obtain ⟨ps, h⟩ := s.advance_eq t
  rw [h]

@[simp] theorem State.advance_twin : (s.advance t).twin = s.twin := by
  obtain ⟨ps, h⟩ := s.advance_eq t
  rw [h]

variable (q : Req)

@[simp] theorem State.opened_time : (s.opened t q).time = s.time := s.advance_time t

@[simp] theorem State.opened_twin : (s.opened t q).twin = s.twin := s.advance_twin t

end

end Sys2Proof.Machine

namespace Sys2Proof
open Machine

/-- Settles O12: past its gate each request turns on its payload, and TIU_MEASURE also on whether the unit is free, TIME_SET on PTP and
the run, TWIN_CONTROL on the link. -/
theorem timeAndTwinRequestsComplete : Obligations.TimeAndTwinRequestsComplete := by
  unfold Obligations.TimeAndTwinRequestsComplete
  refine ⟨?measure, ?timeSet, ?status, ?control⟩
  case measure =>
    intro s t q admitted length atLeast most start stop mode arm plain gate period preStart preStop awake running free id v j
    have opened := State.gate_opened admitted t 0x0090
    have meaning : exec (.tiuMeasure t q) s = .next ((s.advance t).tiuMeasure q) := rfl
    rw [meaning, State.tiuMeasure, opened]
    refine congrArg Host.Outcome.next ((if_neg ?wellFormed).trans ((if_neg ?ready).trans ((if_neg ?idle).trans ?_)))
    case wellFormed =>
      have differs : (payU q 2 1 % 16 == 2) = (payU q 0 1 == payU q 1 1) := by
        rw [Bool.eq_iff_iff, beq_iff_eq, beq_iff_eq]
        exact period
      have counted : ¬ payU q 4 4 = 0 ∧ payU q 4 4 ≤ 16777216 := by omega
      simpa [length, start, stop, mode, arm, differs, counted, Nat.not_le.mpr plain, Nat.not_le.mpr gate] using
        And.intro preStart preStop
    case ready => simpa [State.active, awake] using running
    case idle => simp [free]
    simp only [beq_iff_eq]
    rfl
  case timeSet =>
    intro s t q admitted length zero noPtp w
    have opened := State.gate_opened admitted t 0x0091
    have meaning : exec (.timeSet t q) s = .next ((s.advance t).timeSet q) := rfl
    rw [meaning, State.timeSet, opened]
    have wellFormed (known : payU q 8 1 ≤ 1) : ¬ (payLen q != 12 || decide (1 < payU q 8 1) || payU q 9 3 != 0) = true := by
      simp [length, zero, known]
    refine ⟨fun step idle => ?_, fun slew => ?_⟩
    · refine congrArg Host.Outcome.next ((if_neg (wellFormed (by omega))).trans ((if_neg (by simp [noPtp, idle])).trans ?_))
      dsimp only
      rw [if_pos (beq_iff_eq.mpr step)]
      rfl
    · refine congrArg Host.Outcome.next ((if_neg (wellFormed (by omega))).trans ((if_neg (by simp [noPtp, slew])).trans ?_))
      dsimp only
      rw [if_neg (by simp [slew])]
      rfl
  case status =>
    intro s t q admitted length w
    have opened := State.gate_opened admitted t 0x00A0
    have meaning : exec (.twinStatus t q) s = .next ((s.advance t).twinStatus q) := rfl
    rw [meaning, State.twinStatus, opened]
    exact congrArg Host.Outcome.next (if_neg (by simp [length]))
  case control =>
    intro s t q admitted length zero linked w
    have opened := State.gate_opened admitted t 0x00A1
    have meaning : exec (.twinControl t q) s = .next ((s.advance t).twinControl q) := rfl
    rw [meaning, State.twinControl, opened]
    refine ⟨fun resync bare joined => ?_, fun leave bare => ?_, fun dark value => ?_⟩
    · refine congrArg Host.Outcome.next ((if_neg ?wellFormed).trans ((if_neg (by simp [joined])).trans ?_))
      case wellFormed => simp [length, zero, resync, bare]
      rw [resync]
      rfl
    · refine congrArg Host.Outcome.next ((if_neg ?wellFormed).trans ((if_neg (by simp [leave, linked])).trans ?_))
      case wellFormed => simp [length, zero, leave, bare]
      rw [leave]
      rfl
    · refine congrArg Host.Outcome.next ((if_neg ?wellFormed).trans ((if_neg (by simp [dark, linked])).trans ?_))
      case wellFormed => simp [length, zero, dark, value]
      rw [dark]
      rfl

end Sys2Proof
end

section
/-!
PROOFS. The time-interval unit and the pair's synchronisation, each where the guard of its command passes (R373 to R376, R378 to R380,
R382, R383).
-/
namespace Sys2Proof
open Machine

/-- Settles O45: an edge turns on its source and its direction, and its stamp on the source's last edge; the other commands on their
guards. (That a gate's level is that of its last edge is log 30.) -/
theorem intervalAndPairTimeCommandsComplete : Obligations.IntervalAndPairTimeCommandsComplete := by
  unfold Obligations.IntervalAndPairTimeCommandsComplete
  refine ⟨?edge, ?prescaled, ?stamped, ?arm, fun s t => rfl, ?timeout, ?table, ?drive, ?pulse, ?deadline⟩
  case edge =>
    intro s t source rising w v
    have judged : exec (.tiuInputEdge t source rising) s = .next (
        let u := if source < 8 then v else w
        if source < 8 then (if rising == u.tiuDirection source then u.tiuEdge source u.now else u)
        else if 10 ≤ source && source ≤ 14 then (if rising == u.tiuDirection source then u.tiuBuffered source else u)
        else if source == 16 && u.dev % 1000000000 == 0 then u.tiuEdge 16 u.now
        else u) := rfl
    rw [judged]
    refine ⟨fun pin direction => ?_, fun lowest highest direction => ?_, fun pps whole => ?_⟩
    · simp only [if_pos pin]
      exact congrArg Host.Outcome.next (if_pos (beq_iff_eq.mpr direction))
    · have internal : ¬ source < 8 := by omega
      have buffered : (decide (10 ≤ source) && decide (source ≤ 14)) = true := by simp [lowest, highest]
      simp only [if_neg internal, if_pos buffered]
      exact congrArg Host.Outcome.next (if_pos (beq_iff_eq.mpr direction))
    · subst pps
      exact congrArg Host.Outcome.next (if_pos (Bool.and_eq_true_iff.mpr ⟨rfl, beq_iff_eq.mpr whole⟩))
  case prescaled =>
    intro s source at_ j w runs measuring
    have taken : s.tiuTake = w := rfl
    simp only [State.tiuEdge, runs, taken, measuring, Bool.not_true, Bool.false_eq_true, if_false]
  case stamped =>
    intro w source at_ j early v
    have passes : ¬ ((w.modTime fun b => { b with tiu := some j }).prescaled source && !true) = true := by simp
    have stamps : w.tiuStamped source at_ (some (j, true)) =
        if early = true then v.bump K.timeTiuOverrun
        else (v.perfEvent 0x0B01 source 0xFF 1).modTime fun b => { b with tiu := some (j.edge source (stampOf source at_)) } :=
      if_neg passes
    exact ⟨fun soon => stamps.trans (if_pos soon), fun apart => stamps.trans (if_neg (ne_true_of_eq_false apart))⟩
  case arm =>
    intro s t j w measuring disarmed from_ cause
    have meaning : exec (.tiuArm t) s = execTiuArm t s := rfl
    have passed : s.advance t = w := rfl
    simp only [meaning, execTiuArm, passed, measuring, disarmed]
    refine congrArg Host.Outcome.next (if_neg ?_)
    obtain ⟨arm, runs, boundary⟩ | ⟨arm, second⟩ | ⟨arm, high⟩ := cause
    · simp [arm, runs, boundary, from_]
    · simp [arm, second, from_]
    · simp [arm, high, from_]
  case timeout =>
    intro s t j a w measuring armed due
    have meaning : exec (.tiuTimeout t) s = execTiuTimeout t s := rfl
    have passed : (s.advance t).tiuTake = w := rfl
    simp only [meaning, execTiuTimeout, passed, measuring, armed, if_pos due]
  case table =>
    intro s t temp w runs moved
    have meaning : exec (.tiuCodeDensityTest t temp) s = execTiuCodeDensityTest t temp s := rfl
    have passed : s.advance t = w := rfl
    simp only [meaning, execTiuCodeDensityTest, passed]
    refine congrArg Host.Outcome.next (if_pos (Bool.and_eq_true_iff.mpr ⟨?_, runs⟩))
    obtain new | ⟨x, old, far⟩ := moved
    · rw [new]
    · rw [Option.mem_def] at old
      rw [old]
      exact decide_eq_true far
  case drive =>
    intro s t w synchronises half
    exact congrArg Host.Outcome.next (if_pos (Bool.and_eq_true_iff.mpr ⟨synchronises, beq_iff_eq.mpr half⟩))
  case pulse =>
    intro s t w d sec u stamp v synchronises heard near past
    have second : (w.pairsync && decide (w.time.psIgnore ≤ w.now) && decide (d % 1000000000 ≤ 2000000) &&
        decide (1000000000 + 1000000 ≤ d)) = true := by
      simp only [synchronises, heard, near, past, decide_true, Bool.and_self]
    have pulsed : exec (.pairsyncPulse t) s = .next (if 2 ≤ v.twin.link then v.linkWire (v.linkFrame 7 false 0
        (leBytes 8 sec ++ leBytes 8 (stamp / 65536) ++ leBytes 2 (stamp % 65536) ++ leBytes 2 0)) else v).psTry :=
      congrArg Host.Outcome.next (if_pos second)
    rw [pulsed]
    exact ⟨fun alone => by rw [if_neg (Nat.not_le.mpr alone)], fun linked => by rw [if_pos linked]⟩
  case deadline =>
    intro s t w had v synchronises late
    have due : ¬ (!w.pairsync || decide (w.dev % 1000000000 < 900000000)) = true := by simp [synchronises, late]
    have judged : exec (.pairsyncResultDeadline t) s = .next (
        if (w.time.psDone == some (w.dev / 1000000000)) = true then w.modTime fun b => { b with psOwn := none, psPeer := none }
        else if (decide (3 ≤ v.time.psMiss) && !v.time.psRaised) = true then
          (v.modTime fun b => { b with psRaised := true }).health 19 0 0 0xFF
        else v) := congrArg Host.Outcome.next (if_neg due)
    rw [judged]
    refine ⟨fun result => ?_, fun missed third quiet => ?_, fun missed goes => ?_⟩
    · rw [if_pos (beq_iff_eq.mpr result)]
    · rw [if_neg fun result => missed (beq_iff_eq.mp result), if_pos (by simp [third, quiet])]
    · rw [if_neg fun result => missed (beq_iff_eq.mp result), if_neg]
      obtain few | told := goes
      · simp [Nat.not_le.mpr few]
      · simp [told]

end Sys2Proof
end

section
/-!
PROOFS. The frames of the peer where they are heard and, but for heartbeats and the pair's frames, in order (R382, R387 to R391, R394,
R395, R398 to R400).
-/
namespace Sys2Proof
open Machine

/-- Settles O47: a heartbeat turns on the link and on whether the two devices agree; every other frame is heard in order, and then the
zone, or the link, that it is about decides. (Which records an accepted HANDBACK sends is log 9.) -/
theorem linkFramesComplete : Obligations.LinkFramesComplete := by
  unfold Obligations.LinkFramesComplete
  refine ⟨?heartbeat, ?reliable, ?pairsync⟩
  case heartbeat =>
    intro s t h leaving caps hold loss dark w taken
    have meaning : exec (.heartbeat t h leaving caps hold loss dark) s = .next (
        if (w.twin.link == 0 || !w.lane) = true then w
        else if (h.ident == w.twinId || hold != w.p K.twinHoldMs || loss != w.p K.twinHbLossUs) = true then
          if w.twin.conflictTold then w else (w.modTwin fun x => { x with conflictTold := true }).twinRecord 2 4
        else if (w.twin.link == 1) = true then
          if leaving then w.modTwin fun x => { x with conflictTold := false } else (taken w).join h
        else w.linkIn h false fun v => if leaving then (taken v).linkDown 2 else (taken v).tryPair.ownership) := rfl
    have live (linked : w.twin.link ≠ 0) (lane : w.lane = true) : ¬ (w.twin.link == 0 || !w.lane) = true := by
      simp only [lane, Bool.not_true, Bool.or_false, beq_iff_eq, linked, not_false_iff]
    rw [meaning]
    refine ⟨fun linked lane conflict untold => ?_, fun other holds losses => ?_⟩
    · have differs : (h.ident == w.twinId || hold != w.p K.twinHoldMs || loss != w.p K.twinHbLossUs) = true := by
        simpa only [Bool.or_eq_true, beq_iff_eq, bne_iff_ne, or_assoc] using conflict
      rw [if_neg (live linked lane), if_pos differs, if_neg (ne_true_of_eq_false untold)]
    · have agrees : ¬ (h.ident == w.twinId || hold != w.p K.twinHoldMs || loss != w.p K.twinHbLossUs) = true := by
        simp only [Bool.or_eq_true, beq_iff_eq, bne_iff_ne, not_or, not_not]
        exact ⟨⟨other, holds⟩, losses⟩
      have heard (hears : w.Hears h) : ¬ (w.twin.link == 0 || !w.lane) = true ∧ ¬ (w.twin.link == 1) = true := by
        obtain ⟨linked, _, lane, _⟩ := hears
        exact ⟨live (by omega) lane, by rw [beq_iff_eq]; omega⟩
      refine ⟨fun alone lane stays => ?_, fun hears stays => ?_, fun hears leaves => ?_⟩
      · rw [if_neg (live (by omega) lane), if_neg agrees, if_pos (beq_iff_eq.mpr alone), if_neg (ne_true_of_eq_false stays)]
      · rw [if_neg (heard hears).1, if_neg agrees, if_neg (heard hears).2, State.linkIn_any hears,
          if_neg (ne_true_of_eq_false stays)]
      · rw [if_neg (heard hears).1, if_neg agrees, if_neg (heard hears).2, State.linkIn_any hears, if_pos leaves]
  case reliable =>
    intro s t h w v hears order
    have takes (body : State → State) : w.linkIn h true body = body v := State.linkIn_reliable hears order body
    refine ⟨fun recs => ?_, fun first next => ?_, fun first entries => ?_, fun zone next joined owns paired => ?_,
      fun zone handing => ?_, fun joined => ?_, fun joining => ?_⟩
    · exact congrArg Host.Outcome.next (takes _)
    · exact congrArg Host.Outcome.next (takes _)
    · exact congrArg Host.Outcome.next (takes _)
    · refine congrArg Host.Outcome.next ((takes _).trans ?_)
      have takesOver : (v.twin.link == 3 && v.ownsZone zone && (v.zone zone).paired) = true := by
        simp only [joined, owns, paired, beq_self_eq_true, Bool.and_self]
      simp only [if_pos takesOver]
    · refine congrArg Host.Outcome.next ((takes _).trans ?_)
      simp only [if_pos handing]
    · refine congrArg Host.Outcome.next ((takes _).trans ?_)
      simp only [if_pos (beq_iff_eq.mpr joined)]
    · refine congrArg Host.Outcome.next ((takes _).trans ?_)
      have alone : ¬ (v.twin.link == 3) = true := fun joined => joining (beq_iff_eq.mp joined)
      simp only [if_neg alone]
  case pairsync =>
    intro s t h sec stamp frac w v hears synchronises early second
    have meaning : exec (.pairsyncFrame t h sec stamp frac) s = execPairsyncFrame t h sec stamp frac s := rfl
    have timely : (v.pairsync && decide (v.dev % 1000000000 < 900000000) && sec == v.dev / 1000000000) = true := by
      simp only [synchronises, early, decide_true, Bool.true_and]
      exact beq_iff_eq.mpr second
    rw [meaning, execPairsyncFrame, State.linkIn_any hears]
    exact congrArg Host.Outcome.next (if_pos timely)

end Sys2Proof
end

section
/-!
PROOFS. The twin link's own times, promotion, dark returns and handbacks, each where the guard of its command passes (R388 to R390, R392,
R394 to R396, R398 to R400).
-/
namespace Sys2Proof
open Machine

/-- Settles O48: each command's guard on the state that time has passed to, and for zones with its dark ones refreshed; frames sent
again turn on whether one has been sent often enough, promotion on whether a zone is left for it. -/
theorem linkTimersAndOwnershipComplete : Obligations.LinkTimersAndOwnershipComplete := by
  unfold Obligations.LinkTimersAndOwnershipComplete
  refine ⟨?timers, ?resend, fun s t => ⟨rfl, rfl⟩, ?promotion, ?darkReturn, ?handback⟩
  case timers =>
    intro s t w
    refine ⟨fun lane => ?_, fun lane linked stays due => ?_, fun a heard linked late => ?_, fun joining late => ?_⟩
    · exact congrArg Host.Outcome.next (if_pos lane)
    · have sends : ¬ (!w.lane || w.twin.link == 0 || w.sys.resetDue.isSome || decide (w.now < w.twin.hbSent + usT (w.p K.twinHbUs))) =
          true := by
        rw [stays, decide_eq_false (Nat.not_lt.mpr due)]
        simp only [lane, Bool.not_true, Bool.false_or, Option.isSome_none, Bool.or_false, beq_iff_eq, linked, not_false_iff]
      exact congrArg Host.Outcome.next (if_neg sends)
    · have meaning : exec (.heartbeatLoss t) s = execHeartbeatLoss t s := rfl
      have passed : s.advance t = w := rfl
      have lost : (decide (w.twin.link ≥ 2) && decide (a + usT (w.p K.twinHbLossUs) ≤ w.now)) = true :=
        Bool.and_eq_true_iff.mpr ⟨decide_eq_true linked, decide_eq_true late⟩
      simp only [meaning, execHeartbeatLoss, passed, heard, if_pos lost]
    · exact congrArg Host.Outcome.next (if_pos (Bool.and_eq_true_iff.mpr ⟨beq_iff_eq.mpr joining, decide_eq_true late⟩))
  case resend =>
    intro s t w due v u gone linked lane
    have live : ¬ (decide (w.twin.link < 2) || !w.lane) = true := by
      simp only [lane, Bool.not_true, Bool.or_false, decide_eq_true_iff, Nat.not_lt, linked]
    have resent : exec (.twinRetx t) s = .next (if (gone == 0) = true then u else
        (((u.count K.twinRetxFail gone).modTwin fun x => { x with resyncNext := true }).linkDrain 64).exchange) :=
      congrArg Host.Outcome.next (if_neg live)
    rw [resent]
    refine ⟨fun spared => ?_, fun lost => ?_⟩
    · rw [if_pos (beq_iff_eq.mpr spared)]
    · rw [if_neg fun spared => lost (beq_iff_eq.mp spared)]
  case promotion =>
    intro s t w due zs v
    have promoted : exec (.promotion t) s =
        .next (if zs.isEmpty = true then v else (zs.foldl State.promote v).twinRecord 3 zs.length) := rfl
    rw [promoted]
    refine ⟨fun empty => ?_, fun left => ?_⟩
    · rw [if_pos (List.isEmpty_iff.mpr empty)]
    · rw [if_neg fun empty => left (List.isEmpty_iff.mp empty)]
  case darkReturn =>
    intro s t zone d w defined dark lit quiet
    have meaning : exec (.darkReturn t zone) s = execDarkReturn t zone s := rfl
    have passed : (s.advance t).refreshDark = w := rfl
    have returns : ((w.zone zone).dark && !w.darkCond d && decide ((w.zone zone).darkAt + secT (w.p K.twinReturnS) ≤ w.now)) = true := by
      simp only [dark, lit, quiet, Bool.not_false, decide_true, Bool.and_self]
    simp only [meaning, execDarkReturn, passed, defined, if_pos returns]
  case handback =>
    intro s t zone w x joined paired taken idle lit peerLit
    have gives : (w.twin.link == 3 && x.paired && x.taken && !x.handing && !w.isDark zone && !w.twin.peerDark.contains zone) = true := by
      simp only [joined, paired, taken, idle, lit, peerLit, beq_self_eq_true, Bool.not_false, Bool.and_self]
    exact congrArg Host.Outcome.next (if_pos gives)

end Sys2Proof
end

section
/-!
PROOFS. INST_READ and INST_INJECT past their gates (R413, R414, R416, R420 to R422).
-/
namespace Sys2Proof
open Machine

/-- Settles O11: past its gate INST_READ turns on its payload alone, INST_INJECT also on its configuration and on whether the host's
conversion waits or runs. -/
theorem instRequestsComplete : Obligations.InstRequestsComplete := by
  unfold Obligations.InstRequestsComplete
  refine ⟨?read, ?inject⟩
  case read =>
    intro s t q admitted length chosen restart zero w ins cleared v
    have opened := State.gate_opened admitted t 0x0080
    have meaning : exec (.instRead t q) s = .next ((s.advance t).instRead q) := rfl
    have wellFormed : ¬ (payLen q != 4 || payU q 0 2 == 0 || decide (1 < payU q 2 1) || payU q 3 1 != 0) = true := by
      simp [length, restart, zero]
      omega
    rw [meaning, State.instRead, opened]
    refine congrArg Host.Outcome.next ((if_neg wellFormed).trans ?_)
    simp only [beq_iff_eq]
    rfl
  case inject =>
    intro s t q admitted length input zero filter excitation w id config runs
    have opened := State.gate_opened admitted t 0x0081
    have meaning : exec (.instInject t q) s = .next ((s.advance t).instInject q) := rfl
    have wellFormed : ¬ (payLen q != 4 || decide (15 < payU q 0 1) || payU q 1 1 / 16 % 8 != 0 || decide (64 ≤ payU q 2 1) ||
        decide (64 ≤ payU q 3 1) || !w.cfgOk (payU q 0 1) (w.injectCfg q)) = true := by
      simp [length, input, zero, Nat.not_le.mpr filter, Nat.not_le.mpr excitation, config]
    have powered : ¬ (!w.instRuns) = true := by simp [runs]
    have injected : exec (.instInject t q) s = .next (if w.reqBusy 5 = true then w.final id .busy []
        else ({ w.takes id with inst := { (w.takes id).inst with hostReq := some id } }).inject 5 (payU q 0 1) (w.injectCfg q)
          (bit (payU q 3 1) 2)) := by
      rw [meaning, State.instInject, opened]
      exact congrArg Host.Outcome.next ((if_neg wellFormed).trans (if_neg powered))
    rw [injected]
    exact ⟨fun busy => by rw [if_pos busy], fun free => by rw [if_neg (ne_true_of_eq_false free)]⟩

end Sys2Proof
end

section
/-!
PROOFS. Conversions, input faults, fallbacks, analogue windows and fast outputs, each where the guard of its command passes (R406 to R409,
R411, R412, R418, R419, R423, R424, R426, R427).
-/
namespace Sys2Proof
open Machine

/-- Settles O49: a result turns on the chopper and on the time since the settling began, an input fault on its kind and on what drives
the input; the other commands on their guards. -/
theorem instrumentCommandsComplete : Obligations.InstrumentCommandsComplete := by
  unfold Obligations.InstrumentCommandsComplete
  refine ⟨?result, ?complete, ?fault, fun s t input => rfl, ?window, ?returns, ?outputs⟩
  case result =>
    intro s t code chop c w pre running dwells
    have passed : s.advance t = w := rfl
    have meaning : exec (.conversionResult t code chop) s = .next (
        if (chop && w.pB K.instFallbackAuto && !cfgPath c.cfg && !c.fallback) = true then (w.chopperFault c).endConv
        else if c.settleAt + usT (w.settleUs pre + c.outs * w.outputUs pre) ≤ w.now then (w.chopperGood c).convResult c code false
        else if (cfgCoarse c.cfg && c.outs == 0 && decide (c.settleAt + usT (400 + c.coarse * 100) ≤ w.now) &&
            decide (w.now < c.settleAt + usT (w.settleUs pre)) && c.req % 5 == 0) = true then w.convResult c code true
        else w) := by
      have unfolded : exec (.conversionResult t code chop) s = execConversionResult t code chop s := rfl
      simp only [unfolded, execConversionResult, passed, running, if_neg (Nat.not_le.mpr dwells)]
      rfl
    rw [meaning]
    refine ⟨fun faulty auto chopped first => ?_, fun good => ?_⟩
    · rw [if_pos (by simp only [faulty, auto, chopped, first, Bool.not_false, Bool.and_self])]
    · have converts : ¬ (chop && w.pB K.instFallbackAuto && !cfgPath c.cfg && !c.fallback) = true := by
        obtain still | back := good
        · simp only [still, Bool.false_and, Bool.false_eq_true, not_false_iff]
        · simp only [back, Bool.not_true, Bool.and_false, Bool.false_eq_true, not_false_iff]
      rw [if_neg converts]
      refine ⟨fun settled => by rw [if_pos settled], fun first coarse sooner settling scan => ?_⟩
      have early : ¬ c.settleAt + usT (w.settleUs pre + c.outs * w.outputUs pre) ≤ w.now := by
        rw [first, Nat.zero_mul, Nat.add_zero]
        exact Nat.not_le.mpr settling
      rw [if_neg early, if_pos]
      simp only [coarse, first, sooner, settling, scan, decide_true, beq_self_eq_true, Bool.and_self]
  case complete =>
    intro s t w
    have meaning : exec (.conversionComplete t) s = execConversionComplete t s := rfl
    have passed : s.advance t = w := rfl
    refine ⟨fun c running ends => ?_, fun idle waits => ?_⟩
    · simp only [meaning, execConversionComplete, passed, running, if_pos ends]
    · have goesOn : ¬ (w.inst.queue.isEmpty && w.nextScan.isNone) = true := by
        rw [Bool.and_eq_true_iff, List.isEmpty_iff, Option.isNone_iff_eq_none, not_and_or]
        exact waits.imp id Option.isSome_iff_ne_none.mp
      simp only [meaning, execConversionComplete, passed, idle, if_neg goesOn]
  case fault =>
    intro s t kind c w ends running dwells
    have meaning : exec (.inputFault t kind) s = execInputFault t kind s := rfl
    have passed : s.advance t = w := rfl
    have faulted {brk volt : Bool} (isBreak : (kind != 1 && (cfgExc c.cfg != 0 || cfgBurnout c.cfg != 0)) = brk)
        (isVolt : (kind == 1 || kind == 2) = volt) (any : (brk || volt) = true) :
        exec (.inputFault t kind) s = .next (ends (
          let u := if brk then w.convFlag c 0 else w
          if volt then u.convFlag c 1 else u)) := by
      have flags : ¬ ((!brk && !volt) || decide (cfgDwell c.cfg ≤ c.given)) = true := by
        rw [← Bool.not_or, any, decide_eq_false (Nat.not_le.mpr dwells)]
        decide
      simp only [meaning, execInputFault, passed, running, isBreak, isVolt, if_neg flags]
      rfl
    refine ⟨fun isBreak driven => ?_, fun isVolt => ?_, fun both driven => ?_, fun both noCurrent noBurnout => ?_⟩
    · subst isBreak
      exact faulted (brk := true) (volt := false) (by simpa using driven) rfl rfl
    · subst isVolt
      exact faulted (brk := false) (volt := true) rfl rfl rfl
    · subst both
      exact faulted (brk := true) (volt := true) (by simpa using driven) rfl rfl
    · subst both
      exact faulted (brk := false) (volt := true) (by simp [noCurrent, noBurnout]) rfl rfl
  case window =>
    intro s t left n above w known up enabled inside lasts
    have leaves : (decide (n < 4) && decide (1 ≤ w.clk.mode) && bit (w.p K.instWinEnable) n && !nth false w.inst.outside n &&
        decide (max left (nth 0 w.inst.winSince n) + usT (w.p K.instWinFilterUs) ≤ w.now)) = true := by
      simp only [known, up, enabled, inside, lasts, decide_true, Bool.not_false, Bool.and_self]
    exact congrArg Host.Outcome.next (if_pos leaves)
  case returns =>
    intro s t n w known up enabled outside lasts
    have enters : (decide (n < 4) && decide (1 ≤ w.clk.mode) && bit (w.p K.instWinEnable) n && nth false w.inst.outside n &&
        decide (nth 0 w.inst.winSince n + usT (w.p K.instWinFilterUs) ≤ w.now)) = true := by
      simp only [known, up, enabled, outside, lasts, decide_true, Bool.and_self]
    exact congrArg Host.Outcome.next (if_pos enters)
  case outputs =>
    intro s t n w
    have passed : s.advance t = w := rfl
    refine ⟨fun known up mode => ?_, fun a written late => ?_⟩
    · have meaning : exec (.fqoUpdate t n) s = execFqoUpdate t n s := rfl
      have drives : ¬ (decide (4 ≤ n) || decide (w.clk.mode < 2) || w.p (K.instFqoMode + n) == 0) = true := by
        simp only [Bool.or_eq_true, decide_eq_true_iff, beq_iff_eq, not_or]
        omega
      simp only [meaning, execFqoUpdate, passed, if_neg drives]
      exact ⟨fun v value => by rw [value], fun unknown => by rw [unknown]⟩
    · have meaning : exec (.fqoTimeout t n) s = execFqoTimeout t n s := rfl
      simp only [meaning, execFqoTimeout, passed, written, if_pos late]

end Sys2Proof
end

section
/-!
PROOFS. Display frames and waterfall rows, each where the guard of its command passes (R434, R436 to R438).
-/
namespace Sys2Proof
open Machine

/-- Settles O50: each command's guard on the state that time has passed to. (That a row is formed at its command, over ROW_US from the
last row's end, is log 42.) -/
theorem displayCommandsComplete : Obligations.DisplayCommandsComplete := by
  unfold Obligations.DisplayCommandsComplete
  refine ⟨?starts, ?ends, ?row⟩
  case starts =>
    intro s t underruns w scans
    exact congrArg Host.Outcome.next (if_neg (ne_true_of_eq_false (congrArg not scans)))
  case ends =>
    intro s t w framed scans
    have shown : ¬ (!w.disp.inFrame || !w.scans 0) = true := by
      simp only [framed, scans, Bool.not_true, Bool.or_self, Bool.false_eq_true, not_false_iff]
    exact congrArg Host.Outcome.next (if_neg shown)
  case row =>
    intro s t output d w n a b shown known has up enabled due
    have meaning : exec (.waterfallRow t output) s = execWaterfallRow t output s := rfl
    have passed : s.advance t = w := rfl
    have flows : ¬ (decide (1 < output) || !w.hasOutput output || !w.active || !dEnable d || decide (w.now < b)) = true := by
      rw [decide_eq_false (Nat.not_lt.mpr known), decide_eq_false (Nat.not_lt.mpr due)]
      simp only [has, up, enabled, Bool.not_true, Bool.or_self, Bool.false_eq_true, not_false_iff]
    simp only [meaning, execWaterfallRow, passed]
    rw [shown]
    exact congrArg Host.Outcome.next (if_neg flows)

end Sys2Proof
end

section
/-!
PROOFS. Loops and references lost and regained, forced switches, gating, waking and draining, each where the guard of its command passes
(R441 to R450).
-/
namespace Sys2Proof
open Machine

/-- Settles O51: each command's guard on the state that time has passed to, and then what its loop, reference or multiplexer does.
(That a forced switch of a free multiplexer turns it over is log 38.) -/
theorem clockCommandsComplete : Obligations.ClockCommandsComplete := by
  unfold Obligations.ClockCommandsComplete
  refine ⟨?loops, ?references, ?switches, ?gates, fun s t accesses => rfl, ?pcie⟩
  case loops =>
    intro s t loop w
    refine ⟨fun locked => congrArg Host.Outcome.next (if_pos locked), fun unlocked runs crystal => ?_⟩
    intro v
    have locks : ¬ (w.loopLocked loop || !w.loopRuns loop || !w.clk.xa) = true := by
      simp only [unlocked, runs, crystal, Bool.not_true, Bool.or_self, Bool.false_eq_true, not_false_iff]
    refine ⟨?_, ?_, ?_, ?_⟩
    · rintro rfl
      exact congrArg Host.Outcome.next (if_neg locks)
    · rintro rfl
      exact congrArg Host.Outcome.next (if_neg locks)
    · rintro rfl
      exact congrArg Host.Outcome.next (if_neg locks)
    · rintro (rfl | rfl)
      · exact congrArg Host.Outcome.next (if_neg locks)
      · exact congrArg Host.Outcome.next (if_neg locks)
  case references =>
    intro s t w
    refine ⟨fun runs => ?_, fun lost => ?_, fun runs => ?_, fun lost powered => ?_⟩
    · exact congrArg Host.Outcome.next (if_neg (ne_true_of_eq_false (congrArg not runs)))
    · exact congrArg Host.Outcome.next (if_neg (ne_true_of_eq_false lost))
    · exact congrArg Host.Outcome.next (if_neg (ne_true_of_eq_false (congrArg not runs)))
    · have starts : ¬ (w.clk.xb || !w.sys.powered) = true := by
        simp only [lost, powered, Bool.not_true, Bool.or_self, Bool.false_eq_true, not_false_iff]
      exact congrArg Host.Outcome.next (if_neg starts)
  case switches =>
    intro s t w
    have turns {onBackup runs : Bool} (free : onBackup = false ∨ runs = true) : ¬ (onBackup && !runs) = true := by
      obtain off | up := free
      · simp [off]
      · simp [up]
    exact ⟨fun free => congrArg Host.Outcome.next (if_neg (turns free)),
      fun free => congrArg Host.Outcome.next (if_neg (turns free)), rfl, rfl⟩
  case gates =>
    intro s t d w v
    refine ⟨fun first last enabled unshown runs idle => ?_, rfl⟩
    have gated : (decide (1 ≤ d) && decide (d ≤ 11) && bit (w.p K.clkGateEn) d && w.p K.clkClkoutSel != d && w.domainRuns d &&
        !w.domainBusy d) = true := by
      simp only [first, last, enabled, bne_iff_ne.mpr unshown, runs, idle, decide_true, Bool.not_false, Bool.and_self]
    have stops : exec (.clockGate t d) s = .next (if (d == 2) = true then v.trackStop else v) :=
      congrArg Host.Outcome.next (if_pos gated)
    rw [stops]
    refine ⟨fun tracker => ?_, fun other => ?_⟩
    · rw [if_pos (beq_iff_eq.mpr tracker)]
    · rw [if_neg fun tracker => other (beq_iff_eq.mp tracker)]
  case pcie =>
    intro s t a w stopping due
    have meaning : exec (.pcieEndpointStop t) s = execPcieEndpointStop t s := rfl
    have passed : s.advance t = w := rfl
    simp only [meaning, execPcieEndpointStop, passed, stopping, if_pos due]

end Sys2Proof
end

section
/-!
PROOFS. One step of the block.
-/
namespace Sys2Proof
open Machine

/-- Settles O54: a step turns on the queue alone. (The idle step is assumption 3.) -/
theorem stepRunsFront : Obligations.StepRunsFront := by
  unfold Obligations.StepRunsFront
  refine ⟨?front, ?idle, ?spelled⟩
  case front =>
    intro s c rest waiting
    rw [step, waiting]
  case idle =>
    intro s empty
    rw [step, empty]
  case spelled =>
    intro s nbits w
    exact ⟨rfl, rfl⟩

end Sys2Proof
end
